-- ==== Sys2Proof/Word.lean ====
section
/-! DEFINITION. The machine's word and byte types (R5: bit 0 is the least significant bit). -/

namespace Sys2Proof

/-- A 32-bit lane or uniform register value, and an instruction word. -/
abbrev Word := BitVec 32

/-- One byte of memory. -/
abbrev Byte := BitVec 8

end Sys2Proof
end

