-- ==== Sys2Proof/Config.lean ====
section
/-! DEFINITION. What the implementation fixes and the spec leaves open, as constants without a body: the functions of outside
standards, the contents of fuses and flash, and what the outside of the device holds. n is always the step counter, so a value
may differ each time. -/

namespace Sys2Proof.Config

/-- The 32-byte seed in fuses (R286). DESIGN CHOICE, safe, log 7. -/
opaque fuseSeed : BitVec 256

/-- Byte i of the 1,952-byte ML-DSA-65 public key derived from a seed (R286): an outside standard. DESIGN CHOICE, safe, log 7. -/
opaque publicKey : BitVec 256 → Nat → Byte

/-- Byte i of the 3,309-byte ML-DSA-65 signature over a message, with the key derived from the fuses (R287, R321): an outside standard.
DESIGN CHOICE, safe, log 7. -/
opaque signature : Nat → List Byte → Nat → Byte

/-- An ML-DSA-65 signature verifies over a message under the key of a certificate (R322): an outside standard. DESIGN CHOICE, safe, log 7.
-/
opaque verifies : List Byte → List Byte → List Byte → Bool

/-- The identity certificate in flash (R286). DESIGN CHOICE, safe, log 7. -/
opaque certificate : List Byte

/-- In a packed fused multiply-add an infinity times a zero plus a quiet NaN raises NV: IEEE 754-2019, section 7.2 leaves it to the
implementation (R64, R107), and R105 settles it for `ffma` and `ffms` only. DESIGN CHOICE, safe, log 24. -/
opaque fmaInvalid : Bool

/-- The check that an image fails (R358, R359). -/
inductive ImageFault where
  | signature
  | version
  | length
  deriving DecidableEq, Repr

/-- Boot n: the check that image k fails, if any (R358, R359). DESIGN CHOICE, safe, log 7. -/
opaque imageCheck : Nat → Nat → Option ImageFault

/-- The check that the image of die d's processor fails when the die leaves off, if any (R355, R358). DESIGN CHOICE, safe, log 7. -/
opaque dieCheck : Nat → Nat → Option ImageFault

/-- The key pair that the root-of-trust core draws from its random source for load n of key slot k: two keys of 256 bits (R279). DESIGN CHOICE,
safe, log 60. -/
opaque keyPair : Nat → Nat → BitVec 512

/-- The key pair under which the shards of a manifest were encrypted: the spec names no way in which it reaches the device that restores them
(R280, R322). DESIGN CHOICE, safe, log 44. -/
opaque shardKeys : List Byte → BitVec 512

/-- The measurement of the image of firmware processor k that the root-of-trust core finds when it restarts, or when the processor's die leaves off
(R329, R355). DESIGN CHOICE, safe, log 7. -/
opaque measured : Nat → Nat → BitVec 256

/-- Boot n: the measurement of image k (R358). DESIGN CHOICE, safe, log 7. -/
opaque imageDigest : Nat → Nat → BitVec 256

/-- The configured total of send permits of a link (R249). DESIGN CHOICE, safe, log 7. -/
opaque permitTotal : Nat → Nat

/-- Traffic of partition p has crossed unit (utype, id) since the unit's last audit (R313). DESIGN CHOICE, safe, log 7; DEDUCED, unsafe,
log 42. -/
opaque crossed : Nat → Nat → Nat → Nat → Bool

/-- The local cycle count of core c (R340). DESIGN CHOICE, safe, log 7. -/
opaque localCycle : Nat → Nat → Nat

/-- Latency sample n: the latency class where its source does not fix it (R22, R340). DESIGN CHOICE, safe, log 7. -/
opaque latencyClass : Nat → Nat

/-- Latency sample n: its six stage times (R340). DESIGN CHOICE, safe, log 7. -/
opaque latencyStages : Nat → BitVec 96

/-- Bank-conflict record i of step n: its number of words beyond 2 (R340). DESIGN CHOICE, safe, log 7. -/
opaque bankWords : Nat → Nat → Nat

/-- Why a warp with a fibre that could run does not issue, or that it issues, at stall sample n (R247). DESIGN CHOICE, safe, log 7; DESIGN
CHOICE, safe, log 56. -/
opaque stallReason : Nat → Nat

/-- Cycles that the fibre of act n waited for a horizon (R341). DESIGN CHOICE, safe, log 7; DEDUCED, safe, log 46. -/
opaque horizonCycles : Nat → Nat

/-- Vault cache hits, misses and HBM bytes of the access of step n (R341). DESIGN CHOICE, safe, log 7. -/
opaque cacheEvents : Nat → Nat × Nat × Nat

/-- Load n is one that a latency sampler tags (R340). DESIGN CHOICE, safe, log 7. -/
opaque tagged : Nat → Bool

/-- Scratchpad access i of step n serialises (R21, R340). DESIGN CHOICE, safe, log 7. -/
opaque serialises : Nat → Nat → Bool

/-- The place in the cache of a superblock of HBM: its vault, counted modulo the vaults of its partition, and its set, counted modulo the
32,768 sets of 16 ways of a vault (R21, R284). DESIGN CHOICE, safe, log 7. -/
opaque cachePlace : Nat → Nat × Nat

/-- The choice, for byte i of host read n, of how many of the applied writes to it are visible (R343). DEDUCED, unsafe, log 49. -/
opaque readPrefix : Nat → Nat → Nat

/-- The fields of a workgroup-halted event that the spec gives no meaning: `LMASK`, `CLK`, `OADDR`, `WIDX` and `INFO`, from low bits up
(R332). DESIGN CHOICE, safe, log 57. -/
opaque haltEvent : Nat → BitVec 241

/-- Manifest i at an outside target named by a kind and an address (R321, R322). DESIGN CHOICE, safe, log 7. -/
opaque manifest : Nat → Nat → Nat → Nat → List Byte

/-- The shards found at an outside target (R321, R322). DESIGN CHOICE, safe, log 7. -/
opaque shards : Nat → Nat → Nat → List (List Byte)

end Sys2Proof.Config
end

