-- ==== Sys2Proof/Syntax.lean ====
section
/-! DEFINITION. The instructions and device steps of the Vyoskile Y9, one constructor per row of the
opcode table (spec/02 R51, R52; spec/95): 227 instruction words with their operand fields (R33 to R39), then the
114 device steps (turn completion, acceptance, host commands, recovery) that the manual calls whole, indivisible
acts, each with the thing it acts on. -/

namespace Sys2Proof

/-- A launch is named by its queue and its packet's sequence number (R330). -/
structure LRef where
  queue : Nat
  seq : Nat
  deriving DecidableEq, Repr

/-- A workgroup of a launch, by its linear index (R10). -/
structure WRef where
  launch : LRef
  wg : Nat
  deriving DecidableEq, Repr

/-- A fibre: the workgroup, the warp's index j within it, and the lane (R9, R10). -/
structure FRef where
  wref : WRef
  warp : Nat
  lane : Nat
  deriving DecidableEq, Repr

/-- What met a translation fault (R277): a fibre access, or an engine command of a launch. -/
inductive FaultSrc where
  | fibre (f : FRef)
  | engine (l : LRef) (n : Nat)
  deriving DecidableEq, Repr

/-- A protected structure (R309): its fence-unit type, its unit id, and which structure of that unit it is. -/
structure UnitId where
  utype : Nat
  unit : Nat
  part : Nat
  deriving DecidableEq, Repr

/-- One constructor per row of spec/opcode_table.json. Fields of instruction words keep the format's names:
d, a, b, g (R33), i the 10-bit immediate as it stands in the word (R43), t the branch-target register. -/
inductive Instr where
  | add (d a b g : Nat)
  | sub (d a b g : Nat)
  | mul (d a b g : Nat)
  | mulh (d a b g : Nat)
  | mulhu (d a b g : Nat)
  | mad (d a b g : Nat)
  | and (d a b g : Nat)
  | or (d a b g : Nat)
  | xor (d a b g : Nat)
  | shl (d a b g : Nat)
  | shr (d a b g : Nat)
  | sar (d a b g : Nat)
  | min (d a b g : Nat)
  | max (d a b g : Nat)
  | minu (d a b g : Nat)
  | maxu (d a b g : Nat)
  | adds (d a b g : Nat)
  | subs (d a b g : Nat)
  | abs (d a g : Nat)
  | neg (d a g : Nat)
  | clz (d a g : Nat)
  | popc (d a g : Nat)
  | brev (d a g : Nat)
  | bfe (d a b g : Nat)
  | bfi (d a b g : Nat)
  | sel (d a b p : Nat)
  | div (d a b g : Nat)
  | divu (d a b g : Nat)
  | rem (d a b g : Nat)
  | remu (d a b g : Nat)
  | addw (d a b g : Nat)
  | subw (d a b g : Nat)
  | shlw (d a b g : Nat)
  | mov (d a g : Nat)
  | dp4a (d a b g : Nat)
  | addi (d a i : Nat)
  | andi (d a i : Nat)
  | ori (d a i : Nat)
  | xori (d a i : Nat)
  | shli (d a i : Nat)
  | shri (d a i : Nat)
  | sari (d a i : Nat)
  | muli (d a i : Nat)
  | addwi (d a i : Nat)
  | movi (d i : Nat)
  | li (d g : Nat) (lit : Word)
  | icmpEq (d a b g : Nat)
  | icmpNe (d a b g : Nat)
  | icmpLt (d a b g : Nat)
  | icmpLe (d a b g : Nat)
  | icmpLtu (d a b g : Nat)
  | icmpLeu (d a b g : Nat)
  | icmpiEq (d a i : Nat)
  | icmpiNe (d a i : Nat)
  | icmpiLt (d a i : Nat)
  | icmpiLe (d a i : Nat)
  | icmpiLtu (d a i : Nat)
  | icmpiLeu (d a i : Nat)
  | shfl (d a b g : Nat)
  | shflx (d a b g : Nat)
  | bcast (d a b g : Nat)
  | voteany (d a g : Nat)
  | voteall (d a g : Nat)
  | ballot (d a g : Nat)
  | redadd (d a g : Nat)
  | redmin (d a g : Nat)
  | redmax (d a g : Nat)
  | scanadd (d a g : Nat)
  | elect (d g : Nat)
  | electw (d g : Nat)
  | lid (d g : Nat)
  | movs (d a g : Nat)
  | rdsr (d i : Nat)
  | wrsr (a i : Nat)
  | uadd (d a b g : Nat)
  | usub (d a b g : Nat)
  | umul (d a b g : Nat)
  | uand (d a b g : Nat)
  | uor (d a b g : Nat)
  | uxor (d a b g : Nat)
  | ushl (d a b g : Nat)
  | ushr (d a b g : Nat)
  | uaddw (d a b g : Nat)
  | umov (d a g : Nat)
  | uget (d a b g : Nat)
  | uaddi (d a i : Nat)
  | uli (d g : Nat) (lit : Word)
  | pand (d a b g : Nat)
  | por (d a b g : Nat)
  | pxor (d a b g : Nat)
  | pandn (d a b g : Nat)
  | pset (d i : Nat)
  | pget (d g : Nat)
  | pput (a g : Nat)
  | fadd (d a b g : Nat)
  | fsub (d a b g : Nat)
  | fmul (d a b g : Nat)
  | ffma (d a b g : Nat)
  | ffms (d a b g : Nat)
  | fmin (d a b g : Nat)
  | fmax (d a b g : Nat)
  | fabs (d a g : Nat)
  | fneg (d a g : Nat)
  | fdiv (d a b g : Nat)
  | fsqrt (d a g : Nat)
  | frcp (d a g : Nat)
  | frsq (d a g : Nat)
  | fex2 (d a g : Nat)
  | flg2 (d a g : Nat)
  | frnd (d a g : Nat)
  | fcls (d a g : Nat)
  | fscl (d a b g : Nat)
  | fcmpEq (d a b g : Nat)
  | fcmpLt (d a b g : Nat)
  | fcmpLe (d a b g : Nat)
  | fcmpUn (d a b g : Nat)
  | hadd2 (d a b g : Nat)
  | hmul2 (d a b g : Nat)
  | hfma2 (d a b g : Nat)
  | badd2 (d a b g : Nat)
  | bmul2 (d a b g : Nat)
  | bfma2 (d a b g : Nat)
  | dp2h (d a b g : Nat)
  | dp2b (d a b g : Nat)
  | cvtfi (d a g : Nat)
  | cvtfu (d a g : Nat)
  | cvtif (d a g : Nat)
  | cvtuf (d a g : Nat)
  | cvth (d a b g : Nat)
  | cvthl (d a g : Nat)
  | cvthh (d a g : Nat)
  | cvtb (d a b g : Nat)
  | cvtbl (d a g : Nat)
  | cvtbh (d a g : Nat)
  | cvte4 (d a b g : Nat)
  | cvte4f (d a g : Nat)
  | cvte5 (d a b g : Nat)
  | cvte5f (d a g : Nat)
  | setrm (i : Nat)
  | nop (g : Nat)
  | prep (t x : Nat)
  | prepr (d a g : Nat)
  | jmp (t g : Nat)
  | call (t g f : Nat)
  | ret (g f : Nat)
  | fork (t g a : Nat)
  | halt (g : Nat)
  | wsync (g : Nat)
  | bar (i : Nat)
  | arv (i : Nat)
  | bwait (i : Nat)
  | cede (g : Nat)
  | waitne (a b g : Nat)
  | clk (i : Nat)
  | trap (i : Nat)
  | brk (g : Nat)
  | ph (flags : Nat) (live0 live1 : Word) (spst splen : Nat)
  | icinv (a b g : Nat)
  | dbgm (d a g : Nat)
  | mmf (tile da db mode id pre0 pre1 org kd : Nat)
  | mmt (tile da db mode id pre0 pre1 org kd : Nat)
  | mzero (d g : Nat)
  | mld (d a i : Nat)
  | mst (d a i : Nat)
  | mcommit (g : Nat)
  | mwait (i : Nat)
  | mrd (d a b g : Nat)
  | mwr (d a b g : Nat)
  | mscale (d a g : Nat)
  | ldb (d a i : Nat)
  | ldsb (d a i : Nat)
  | ldh (d a i : Nat)
  | ldsh (d a i : Nat)
  | ldw (d a i : Nat)
  | ldd (d a i : Nat)
  | ldq (d a i : Nat)
  | stb (d a i : Nat)
  | sth (d a i : Nat)
  | stw (d a i : Nat)
  | std (d a i : Nat)
  | stq (d a i : Nat)
  | uldw (d a i : Nat)
  | uldd (d a i : Nat)
  | pf (a i : Nat)
  | pin (a b g : Nat)
  | unpin (a b g : Nat)
  | ldbx (d a b g : Nat)
  | ldhx (d a b g : Nat)
  | ldwx (d a b g : Nat)
  | lddx (d a b g : Nat)
  | stbx (d a b g : Nat)
  | sthx (d a b g : Nat)
  | stwx (d a b g : Nat)
  | stdx (d a b g : Nat)
  | amoadd (d a b g : Nat)
  | amomin (d a b g : Nat)
  | amomax (d a b g : Nat)
  | amominu (d a b g : Nat)
  | amomaxu (d a b g : Nat)
  | amoand (d a b g : Nat)
  | amoor (d a b g : Nat)
  | amoxor (d a b g : Nat)
  | amoxchg (d a b g : Nat)
  | amocas (d a b g : Nat)
  | amofadd (d a b g : Nat)
  | amofmin (d a b g : Nat)
  | amofmax (d a b g : Nat)
  | amoaddw (d a b g : Nat)
  | turn (g : Nat)
  | cpy (crb da mode g db sba aux flags : Nat)
  | cpyr (crb da mode g db sba aux flags : Nat)
  | gath (crb da mode g db sba aux flags : Nat)
  | scat (crb da mode g db sba aux flags : Nat)
  | sbinit (a b g : Nat)
  | sbexp (a b g : Nat)
  | sbarv (a b g : Nat)
  | sbwait (a b g : Nat)
  | sbtest (d a b g : Nat)
  | dset (a i : Nat)
  | wdset (a g : Nat)
  | wdq (a b g : Nat)
  | hopen (a b g : Nat)
  | hpush (d a b g : Nat)
  | hclose (a g : Nat)
  | hnext (d a g : Nat)
  | hdone (a b g : Nat)
  | hsync (a g : Nat)
  | clauseEntry (f : FRef)
  | convergencePointExecute (f : FRef)
  | convergenceFault (f : FRef)
  | waitDeadlock (l : LRef)
  | harpStall (w : WRef)
  | longLatencyResult (f : FRef) (n : Nat)
  | turnCompletion (f : FRef)
  | publicationApply (l : LRef) (n : Nat)
  | atomicPerform (f : FRef)
  | barrierExit (f : FRef)
  | forkLaneDecision (f : FRef)
  | engineCommandExecute (l : LRef) (n : Nat)
  | stageBarrierActApply (w : WRef) (a : Nat)
  | phaseSettle (w : WRef) (a : Nat)
  | matrixCommandEffect (w : WRef) (n : Nat)
  | wdqAnswer (l : LRef) (n : Nat)
  | harpActApply (f : FRef)
  | icinvApply (l : LRef) (n : Nat)
  | packetFetch (q : Nat)
  | acceptance (q : Nat)
  | pressBuild (l : LRef)
  | workgroupPlacement (l : LRef)
  | workgroupExit (w : WRef)
  | completionRecordWrite (l : LRef)
  | rotationSave (w : WRef)
  | rotationRestore (w : WRef)
  | warpPromotion (w : WRef) (j : Nat)
  | permitAudit (link permits flits slots : Nat)
  | hostFaultQueueEntry (x : FaultSrc)
  | stopQueuePost (f : FRef)
  | resumeFault (p tag : Nat)
  | abortFault (p tag : Nat)
  | continueStop (p tag : Nat)
  | endStop (p tag : Nat)
  | drainComplete (l : LRef)
  | hostAbort (l : LRef)
  | preEmpt
  | preemptionBudgetExpiry (l : LRef)
  | workgroupSave (w : WRef)
  | restoreLaunch
  | createPartition
  | destroyPartition
  | grantGranule
  | createContext
  | destroyContext
  | loadDecodeTable
  | loadDescriptors
  | allocateExtents
  | freeExtents
  | pageTableAdd
  | pageTableMove
  | pageTableRestrict
  | restrictTakesEffect (p c : Nat)
  | assignQueue
  | stepMark
  | stepPolicy
  | snapshotSlots
  | exportSnapshot
  | restoreSnapshot
  | setPowerStateRunLevel
  | setPowerStateIdle
  | setPowerStateRetention
  | setPowerStateOff
  | attest
  | readCertificate
  | bindPort
  | setPowerLimit
  | setResidencyQuota
  | notifyWrite (p q : Nat) (t : Word)
  | queueConfigure (p q : Nat) (ctl : BitVec 64)
  | ringEnable (p r : Nat) (v : BitVec 64)
  | ringTailWrite (p r : Nat) (t : Word)
  | evtailWrite (p : Nat) (t : Word)
  | registerWrite (p off : Nat) (v : Word)
  | hostWindowWrite (p off : Nat) (bytes : List Byte)
  | hostWriteTakesEffect (p : Nat)
  | hostWindowRead (p off len : Nat)
  | forwardFrame (link : Nat) (frame : List Byte)
  | residencyReport (link : Nat)
  | dbgAttach (p : Nat)
  | dbgDetach (p : Nat)
  | dbgHalt (p : Nat)
  | dbgResume (p : Nat)
  | dbgStep (p : Nat)
  | dbgStepComplete (f : FRef)
  | dbgSetBreakpoint (p : Nat)
  | dbgClearBreakpoint (p : Nat)
  | dbgSetWatchpoint (p : Nat)
  | dbgClearWatchpoint (p : Nat)
  | dbgReadFibre (p : Nat)
  | dbgWriteFibre (p : Nat)
  | workgroupHaltComplete (w : WRef)
  | stallSample (p core : Nat)
  | errorWindowStart (u : UnitId)
  | correctedError (u : UnitId)
  | uncorrectableError (u : UnitId)
  | fence (u : UnitId)
  | healthRecordPost
  | criticalThermalLimit (die : Nat)
  | thermalWarning (die : Nat)
  | watchdogFailure (proc : Nat)
  | rootOfTrustFault
  | rollback (p : Nat)
  | replayComplete (p : Nat)
  | stepTimerExpiry (p : Nat)
  | snapshotStart (p : Nat)
  | snapshotPageCopy (p page : Nat)
  | snapshotComplete (p : Nat)
  | dualRunDigestCompare (p : Nat)
  | powerMeterWindow (p energy : Nat)
  | boot
  | peerWindowAccess (f : FRef)
  | directExclusiveAccess (f : FRef)
  | spdmRequest
  deriving DecidableEq, Repr

end Sys2Proof
end

