-- ==== Sys2Proof/WellFormed.lean ====
section
/-! DEFINITION. Which instruction terms are legal (R40, R43, R48, R52, R123, R172): every register number in
its range, pairs even, groups of four aligned, no reserved value. A word whose operands break one of these checks is
an illegal encoding. Device steps name at most lanes 0 to 31. -/

namespace Sys2Proof

/-- `v` and `s` registers take 0 to 63 (R40). -/
def okV (n : Nat) : Bool := n < 64
/-- An even register of a 64-bit pair (R18, R40). -/
def okPair (n : Nat) : Bool := n < 64 && n % 2 == 0
/-- The first register of a group of four (R40). -/
def okQuad (n : Nat) : Bool := n < 64 && n % 4 == 0
/-- Predicates, tiles and guards take 0 to 15 (R40). -/
def okP (n : Nat) : Bool := n < 16
/-- An even predicate of a pair (R40). -/
def okPP (n : Nat) : Bool := n < 16 && n % 2 == 0
/-- Handles take 0 to 3 (R40). -/
def okH (n : Nat) : Bool := n < 4
/-- Branch-target registers take 0 to 7 (R52). -/
def okB (n : Nat) : Bool := n < 8
/-- A whole 10-bit immediate (R43). -/
def okImm10 (n : Nat) : Bool := n < 1024
/-- A 6-bit count with [9:6] zero (R43). -/
def okImm6 (n : Nat) : Bool := n < 64
/-- A descriptor number, or an 8-bit field (R43). -/
def okImm8 (n : Nat) : Bool := n < 256
/-- A sync set (R43). -/
def okImm2 (n : Nat) : Bool := n < 4
/-- The value of `pset` (R43). -/
def okImm1 (n : Nat) : Bool := n < 2
/-- An assigned rounding-mode code (R43, R110). -/
def okRm (n : Nat) : Bool := n < 5
/-- A special register that `wrsr` may name (R101). -/
def okSrW (n : Nat) : Bool := n == 12 || n == 13 || n == 14
/-- A 19-bit displacement field (R35). -/
def okDisp (n : Nat) : Bool := n < 524288
/-- A frame of `call` and `ret`, 32 to 63 reserved (R36). -/
def okFrame (n : Nat) : Bool := n < 32
/-- A matrix command id, 63 reserved (R37). -/
def okCmdId (n : Nat) : Bool := n < 63
/-- A predecessor id, 63 naming none (R37). -/
def okPre (n : Nat) : Bool := n < 64
/-- A depth in units of 8, 0 reserved (R37). -/
def okDepth (n : Nat) : Bool := 0 < n && n < 256
/-- Modes of `mmf` (R123). -/
def okMmfMode (n : Nat) : Bool := n < 2
/-- Modes of `mmt` (R123). -/
def okMmtMode (n : Nat) : Bool := n < 4
/-- Modes of `cpy` (R172). -/
def okCpyMode (n : Nat) : Bool := n < 2
/-- Modes of `cpyr`: side and operation (R172). -/
def okCpyrMode (n : Nat) : Bool := n < 6
/-- The mode of `gath` (R172). -/
def okGathMode (n : Nat) : Bool := n == 0
/-- Modes of `scat` (R172). -/
def okScatMode (n : Nat) : Bool := n == 0 || (n % 2 == 1 && n < 6)
/-- A field that must be zero (R172). -/
def okZero (n : Nat) : Bool := n == 0
/-- COUNT of `gath` and `scat` (R172). -/
def okCount (n : Nat) : Bool := 0 < n && n ≤ 1024
/-- Flags of `ph` (R300). -/
def okPhFlags (n : Nat) : Bool := n < 4
/-- The live scratchpad range of `ph` (R39). -/
def okPhRange (st len : Nat) : Bool := st < 4096 && len ≤ 4096 && st + len ≤ 4096
/-- Lanes are 0 to 31, warps of a workgroup 0 to 31 (R9). -/
def okFRef (f : FRef) : Bool := f.lane < 32 && f.warp < 32
/-- The fibre of a fault source is in range. -/
def okSrc : FaultSrc → Bool
  | .fibre f => okFRef f
  | .engine _ _ => true

/-- Well-formedness of an instruction: the conjunction of the checks of its fields. -/
def Instr.wellFormed (i : Instr) : Bool :=
  match i with
  | .add d a b g => okV d && okV a && okV b && okP g
  | .sub d a b g => okV d && okV a && okV b && okP g
  | .mul d a b g => okV d && okV a && okV b && okP g
  | .mulh d a b g => okV d && okV a && okV b && okP g
  | .mulhu d a b g => okV d && okV a && okV b && okP g
  | .mad d a b g => okV d && okV a && okV b && okP g
  | .and d a b g => okV d && okV a && okV b && okP g
  | .or d a b g => okV d && okV a && okV b && okP g
  | .xor d a b g => okV d && okV a && okV b && okP g
  | .shl d a b g => okV d && okV a && okV b && okP g
  | .shr d a b g => okV d && okV a && okV b && okP g
  | .sar d a b g => okV d && okV a && okV b && okP g
  | .min d a b g => okV d && okV a && okV b && okP g
  | .max d a b g => okV d && okV a && okV b && okP g
  | .minu d a b g => okV d && okV a && okV b && okP g
  | .maxu d a b g => okV d && okV a && okV b && okP g
  | .adds d a b g => okV d && okV a && okV b && okP g
  | .subs d a b g => okV d && okV a && okV b && okP g
  | .abs d a g => okV d && okV a && okP g
  | .neg d a g => okV d && okV a && okP g
  | .clz d a g => okV d && okV a && okP g
  | .popc d a g => okV d && okV a && okP g
  | .brev d a g => okV d && okV a && okP g
  | .bfe d a b g => okV d && okV a && okV b && okP g
  | .bfi d a b g => okV d && okV a && okV b && okP g
  | .sel d a b p => okV d && okV a && okV b && okP p
  | .div d a b g => okV d && okV a && okV b && okP g
  | .divu d a b g => okV d && okV a && okV b && okP g
  | .rem d a b g => okV d && okV a && okV b && okP g
  | .remu d a b g => okV d && okV a && okV b && okP g
  | .addw d a b g => okPair d && okPair a && okPair b && okP g
  | .subw d a b g => okPair d && okPair a && okPair b && okP g
  | .shlw d a b g => okPair d && okPair a && okV b && okP g
  | .mov d a g => okV d && okV a && okP g
  | .dp4a d a b g => okV d && okV a && okV b && okP g
  | .addi d a i => okV d && okV a && okImm10 i
  | .andi d a i => okV d && okV a && okImm10 i
  | .ori d a i => okV d && okV a && okImm10 i
  | .xori d a i => okV d && okV a && okImm10 i
  | .shli d a i => okV d && okV a && okImm6 i
  | .shri d a i => okV d && okV a && okImm6 i
  | .sari d a i => okV d && okV a && okImm6 i
  | .muli d a i => okV d && okV a && okImm10 i
  | .addwi d a i => okPair d && okPair a && okImm10 i
  | .movi d i => okV d && okImm10 i
  | .li d g _ => okV d && okP g
  | .icmpEq d a b g => okPP d && okV a && okV b && okP g
  | .icmpNe d a b g => okPP d && okV a && okV b && okP g
  | .icmpLt d a b g => okPP d && okV a && okV b && okP g
  | .icmpLe d a b g => okPP d && okV a && okV b && okP g
  | .icmpLtu d a b g => okPP d && okV a && okV b && okP g
  | .icmpLeu d a b g => okPP d && okV a && okV b && okP g
  | .icmpiEq d a i => okPP d && okV a && okImm10 i
  | .icmpiNe d a i => okPP d && okV a && okImm10 i
  | .icmpiLt d a i => okPP d && okV a && okImm10 i
  | .icmpiLe d a i => okPP d && okV a && okImm10 i
  | .icmpiLtu d a i => okPP d && okV a && okImm10 i
  | .icmpiLeu d a i => okPP d && okV a && okImm10 i
  | .shfl d a b g => okV d && okV a && okV b && okP g
  | .shflx d a b g => okV d && okV a && okV b && okP g
  | .bcast d a b g => okV d && okV a && okV b && okP g
  | .voteany d a g => okPP d && okP a && okP g
  | .voteall d a g => okPP d && okP a && okP g
  | .ballot d a g => okV d && okP a && okP g
  | .redadd d a g => okV d && okV a && okP g
  | .redmin d a g => okV d && okV a && okP g
  | .redmax d a g => okV d && okV a && okP g
  | .scanadd d a g => okV d && okV a && okP g
  | .elect d g => okPP d && okP g
  | .electw d g => okPP d && okP g
  | .lid d g => okV d && okP g
  | .movs d a g => okV d && okV a && okP g
  | .rdsr d i => okV d && okImm10 i
  | .wrsr a i => okV a && okSrW i
  | .uadd d a b g => okV d && okV a && okV b && okP g
  | .usub d a b g => okV d && okV a && okV b && okP g
  | .umul d a b g => okV d && okV a && okV b && okP g
  | .uand d a b g => okV d && okV a && okV b && okP g
  | .uor d a b g => okV d && okV a && okV b && okP g
  | .uxor d a b g => okV d && okV a && okV b && okP g
  | .ushl d a b g => okV d && okV a && okV b && okP g
  | .ushr d a b g => okV d && okV a && okV b && okP g
  | .uaddw d a b g => okPair d && okPair a && okPair b && okP g
  | .umov d a g => okV d && okV a && okP g
  | .uget d a b g => okV d && okV a && okV b && okP g
  | .uaddi d a i => okV d && okV a && okImm10 i
  | .uli d g _ => okV d && okP g
  | .pand d a b g => okP d && okP a && okP b && okP g
  | .por d a b g => okP d && okP a && okP b && okP g
  | .pxor d a b g => okP d && okP a && okP b && okP g
  | .pandn d a b g => okP d && okP a && okP b && okP g
  | .pset d i => okP d && okImm1 i
  | .pget d g => okV d && okP g
  | .pput a g => okV a && okP g
  | .fadd d a b g => okV d && okV a && okV b && okP g
  | .fsub d a b g => okV d && okV a && okV b && okP g
  | .fmul d a b g => okV d && okV a && okV b && okP g
  | .ffma d a b g => okV d && okV a && okV b && okP g
  | .ffms d a b g => okV d && okV a && okV b && okP g
  | .fmin d a b g => okV d && okV a && okV b && okP g
  | .fmax d a b g => okV d && okV a && okV b && okP g
  | .fabs d a g => okV d && okV a && okP g
  | .fneg d a g => okV d && okV a && okP g
  | .fdiv d a b g => okV d && okV a && okV b && okP g
  | .fsqrt d a g => okV d && okV a && okP g
  | .frcp d a g => okV d && okV a && okP g
  | .frsq d a g => okV d && okV a && okP g
  | .fex2 d a g => okV d && okV a && okP g
  | .flg2 d a g => okV d && okV a && okP g
  | .frnd d a g => okV d && okV a && okP g
  | .fcls d a g => okV d && okV a && okP g
  | .fscl d a b g => okV d && okV a && okV b && okP g
  | .fcmpEq d a b g => okPP d && okV a && okV b && okP g
  | .fcmpLt d a b g => okPP d && okV a && okV b && okP g
  | .fcmpLe d a b g => okPP d && okV a && okV b && okP g
  | .fcmpUn d a b g => okPP d && okV a && okV b && okP g
  | .hadd2 d a b g => okV d && okV a && okV b && okP g
  | .hmul2 d a b g => okV d && okV a && okV b && okP g
  | .hfma2 d a b g => okV d && okV a && okV b && okP g
  | .badd2 d a b g => okV d && okV a && okV b && okP g
  | .bmul2 d a b g => okV d && okV a && okV b && okP g
  | .bfma2 d a b g => okV d && okV a && okV b && okP g
  | .dp2h d a b g => okV d && okV a && okV b && okP g
  | .dp2b d a b g => okV d && okV a && okV b && okP g
  | .cvtfi d a g => okV d && okV a && okP g
  | .cvtfu d a g => okV d && okV a && okP g
  | .cvtif d a g => okV d && okV a && okP g
  | .cvtuf d a g => okV d && okV a && okP g
  | .cvth d a b g => okV d && okV a && okV b && okP g
  | .cvthl d a g => okV d && okV a && okP g
  | .cvthh d a g => okV d && okV a && okP g
  | .cvtb d a b g => okV d && okV a && okV b && okP g
  | .cvtbl d a g => okV d && okV a && okP g
  | .cvtbh d a g => okV d && okV a && okP g
  | .cvte4 d a b g => okV d && okV a && okV b && okP g
  | .cvte4f d a g => okV d && okV a && okP g
  | .cvte5 d a b g => okV d && okV a && okV b && okP g
  | .cvte5f d a g => okV d && okV a && okP g
  | .setrm i => okRm i
  | .nop g => okP g
  | .prep t x => okB t && okDisp x
  | .prepr d a g => okB d && okPair a && okP g
  | .jmp t g => okB t && okP g
  | .call t g f => okB t && okP g && okFrame f
  | .ret g f => okP g && okFrame f
  | .fork t g a => okB t && okP g && okV a
  | .halt g => okP g
  | .wsync g => okP g
  | .bar i => okImm2 i
  | .arv i => okImm2 i
  | .bwait i => okImm2 i
  | .cede g => okP g
  | .waitne a b g => okPair a && okV b && okP g
  | .clk i => okImm10 i
  | .trap i => okImm10 i
  | .brk g => okP g
  | .ph flags _ _ spst splen => okPhFlags flags && okPhRange spst splen
  | .icinv a b g => okPair a && okV b && okP g
  | .dbgm d a g => okV d && okV a && okP g
  | .mmf tile da db mode id pre0 pre1 org kd => okP tile && okImm8 da && okImm8 db && okMmfMode mode && okCmdId id && okPre pre0 && okPre pre1 && okPair org && okDepth kd
  | .mmt tile da db mode id pre0 pre1 org kd => okP tile && okImm8 da && okImm8 db && okMmtMode mode && okCmdId id && okPre pre0 && okPre pre1 && okPair org && okDepth kd
  | .mzero d g => okP d && okP g
  | .mld d a i => okP d && okPair a && okImm8 i
  | .mst d a i => okP d && okPair a && okImm8 i
  | .mcommit g => okP g
  | .mwait i => okImm6 i
  | .mrd d a b g => okV d && okP a && okV b && okP g
  | .mwr d a b g => okP d && okV a && okV b && okP g
  | .mscale d a g => okP d && okV a && okP g
  | .ldb d a i => okV d && okPair a && okImm10 i
  | .ldsb d a i => okV d && okPair a && okImm10 i
  | .ldh d a i => okV d && okPair a && okImm10 i
  | .ldsh d a i => okV d && okPair a && okImm10 i
  | .ldw d a i => okV d && okPair a && okImm10 i
  | .ldd d a i => okPair d && okPair a && okImm10 i
  | .ldq d a i => okQuad d && okPair a && okImm10 i
  | .stb d a i => okV d && okPair a && okImm10 i
  | .sth d a i => okV d && okPair a && okImm10 i
  | .stw d a i => okV d && okPair a && okImm10 i
  | .std d a i => okPair d && okPair a && okImm10 i
  | .stq d a i => okQuad d && okPair a && okImm10 i
  | .uldw d a i => okV d && okPair a && okImm10 i
  | .uldd d a i => okPair d && okPair a && okImm10 i
  | .pf a i => okPair a && okImm10 i
  | .pin a b g => okPair a && okV b && okP g
  | .unpin a b g => okPair a && okV b && okP g
  | .ldbx d a b g => okV d && okPair a && okV b && okP g
  | .ldhx d a b g => okV d && okPair a && okV b && okP g
  | .ldwx d a b g => okV d && okPair a && okV b && okP g
  | .lddx d a b g => okPair d && okPair a && okV b && okP g
  | .stbx d a b g => okV d && okPair a && okV b && okP g
  | .sthx d a b g => okV d && okPair a && okV b && okP g
  | .stwx d a b g => okV d && okPair a && okV b && okP g
  | .stdx d a b g => okPair d && okPair a && okV b && okP g
  | .amoadd d a b g => okV d && okPair a && okV b && okP g
  | .amomin d a b g => okV d && okPair a && okV b && okP g
  | .amomax d a b g => okV d && okPair a && okV b && okP g
  | .amominu d a b g => okV d && okPair a && okV b && okP g
  | .amomaxu d a b g => okV d && okPair a && okV b && okP g
  | .amoand d a b g => okV d && okPair a && okV b && okP g
  | .amoor d a b g => okV d && okPair a && okV b && okP g
  | .amoxor d a b g => okV d && okPair a && okV b && okP g
  | .amoxchg d a b g => okV d && okPair a && okV b && okP g
  | .amocas d a b g => okV d && okPair a && okPair b && okP g
  | .amofadd d a b g => okV d && okPair a && okV b && okP g
  | .amofmin d a b g => okV d && okPair a && okV b && okP g
  | .amofmax d a b g => okV d && okPair a && okV b && okP g
  | .amoaddw d a b g => okPair d && okPair a && okPair b && okP g
  | .turn g => okP g
  | .cpy crb da mode g db sba aux flags => okQuad crb && okImm8 da && okCpyMode mode && okP g && okImm8 db && okV sba && okZero aux && okZero flags
  | .cpyr crb da mode g db sba aux flags => okQuad crb && okImm8 da && okCpyrMode mode && okP g && okImm8 db && okV sba && okZero aux && okZero flags
  | .gath crb da mode g db sba aux flags => okQuad crb && okImm8 da && okGathMode mode && okP g && okImm8 db && okV sba && okV aux && okCount flags
  | .scat crb da mode g db sba aux flags => okQuad crb && okImm8 da && okScatMode mode && okP g && okImm8 db && okV sba && okV aux && okCount flags
  | .sbinit a b g => okV a && okV b && okP g
  | .sbexp a b g => okV a && okV b && okP g
  | .sbarv a b g => okV a && okV b && okP g
  | .sbwait a b g => okV a && okV b && okP g
  | .sbtest d a b g => okPP d && okV a && okV b && okP g
  | .dset a i => okPair a && okImm8 i
  | .wdset a g => okPair a && okP g
  | .wdq a b g => okV a && okV b && okP g
  | .hopen a b g => okH a && okPair b && okP g
  | .hpush d a b g => okQuad d && okH a && okV b && okP g
  | .hclose a g => okH a && okP g
  | .hnext d a g => okV d && okH a && okP g
  | .hdone a b g => okH a && okV b && okP g
  | .hsync a g => okH a && okP g
  | .clauseEntry f => okFRef f
  | .convergencePointExecute f => okFRef f
  | .convergenceFault f => okFRef f
  | .waitDeadlock _ => true
  | .harpStall _ => true
  | .longLatencyResult f _ => okFRef f
  | .turnCompletion f => okFRef f
  | .publicationApply _ _ => true
  | .atomicPerform f => okFRef f
  | .barrierExit f => okFRef f
  | .forkLaneDecision f => okFRef f
  | .engineCommandExecute _ _ => true
  | .stageBarrierActApply _ _ => true
  | .phaseSettle _ _ => true
  | .matrixCommandEffect _ _ => true
  | .wdqAnswer _ _ => true
  | .harpActApply f => okFRef f
  | .icinvApply _ _ => true
  | .packetFetch _ => true
  | .acceptance _ => true
  | .pressBuild _ => true
  | .workgroupPlacement _ => true
  | .workgroupExit _ => true
  | .completionRecordWrite _ => true
  | .rotationSave _ => true
  | .rotationRestore _ => true
  | .warpPromotion _ _ => true
  | .permitAudit _ _ _ _ => true
  | .hostFaultQueueEntry x => okSrc x
  | .stopQueuePost f => okFRef f
  | .resumeFault _ _ => true
  | .abortFault _ _ => true
  | .continueStop _ _ => true
  | .endStop _ _ => true
  | .drainComplete _ => true
  | .hostAbort _ => true
  | .preEmpt => true
  | .preemptionBudgetExpiry _ => true
  | .workgroupSave _ => true
  | .restoreLaunch => true
  | .createPartition => true
  | .destroyPartition => true
  | .grantGranule => true
  | .createContext => true
  | .destroyContext => true
  | .loadDecodeTable => true
  | .loadDescriptors => true
  | .allocateExtents => true
  | .freeExtents => true
  | .pageTableAdd => true
  | .pageTableMove => true
  | .pageTableRestrict => true
  | .restrictTakesEffect _ _ => true
  | .assignQueue => true
  | .stepMark => true
  | .stepPolicy => true
  | .snapshotSlots => true
  | .exportSnapshot => true
  | .restoreSnapshot => true
  | .setPowerStateRunLevel => true
  | .setPowerStateIdle => true
  | .setPowerStateRetention => true
  | .setPowerStateOff => true
  | .attest => true
  | .readCertificate => true
  | .bindPort => true
  | .setPowerLimit => true
  | .setResidencyQuota => true
  | .notifyWrite _ _ _ => true
  | .queueConfigure _ _ _ => true
  | .ringEnable _ _ _ => true
  | .ringTailWrite _ _ _ => true
  | .evtailWrite _ _ => true
  | .registerWrite _ _ _ => true
  | .hostWindowWrite _ _ _ => true
  | .hostWriteTakesEffect _ => true
  | .hostWindowRead _ _ _ => true
  | .forwardFrame _ _ => true
  | .residencyReport _ => true
  | .dbgAttach _ => true
  | .dbgDetach _ => true
  | .dbgHalt _ => true
  | .dbgResume _ => true
  | .dbgStep _ => true
  | .dbgStepComplete f => okFRef f
  | .dbgSetBreakpoint _ => true
  | .dbgClearBreakpoint _ => true
  | .dbgSetWatchpoint _ => true
  | .dbgClearWatchpoint _ => true
  | .dbgReadFibre _ => true
  | .dbgWriteFibre _ => true
  | .workgroupHaltComplete _ => true
  | .stallSample _ _ => true
  | .errorWindowStart _ => true
  | .correctedError _ => true
  | .uncorrectableError _ => true
  | .fence _ => true
  | .healthRecordPost => true
  | .criticalThermalLimit _ => true
  | .thermalWarning _ => true
  | .watchdogFailure _ => true
  | .rootOfTrustFault => true
  | .rollback _ => true
  | .replayComplete _ => true
  | .stepTimerExpiry _ => true
  | .snapshotStart _ => true
  | .snapshotPageCopy _ _ => true
  | .snapshotComplete _ => true
  | .dualRunDigestCompare _ => true
  | .powerMeterWindow _ _ => true
  | .boot => true
  | .peerWindowAccess f => okFRef f
  | .directExclusiveAccess f => okFRef f
  | .spdmRequest => true

/-- The instruction is an instruction word of R51 (not a device step). -/
def Instr.isWord (i : Instr) : Bool :=
  match i with
  | .clauseEntry _ => false
  | .convergencePointExecute _ => false
  | .convergenceFault _ => false
  | .waitDeadlock _ => false
  | .harpStall _ => false
  | .longLatencyResult _ _ => false
  | .turnCompletion _ => false
  | .publicationApply _ _ => false
  | .atomicPerform _ => false
  | .barrierExit _ => false
  | .forkLaneDecision _ => false
  | .engineCommandExecute _ _ => false
  | .stageBarrierActApply _ _ => false
  | .phaseSettle _ _ => false
  | .matrixCommandEffect _ _ => false
  | .wdqAnswer _ _ => false
  | .harpActApply _ => false
  | .icinvApply _ _ => false
  | .packetFetch _ => false
  | .acceptance _ => false
  | .pressBuild _ => false
  | .workgroupPlacement _ => false
  | .workgroupExit _ => false
  | .completionRecordWrite _ => false
  | .rotationSave _ => false
  | .rotationRestore _ => false
  | .warpPromotion _ _ => false
  | .permitAudit _ _ _ _ => false
  | .hostFaultQueueEntry _ => false
  | .stopQueuePost _ => false
  | .resumeFault _ _ => false
  | .abortFault _ _ => false
  | .continueStop _ _ => false
  | .endStop _ _ => false
  | .drainComplete _ => false
  | .hostAbort _ => false
  | .preEmpt => false
  | .preemptionBudgetExpiry _ => false
  | .workgroupSave _ => false
  | .restoreLaunch => false
  | .createPartition => false
  | .destroyPartition => false
  | .grantGranule => false
  | .createContext => false
  | .destroyContext => false
  | .loadDecodeTable => false
  | .loadDescriptors => false
  | .allocateExtents => false
  | .freeExtents => false
  | .pageTableAdd => false
  | .pageTableMove => false
  | .pageTableRestrict => false
  | .restrictTakesEffect _ _ => false
  | .assignQueue => false
  | .stepMark => false
  | .stepPolicy => false
  | .snapshotSlots => false
  | .exportSnapshot => false
  | .restoreSnapshot => false
  | .setPowerStateRunLevel => false
  | .setPowerStateIdle => false
  | .setPowerStateRetention => false
  | .setPowerStateOff => false
  | .attest => false
  | .readCertificate => false
  | .bindPort => false
  | .setPowerLimit => false
  | .setResidencyQuota => false
  | .notifyWrite _ _ _ => false
  | .queueConfigure _ _ _ => false
  | .ringEnable _ _ _ => false
  | .ringTailWrite _ _ _ => false
  | .evtailWrite _ _ => false
  | .registerWrite _ _ _ => false
  | .hostWindowWrite _ _ _ => false
  | .hostWriteTakesEffect _ => false
  | .hostWindowRead _ _ _ => false
  | .forwardFrame _ _ => false
  | .residencyReport _ => false
  | .dbgAttach _ => false
  | .dbgDetach _ => false
  | .dbgHalt _ => false
  | .dbgResume _ => false
  | .dbgStep _ => false
  | .dbgStepComplete _ => false
  | .dbgSetBreakpoint _ => false
  | .dbgClearBreakpoint _ => false
  | .dbgSetWatchpoint _ => false
  | .dbgClearWatchpoint _ => false
  | .dbgReadFibre _ => false
  | .dbgWriteFibre _ => false
  | .workgroupHaltComplete _ => false
  | .stallSample _ _ => false
  | .errorWindowStart _ => false
  | .correctedError _ => false
  | .uncorrectableError _ => false
  | .fence _ => false
  | .healthRecordPost => false
  | .criticalThermalLimit _ => false
  | .thermalWarning _ => false
  | .watchdogFailure _ => false
  | .rootOfTrustFault => false
  | .rollback _ => false
  | .replayComplete _ => false
  | .stepTimerExpiry _ => false
  | .snapshotStart _ => false
  | .snapshotPageCopy _ _ => false
  | .snapshotComplete _ => false
  | .dualRunDigestCompare _ => false
  | .powerMeterWindow _ _ => false
  | .boot => false
  | .peerWindowAccess _ => false
  | .directExclusiveAccess _ => false
  | .spdmRequest => false
  | .add _ _ _ _ => true
  | .sub _ _ _ _ => true
  | .mul _ _ _ _ => true
  | .mulh _ _ _ _ => true
  | .mulhu _ _ _ _ => true
  | .mad _ _ _ _ => true
  | .and _ _ _ _ => true
  | .or _ _ _ _ => true
  | .xor _ _ _ _ => true
  | .shl _ _ _ _ => true
  | .shr _ _ _ _ => true
  | .sar _ _ _ _ => true
  | .min _ _ _ _ => true
  | .max _ _ _ _ => true
  | .minu _ _ _ _ => true
  | .maxu _ _ _ _ => true
  | .adds _ _ _ _ => true
  | .subs _ _ _ _ => true
  | .abs _ _ _ => true
  | .neg _ _ _ => true
  | .clz _ _ _ => true
  | .popc _ _ _ => true
  | .brev _ _ _ => true
  | .bfe _ _ _ _ => true
  | .bfi _ _ _ _ => true
  | .sel _ _ _ _ => true
  | .div _ _ _ _ => true
  | .divu _ _ _ _ => true
  | .rem _ _ _ _ => true
  | .remu _ _ _ _ => true
  | .addw _ _ _ _ => true
  | .subw _ _ _ _ => true
  | .shlw _ _ _ _ => true
  | .mov _ _ _ => true
  | .dp4a _ _ _ _ => true
  | .addi _ _ _ => true
  | .andi _ _ _ => true
  | .ori _ _ _ => true
  | .xori _ _ _ => true
  | .shli _ _ _ => true
  | .shri _ _ _ => true
  | .sari _ _ _ => true
  | .muli _ _ _ => true
  | .addwi _ _ _ => true
  | .movi _ _ => true
  | .li _ _ _ => true
  | .icmpEq _ _ _ _ => true
  | .icmpNe _ _ _ _ => true
  | .icmpLt _ _ _ _ => true
  | .icmpLe _ _ _ _ => true
  | .icmpLtu _ _ _ _ => true
  | .icmpLeu _ _ _ _ => true
  | .icmpiEq _ _ _ => true
  | .icmpiNe _ _ _ => true
  | .icmpiLt _ _ _ => true
  | .icmpiLe _ _ _ => true
  | .icmpiLtu _ _ _ => true
  | .icmpiLeu _ _ _ => true
  | .shfl _ _ _ _ => true
  | .shflx _ _ _ _ => true
  | .bcast _ _ _ _ => true
  | .voteany _ _ _ => true
  | .voteall _ _ _ => true
  | .ballot _ _ _ => true
  | .redadd _ _ _ => true
  | .redmin _ _ _ => true
  | .redmax _ _ _ => true
  | .scanadd _ _ _ => true
  | .elect _ _ => true
  | .electw _ _ => true
  | .lid _ _ => true
  | .movs _ _ _ => true
  | .rdsr _ _ => true
  | .wrsr _ _ => true
  | .uadd _ _ _ _ => true
  | .usub _ _ _ _ => true
  | .umul _ _ _ _ => true
  | .uand _ _ _ _ => true
  | .uor _ _ _ _ => true
  | .uxor _ _ _ _ => true
  | .ushl _ _ _ _ => true
  | .ushr _ _ _ _ => true
  | .uaddw _ _ _ _ => true
  | .umov _ _ _ => true
  | .uget _ _ _ _ => true
  | .uaddi _ _ _ => true
  | .uli _ _ _ => true
  | .pand _ _ _ _ => true
  | .por _ _ _ _ => true
  | .pxor _ _ _ _ => true
  | .pandn _ _ _ _ => true
  | .pset _ _ => true
  | .pget _ _ => true
  | .pput _ _ => true
  | .fadd _ _ _ _ => true
  | .fsub _ _ _ _ => true
  | .fmul _ _ _ _ => true
  | .ffma _ _ _ _ => true
  | .ffms _ _ _ _ => true
  | .fmin _ _ _ _ => true
  | .fmax _ _ _ _ => true
  | .fabs _ _ _ => true
  | .fneg _ _ _ => true
  | .fdiv _ _ _ _ => true
  | .fsqrt _ _ _ => true
  | .frcp _ _ _ => true
  | .frsq _ _ _ => true
  | .fex2 _ _ _ => true
  | .flg2 _ _ _ => true
  | .frnd _ _ _ => true
  | .fcls _ _ _ => true
  | .fscl _ _ _ _ => true
  | .fcmpEq _ _ _ _ => true
  | .fcmpLt _ _ _ _ => true
  | .fcmpLe _ _ _ _ => true
  | .fcmpUn _ _ _ _ => true
  | .hadd2 _ _ _ _ => true
  | .hmul2 _ _ _ _ => true
  | .hfma2 _ _ _ _ => true
  | .badd2 _ _ _ _ => true
  | .bmul2 _ _ _ _ => true
  | .bfma2 _ _ _ _ => true
  | .dp2h _ _ _ _ => true
  | .dp2b _ _ _ _ => true
  | .cvtfi _ _ _ => true
  | .cvtfu _ _ _ => true
  | .cvtif _ _ _ => true
  | .cvtuf _ _ _ => true
  | .cvth _ _ _ _ => true
  | .cvthl _ _ _ => true
  | .cvthh _ _ _ => true
  | .cvtb _ _ _ _ => true
  | .cvtbl _ _ _ => true
  | .cvtbh _ _ _ => true
  | .cvte4 _ _ _ _ => true
  | .cvte4f _ _ _ => true
  | .cvte5 _ _ _ _ => true
  | .cvte5f _ _ _ => true
  | .setrm _ => true
  | .nop _ => true
  | .prep _ _ => true
  | .prepr _ _ _ => true
  | .jmp _ _ => true
  | .call _ _ _ => true
  | .ret _ _ => true
  | .fork _ _ _ => true
  | .halt _ => true
  | .wsync _ => true
  | .bar _ => true
  | .arv _ => true
  | .bwait _ => true
  | .cede _ => true
  | .waitne _ _ _ => true
  | .clk _ => true
  | .trap _ => true
  | .brk _ => true
  | .ph _ _ _ _ _ => true
  | .icinv _ _ _ => true
  | .dbgm _ _ _ => true
  | .mmf _ _ _ _ _ _ _ _ _ => true
  | .mmt _ _ _ _ _ _ _ _ _ => true
  | .mzero _ _ => true
  | .mld _ _ _ => true
  | .mst _ _ _ => true
  | .mcommit _ => true
  | .mwait _ => true
  | .mrd _ _ _ _ => true
  | .mwr _ _ _ _ => true
  | .mscale _ _ _ => true
  | .ldb _ _ _ => true
  | .ldsb _ _ _ => true
  | .ldh _ _ _ => true
  | .ldsh _ _ _ => true
  | .ldw _ _ _ => true
  | .ldd _ _ _ => true
  | .ldq _ _ _ => true
  | .stb _ _ _ => true
  | .sth _ _ _ => true
  | .stw _ _ _ => true
  | .std _ _ _ => true
  | .stq _ _ _ => true
  | .uldw _ _ _ => true
  | .uldd _ _ _ => true
  | .pf _ _ => true
  | .pin _ _ _ => true
  | .unpin _ _ _ => true
  | .ldbx _ _ _ _ => true
  | .ldhx _ _ _ _ => true
  | .ldwx _ _ _ _ => true
  | .lddx _ _ _ _ => true
  | .stbx _ _ _ _ => true
  | .sthx _ _ _ _ => true
  | .stwx _ _ _ _ => true
  | .stdx _ _ _ _ => true
  | .amoadd _ _ _ _ => true
  | .amomin _ _ _ _ => true
  | .amomax _ _ _ _ => true
  | .amominu _ _ _ _ => true
  | .amomaxu _ _ _ _ => true
  | .amoand _ _ _ _ => true
  | .amoor _ _ _ _ => true
  | .amoxor _ _ _ _ => true
  | .amoxchg _ _ _ _ => true
  | .amocas _ _ _ _ => true
  | .amofadd _ _ _ _ => true
  | .amofmin _ _ _ _ => true
  | .amofmax _ _ _ _ => true
  | .amoaddw _ _ _ _ => true
  | .turn _ => true
  | .cpy _ _ _ _ _ _ _ _ => true
  | .cpyr _ _ _ _ _ _ _ _ => true
  | .gath _ _ _ _ _ _ _ _ => true
  | .scat _ _ _ _ _ _ _ _ => true
  | .sbinit _ _ _ => true
  | .sbexp _ _ _ => true
  | .sbarv _ _ _ => true
  | .sbwait _ _ _ => true
  | .sbtest _ _ _ _ => true
  | .dset _ _ => true
  | .wdset _ _ => true
  | .wdq _ _ _ => true
  | .hopen _ _ _ => true
  | .hpush _ _ _ _ => true
  | .hclose _ _ => true
  | .hnext _ _ _ => true
  | .hdone _ _ _ => true
  | .hsync _ _ => true

end Sys2Proof
end

