-- ==== Sys2Proof/Decode.lean ====
section
/-! DEFINITION. Decoding and encoding of instruction words (R32 to R40, R43, R48 to R52). Decoding takes the words
that follow the last instruction of a clause, maps the opcode in [31:22] through a decode table (R49, R50), builds the
native instruction from the fields of its form, and refuses by name. A must-be-zero field is checked by encoding the
instruction again: the word is legal exactly when encoding gives it back. The encoder is written from the same tables. -/

namespace Sys2Proof

/-- Why a word sequence is no instruction: its opcode has no valid decode-table entry (R32), the form needs more words
than remain (R29), or a field that must be zero or a reserved value is not (R48). -/
inductive DecodeErr where
  | undecoded
  | truncated
  | reserved
  deriving DecidableEq, Repr

/-- What decoding answers: the instruction and the words that follow it, or the reason there is none. -/
inductive Decoded where
  | ok (i : Instr) (rest : List Word)
  | bad (e : DecodeErr)
  deriving DecidableEq, Repr

/-- The word formats (R33 to R39). -/
inductive Form where
  | R | I | W | P | T | M | C | PH
  deriving DecidableEq, Repr

/-- The length of a form in words (R33 to R39). -/
def Form.len : Form → Nat
  | .R => 1
  | .I => 1
  | .W => 2
  | .P => 1
  | .T => 1
  | .M => 2
  | .C => 2
  | .PH => 4

/-- The engine classes of clauses and instructions (R28, R32). -/
inductive Cls where
  | V | L | A | M | C
  deriving DecidableEq, Repr

/-- Bits hi..lo of a number (R5, R7). -/
def bits (w hi lo : Nat) : Nat := w / 2 ^ lo % 2 ^ (hi + 1 - lo)

/-- Native opcodes from 0x000 (R51): add, sub, mul, mulh, mulhu, mad, and, or, xor, shl, shr, sar, min, max, minu, maxu, adds, subs, abs, neg, clz, popc, brev, bfe, bfi, sel, div, divu, rem, remu, addw, subw, shlw, mov, dp4a. -/
def build000 (k d a b g _i _w0 _w1 _w2 _w3 : Nat) : Option Instr :=
  match k with
  | 0 => some (.add d a b g)
  | 1 => some (.sub d a b g)
  | 2 => some (.mul d a b g)
  | 3 => some (.mulh d a b g)
  | 4 => some (.mulhu d a b g)
  | 5 => some (.mad d a b g)
  | 6 => some (.and d a b g)
  | 7 => some (.or d a b g)
  | 8 => some (.xor d a b g)
  | 9 => some (.shl d a b g)
  | 10 => some (.shr d a b g)
  | 11 => some (.sar d a b g)
  | 12 => some (.min d a b g)
  | 13 => some (.max d a b g)
  | 14 => some (.minu d a b g)
  | 15 => some (.maxu d a b g)
  | 16 => some (.adds d a b g)
  | 17 => some (.subs d a b g)
  | 18 => some (.abs d a g)
  | 19 => some (.neg d a g)
  | 20 => some (.clz d a g)
  | 21 => some (.popc d a g)
  | 22 => some (.brev d a g)
  | 23 => some (.bfe d a b g)
  | 24 => some (.bfi d a b g)
  | 25 => some (.sel d a b g)
  | 26 => some (.div d a b g)
  | 27 => some (.divu d a b g)
  | 28 => some (.rem d a b g)
  | 29 => some (.remu d a b g)
  | 30 => some (.addw d a b g)
  | 31 => some (.subw d a b g)
  | 32 => some (.shlw d a b g)
  | 33 => some (.mov d a g)
  | 34 => some (.dp4a d a b g)
  | _ => none

/-- Native opcodes from 0x040 (R51): addi, andi, ori, xori, shli, shri, sari, muli, addwi, movi. -/
def build040 (k d a _b _g i _w0 _w1 _w2 _w3 : Nat) : Option Instr :=
  match k with
  | 0 => some (.addi d a i)
  | 1 => some (.andi d a i)
  | 2 => some (.ori d a i)
  | 3 => some (.xori d a i)
  | 4 => some (.shli d a i)
  | 5 => some (.shri d a i)
  | 6 => some (.sari d a i)
  | 7 => some (.muli d a i)
  | 8 => some (.addwi d a i)
  | 9 => some (.movi d i)
  | _ => none

/-- Native opcodes from 0x060 (R51): li. -/
def build060 (k d _a _b g _i _w0 w1 _w2 _w3 : Nat) : Option Instr :=
  match k with
  | 0 => some (.li d g (BitVec.ofNat 32 w1))
  | _ => none

/-- Native opcodes from 0x070 (R51): icmp_eq, icmp_ne, icmp_lt, icmp_le, icmp_ltu, icmp_leu. -/
def build070 (k d a b g _i _w0 _w1 _w2 _w3 : Nat) : Option Instr :=
  match k with
  | 0 => some (.icmpEq d a b g)
  | 1 => some (.icmpNe d a b g)
  | 2 => some (.icmpLt d a b g)
  | 3 => some (.icmpLe d a b g)
  | 4 => some (.icmpLtu d a b g)
  | 5 => some (.icmpLeu d a b g)
  | _ => none

/-- Native opcodes from 0x078 (R51): icmpi_eq, icmpi_ne, icmpi_lt, icmpi_le, icmpi_ltu, icmpi_leu. -/
def build078 (k d a _b _g i _w0 _w1 _w2 _w3 : Nat) : Option Instr :=
  match k with
  | 0 => some (.icmpiEq d a i)
  | 1 => some (.icmpiNe d a i)
  | 2 => some (.icmpiLt d a i)
  | 3 => some (.icmpiLe d a i)
  | 4 => some (.icmpiLtu d a i)
  | 5 => some (.icmpiLeu d a i)
  | _ => none

/-- Native opcodes from 0x080 (R51): shfl, shflx, bcast, voteany, voteall, ballot, redadd, redmin, redmax, scanadd, elect, electw, lid, movs, rdsr, wrsr. -/
def build080 (k d a b g i _w0 _w1 _w2 _w3 : Nat) : Option Instr :=
  match k with
  | 0 => some (.shfl d a b g)
  | 1 => some (.shflx d a b g)
  | 2 => some (.bcast d a b g)
  | 3 => some (.voteany d a g)
  | 4 => some (.voteall d a g)
  | 5 => some (.ballot d a g)
  | 6 => some (.redadd d a g)
  | 7 => some (.redmin d a g)
  | 8 => some (.redmax d a g)
  | 9 => some (.scanadd d a g)
  | 10 => some (.elect d g)
  | 11 => some (.electw d g)
  | 12 => some (.lid d g)
  | 13 => some (.movs d a g)
  | 14 => some (.rdsr d i)
  | 15 => some (.wrsr a i)
  | _ => none

/-- Native opcodes from 0x0A0 (R51): uadd, usub, umul, uand, uor, uxor, ushl, ushr, uaddw, umov, uget, uaddi, uli. -/
def build0A0 (k d a b g i _w0 w1 _w2 _w3 : Nat) : Option Instr :=
  match k with
  | 0 => some (.uadd d a b g)
  | 1 => some (.usub d a b g)
  | 2 => some (.umul d a b g)
  | 3 => some (.uand d a b g)
  | 4 => some (.uor d a b g)
  | 5 => some (.uxor d a b g)
  | 6 => some (.ushl d a b g)
  | 7 => some (.ushr d a b g)
  | 8 => some (.uaddw d a b g)
  | 9 => some (.umov d a g)
  | 10 => some (.uget d a b g)
  | 11 => some (.uaddi d a i)
  | 12 => some (.uli d g (BitVec.ofNat 32 w1))
  | _ => none

/-- Native opcodes from 0x0C0 (R51): pand, por, pxor, pandn, pset, pget, pput. -/
def build0C0 (k d a b g i _w0 _w1 _w2 _w3 : Nat) : Option Instr :=
  match k with
  | 0 => some (.pand d a b g)
  | 1 => some (.por d a b g)
  | 2 => some (.pxor d a b g)
  | 3 => some (.pandn d a b g)
  | 4 => some (.pset d i)
  | 5 => some (.pget d g)
  | 6 => some (.pput a g)
  | _ => none

/-- Native opcodes from 0x100 (R51): fadd, fsub, fmul, ffma, ffms, fmin, fmax, fabs, fneg, fdiv, fsqrt, frcp, frsq, fex2, flg2, frnd, fcls, fscl, fcmp_eq, fcmp_lt, fcmp_le, fcmp_un, hadd2, hmul2, hfma2, badd2, bmul2, bfma2, dp2h, dp2b. -/
def build100 (k d a b g _i _w0 _w1 _w2 _w3 : Nat) : Option Instr :=
  match k with
  | 0 => some (.fadd d a b g)
  | 1 => some (.fsub d a b g)
  | 2 => some (.fmul d a b g)
  | 3 => some (.ffma d a b g)
  | 4 => some (.ffms d a b g)
  | 5 => some (.fmin d a b g)
  | 6 => some (.fmax d a b g)
  | 7 => some (.fabs d a g)
  | 8 => some (.fneg d a g)
  | 9 => some (.fdiv d a b g)
  | 10 => some (.fsqrt d a g)
  | 11 => some (.frcp d a g)
  | 12 => some (.frsq d a g)
  | 13 => some (.fex2 d a g)
  | 14 => some (.flg2 d a g)
  | 15 => some (.frnd d a g)
  | 16 => some (.fcls d a g)
  | 17 => some (.fscl d a b g)
  | 18 => some (.fcmpEq d a b g)
  | 19 => some (.fcmpLt d a b g)
  | 20 => some (.fcmpLe d a b g)
  | 21 => some (.fcmpUn d a b g)
  | 22 => some (.hadd2 d a b g)
  | 23 => some (.hmul2 d a b g)
  | 24 => some (.hfma2 d a b g)
  | 25 => some (.badd2 d a b g)
  | 26 => some (.bmul2 d a b g)
  | 27 => some (.bfma2 d a b g)
  | 28 => some (.dp2h d a b g)
  | 29 => some (.dp2b d a b g)
  | _ => none

/-- Native opcodes from 0x140 (R51): cvtfi, cvtfu, cvtif, cvtuf, cvth, cvthl, cvthh, cvtb, cvtbl, cvtbh, cvte4, cvte4f, cvte5, cvte5f, setrm. -/
def build140 (k d a b g i _w0 _w1 _w2 _w3 : Nat) : Option Instr :=
  match k with
  | 0 => some (.cvtfi d a g)
  | 1 => some (.cvtfu d a g)
  | 2 => some (.cvtif d a g)
  | 3 => some (.cvtuf d a g)
  | 4 => some (.cvth d a b g)
  | 5 => some (.cvthl d a g)
  | 6 => some (.cvthh d a g)
  | 7 => some (.cvtb d a b g)
  | 8 => some (.cvtbl d a g)
  | 9 => some (.cvtbh d a g)
  | 10 => some (.cvte4 d a b g)
  | 11 => some (.cvte4f d a g)
  | 12 => some (.cvte5 d a b g)
  | 13 => some (.cvte5f d a g)
  | 14 => some (.setrm i)
  | _ => none

/-- Native opcodes from 0x200 (R51): nop, prep, prepr, jmp, call, ret, fork, halt, wsync, bar, arv, bwait, cede, waitne, clk, trap, brk, ph, icinv, dbgm. -/
def build200 (k d a b g i w0 w1 w2 w3 : Nat) : Option Instr :=
  match k with
  | 0 => some (.nop g)
  | 1 => some (.prep (bits w0 21 19) (bits w0 18 0))
  | 2 => some (.prepr d a g)
  | 3 => some (.jmp (bits w0 21 19) (bits w0 18 15))
  | 4 => some (.call (bits w0 21 19) (bits w0 18 15) (bits w0 14 9))
  | 5 => some (.ret (bits w0 18 15) (bits w0 14 9))
  | 6 => some (.fork (bits w0 21 19) (bits w0 18 15) (bits w0 14 9))
  | 7 => some (.halt g)
  | 8 => some (.wsync g)
  | 9 => some (.bar i)
  | 10 => some (.arv i)
  | 11 => some (.bwait i)
  | 12 => some (.cede g)
  | 13 => some (.waitne a b g)
  | 14 => some (.clk i)
  | 15 => some (.trap i)
  | 16 => some (.brk g)
  | 17 => some (.ph (bits w0 21 0) (BitVec.ofNat 32 w1) (BitVec.ofNat 32 w2) (bits w3 31 16) (bits w3 15 0))
  | 18 => some (.icinv a b g)
  | 19 => some (.dbgm d a g)
  | _ => none

/-- Native opcodes from 0x280 (R51): mmf, mmt, mzero, mld, mst, mcommit, mwait, mrd, mwr, mscale. -/
def build280 (k d a b g i w0 w1 _w2 _w3 : Nat) : Option Instr :=
  match k with
  | 0 => some (.mmf (bits w0 21 18) (bits w0 17 10) (bits w0 9 2) (bits w0 1 0) (bits w1 31 26) (bits w1 25 20) (bits w1 19 14) (bits w1 13 8) (bits w1 7 0))
  | 1 => some (.mmt (bits w0 21 18) (bits w0 17 10) (bits w0 9 2) (bits w0 1 0) (bits w1 31 26) (bits w1 25 20) (bits w1 19 14) (bits w1 13 8) (bits w1 7 0))
  | 2 => some (.mzero d g)
  | 3 => some (.mld d a i)
  | 4 => some (.mst d a i)
  | 5 => some (.mcommit g)
  | 6 => some (.mwait i)
  | 7 => some (.mrd d a b g)
  | 8 => some (.mwr d a b g)
  | 9 => some (.mscale d a g)
  | _ => none

/-- Native opcodes from 0x300 (R51): ldb, ldsb, ldh, ldsh, ldw, ldd, ldq, stb, sth, stw, std, stq, uldw, uldd, pf, pin, unpin. -/
def build300 (k d a b g i _w0 _w1 _w2 _w3 : Nat) : Option Instr :=
  match k with
  | 0 => some (.ldb d a i)
  | 1 => some (.ldsb d a i)
  | 2 => some (.ldh d a i)
  | 3 => some (.ldsh d a i)
  | 4 => some (.ldw d a i)
  | 5 => some (.ldd d a i)
  | 6 => some (.ldq d a i)
  | 7 => some (.stb d a i)
  | 8 => some (.sth d a i)
  | 9 => some (.stw d a i)
  | 10 => some (.std d a i)
  | 11 => some (.stq d a i)
  | 12 => some (.uldw d a i)
  | 13 => some (.uldd d a i)
  | 14 => some (.pf a i)
  | 15 => some (.pin a b g)
  | 16 => some (.unpin a b g)
  | _ => none

/-- Native opcodes from 0x320 (R51): ldbx, ldhx, ldwx, lddx, stbx, sthx, stwx, stdx. -/
def build320 (k d a b g _i _w0 _w1 _w2 _w3 : Nat) : Option Instr :=
  match k with
  | 0 => some (.ldbx d a b g)
  | 1 => some (.ldhx d a b g)
  | 2 => some (.ldwx d a b g)
  | 3 => some (.lddx d a b g)
  | 4 => some (.stbx d a b g)
  | 5 => some (.sthx d a b g)
  | 6 => some (.stwx d a b g)
  | 7 => some (.stdx d a b g)
  | _ => none

/-- Native opcodes from 0x340 (R51): amoadd, amomin, amomax, amominu, amomaxu, amoand, amoor, amoxor, amoxchg, amocas, amofadd, amofmin, amofmax, amoaddw. -/
def build340 (k d a b g _i _w0 _w1 _w2 _w3 : Nat) : Option Instr :=
  match k with
  | 0 => some (.amoadd d a b g)
  | 1 => some (.amomin d a b g)
  | 2 => some (.amomax d a b g)
  | 3 => some (.amominu d a b g)
  | 4 => some (.amomaxu d a b g)
  | 5 => some (.amoand d a b g)
  | 6 => some (.amoor d a b g)
  | 7 => some (.amoxor d a b g)
  | 8 => some (.amoxchg d a b g)
  | 9 => some (.amocas d a b g)
  | 10 => some (.amofadd d a b g)
  | 11 => some (.amofmin d a b g)
  | 12 => some (.amofmax d a b g)
  | 13 => some (.amoaddw d a b g)
  | _ => none

/-- Native opcodes from 0x350 (R51): turn. -/
def build350 (k _d _a _b g _i _w0 _w1 _w2 _w3 : Nat) : Option Instr :=
  match k with
  | 0 => some (.turn g)
  | _ => none

/-- Native opcodes from 0x380 (R51): cpy, cpyr, gath, scat, sbinit, sbexp, sbarv, sbwait, sbtest, dset, wdset, wdq. -/
def build380 (k d a b g i w0 w1 _w2 _w3 : Nat) : Option Instr :=
  match k with
  | 0 => some (.cpy (bits w0 21 16) (bits w0 15 8) (bits w0 7 4) (bits w0 3 0) (bits w1 31 24) (bits w1 23 18) (bits w1 17 12) (bits w1 11 0))
  | 1 => some (.cpyr (bits w0 21 16) (bits w0 15 8) (bits w0 7 4) (bits w0 3 0) (bits w1 31 24) (bits w1 23 18) (bits w1 17 12) (bits w1 11 0))
  | 2 => some (.gath (bits w0 21 16) (bits w0 15 8) (bits w0 7 4) (bits w0 3 0) (bits w1 31 24) (bits w1 23 18) (bits w1 17 12) (bits w1 11 0))
  | 3 => some (.scat (bits w0 21 16) (bits w0 15 8) (bits w0 7 4) (bits w0 3 0) (bits w1 31 24) (bits w1 23 18) (bits w1 17 12) (bits w1 11 0))
  | 4 => some (.sbinit a b g)
  | 5 => some (.sbexp a b g)
  | 6 => some (.sbarv a b g)
  | 7 => some (.sbwait a b g)
  | 8 => some (.sbtest d a b g)
  | 9 => some (.dset a i)
  | 10 => some (.wdset a g)
  | 11 => some (.wdq a b g)
  | _ => none

/-- Native opcodes from 0x390 (R51): hopen, hpush, hclose, hnext, hdone, hsync. -/
def build390 (k d a b g _i _w0 _w1 _w2 _w3 : Nat) : Option Instr :=
  match k with
  | 0 => some (.hopen a b g)
  | 1 => some (.hpush d a b g)
  | 2 => some (.hclose a g)
  | 3 => some (.hnext d a g)
  | 4 => some (.hdone a b g)
  | 5 => some (.hsync a g)
  | _ => none

/-- The instruction that native opcode op builds from the words of its form, its fields as they stand (R33 to R39);
none for a reserved native opcode (R51). -/
def buildInstr (op w0 w1 w2 w3 : Nat) : Option Instr :=
  let d := bits w0 21 16
  let a := bits w0 15 10
  let b := bits w0 9 4
  let g := bits w0 3 0
  let i := bits w0 9 0
  if 0x000 ≤ op ∧ op < 0x023 then build000 (op - 0x000) d a b g i w0 w1 w2 w3
  else if 0x040 ≤ op ∧ op < 0x04A then build040 (op - 0x040) d a b g i w0 w1 w2 w3
  else if 0x060 ≤ op ∧ op < 0x061 then build060 (op - 0x060) d a b g i w0 w1 w2 w3
  else if 0x070 ≤ op ∧ op < 0x076 then build070 (op - 0x070) d a b g i w0 w1 w2 w3
  else if 0x078 ≤ op ∧ op < 0x07E then build078 (op - 0x078) d a b g i w0 w1 w2 w3
  else if 0x080 ≤ op ∧ op < 0x090 then build080 (op - 0x080) d a b g i w0 w1 w2 w3
  else if 0x0A0 ≤ op ∧ op < 0x0AD then build0A0 (op - 0x0A0) d a b g i w0 w1 w2 w3
  else if 0x0C0 ≤ op ∧ op < 0x0C7 then build0C0 (op - 0x0C0) d a b g i w0 w1 w2 w3
  else if 0x100 ≤ op ∧ op < 0x11E then build100 (op - 0x100) d a b g i w0 w1 w2 w3
  else if 0x140 ≤ op ∧ op < 0x14F then build140 (op - 0x140) d a b g i w0 w1 w2 w3
  else if 0x200 ≤ op ∧ op < 0x214 then build200 (op - 0x200) d a b g i w0 w1 w2 w3
  else if 0x280 ≤ op ∧ op < 0x28A then build280 (op - 0x280) d a b g i w0 w1 w2 w3
  else if 0x300 ≤ op ∧ op < 0x311 then build300 (op - 0x300) d a b g i w0 w1 w2 w3
  else if 0x320 ≤ op ∧ op < 0x328 then build320 (op - 0x320) d a b g i w0 w1 w2 w3
  else if 0x340 ≤ op ∧ op < 0x34E then build340 (op - 0x340) d a b g i w0 w1 w2 w3
  else if 0x350 ≤ op ∧ op < 0x351 then build350 (op - 0x350) d a b g i w0 w1 w2 w3
  else if 0x380 ≤ op ∧ op < 0x38C then build380 (op - 0x380) d a b g i w0 w1 w2 w3
  else if 0x390 ≤ op ∧ op < 0x396 then build390 (op - 0x390) d a b g i w0 w1 w2 w3
  else none

/-- The form of a native opcode (R51); reserved opcodes are taken as one-word R (R32). -/
def formOf (op : Nat) : Form :=
  if op = 0x060 ∨ op = 0x0AC then .W
  else if op = 0x201 then .P
  else if 0x203 ≤ op ∧ op ≤ 0x206 then .T
  else if op = 0x211 then .PH
  else if op = 0x280 ∨ op = 0x281 then .M
  else if 0x380 ≤ op ∧ op ≤ 0x383 then .C
  else if (0x040 ≤ op ∧ op ≤ 0x049) ∨ (0x078 ≤ op ∧ op ≤ 0x07D) ∨ (0x08E ≤ op ∧ op ≤ 0x08F) ∨ (0x0AB ≤ op ∧ op ≤ 0x0AB) ∨ (0x0C4 ≤ op ∧ op ≤ 0x0C4) ∨ (0x14E ≤ op ∧ op ≤ 0x14E) ∨ (0x209 ≤ op ∧ op ≤ 0x20B) ∨ (0x20E ≤ op ∧ op ≤ 0x20F) ∨ (0x283 ≤ op ∧ op ≤ 0x284) ∨ (0x286 ≤ op ∧ op ≤ 0x286) ∨ (0x300 ≤ op ∧ op ≤ 0x30E) ∨ (0x389 ≤ op ∧ op ≤ 0x389) then .I
  else .R

/-- The class of a native opcode, from its bits [9:7] (R32): 000, 001, 010 V; 100 C; 101 M; 110 L; 111 A. -/
def clsOf (op : Nat) : Option Cls :=
  match op / 128 with
  | 0 => some .V
  | 1 => some .V
  | 2 => some .V
  | 4 => some .C
  | 5 => some .M
  | 6 => some .L
  | 7 => some .A
  | _ => none

/-- A native opcode of R51. -/
def isNativeOp (op : Nat) : Bool := (buildInstr op 0 0 0 0).isSome

/-- The native table: every native opcode maps to itself (R50). -/
def nativeTable (op : Nat) : Option Nat := if isNativeOp op then some op else none

/-- Word of format R (R33). -/
def encR (op d a b g : Nat) : Word := BitVec.ofNat 32 (op * 2 ^ 22 + d * 2 ^ 16 + a * 2 ^ 10 + b * 2 ^ 4 + g)
/-- Word of format I (R33). -/
def encI (op d a i : Nat) : Word := BitVec.ofNat 32 (op * 2 ^ 22 + d * 2 ^ 16 + a * 2 ^ 10 + i)
/-- Word of format T (R36). -/
def encT (op t g f : Nat) : Word := BitVec.ofNat 32 (op * 2 ^ 22 + t * 2 ^ 19 + g * 2 ^ 15 + f * 2 ^ 9)
/-- The two words of format M (R37). -/
def encM (op tile da db mode id pre0 pre1 org kd : Nat) : List Word :=
  [BitVec.ofNat 32 (op * 2 ^ 22 + tile * 2 ^ 18 + da * 2 ^ 10 + db * 2 ^ 2 + mode),
   BitVec.ofNat 32 (id * 2 ^ 26 + pre0 * 2 ^ 20 + pre1 * 2 ^ 14 + org * 2 ^ 8 + kd)]
/-- The two words of format C (R38). -/
def encC (op crb da mode g db sba aux flags : Nat) : List Word :=
  [BitVec.ofNat 32 (op * 2 ^ 22 + crb * 2 ^ 16 + da * 2 ^ 8 + mode * 2 ^ 4 + g),
   BitVec.ofNat 32 (db * 2 ^ 24 + sba * 2 ^ 18 + aux * 2 ^ 12 + flags)]

/-- The words of an instruction, from the native opcode map (R51) and the formats; a device step has none. -/
def encode (i : Instr) : List Word :=
  match i with
  | .add d a b g => [encR 0x000 d a b g]
  | .sub d a b g => [encR 0x001 d a b g]
  | .mul d a b g => [encR 0x002 d a b g]
  | .mulh d a b g => [encR 0x003 d a b g]
  | .mulhu d a b g => [encR 0x004 d a b g]
  | .mad d a b g => [encR 0x005 d a b g]
  | .and d a b g => [encR 0x006 d a b g]
  | .or d a b g => [encR 0x007 d a b g]
  | .xor d a b g => [encR 0x008 d a b g]
  | .shl d a b g => [encR 0x009 d a b g]
  | .shr d a b g => [encR 0x00A d a b g]
  | .sar d a b g => [encR 0x00B d a b g]
  | .min d a b g => [encR 0x00C d a b g]
  | .max d a b g => [encR 0x00D d a b g]
  | .minu d a b g => [encR 0x00E d a b g]
  | .maxu d a b g => [encR 0x00F d a b g]
  | .adds d a b g => [encR 0x010 d a b g]
  | .subs d a b g => [encR 0x011 d a b g]
  | .abs d a g => [encR 0x012 d a 0 g]
  | .neg d a g => [encR 0x013 d a 0 g]
  | .clz d a g => [encR 0x014 d a 0 g]
  | .popc d a g => [encR 0x015 d a 0 g]
  | .brev d a g => [encR 0x016 d a 0 g]
  | .bfe d a b g => [encR 0x017 d a b g]
  | .bfi d a b g => [encR 0x018 d a b g]
  | .sel d a b p => [encR 0x019 d a b p]
  | .div d a b g => [encR 0x01A d a b g]
  | .divu d a b g => [encR 0x01B d a b g]
  | .rem d a b g => [encR 0x01C d a b g]
  | .remu d a b g => [encR 0x01D d a b g]
  | .addw d a b g => [encR 0x01E d a b g]
  | .subw d a b g => [encR 0x01F d a b g]
  | .shlw d a b g => [encR 0x020 d a b g]
  | .mov d a g => [encR 0x021 d a 0 g]
  | .dp4a d a b g => [encR 0x022 d a b g]
  | .addi d a i => [encI 0x040 d a i]
  | .andi d a i => [encI 0x041 d a i]
  | .ori d a i => [encI 0x042 d a i]
  | .xori d a i => [encI 0x043 d a i]
  | .shli d a i => [encI 0x044 d a i]
  | .shri d a i => [encI 0x045 d a i]
  | .sari d a i => [encI 0x046 d a i]
  | .muli d a i => [encI 0x047 d a i]
  | .addwi d a i => [encI 0x048 d a i]
  | .movi d i => [encI 0x049 d 0 i]
  | .li d g lit => [encR 0x060 d 0 0 g, lit]
  | .icmpEq d a b g => [encR 0x070 d a b g]
  | .icmpNe d a b g => [encR 0x071 d a b g]
  | .icmpLt d a b g => [encR 0x072 d a b g]
  | .icmpLe d a b g => [encR 0x073 d a b g]
  | .icmpLtu d a b g => [encR 0x074 d a b g]
  | .icmpLeu d a b g => [encR 0x075 d a b g]
  | .icmpiEq d a i => [encI 0x078 d a i]
  | .icmpiNe d a i => [encI 0x079 d a i]
  | .icmpiLt d a i => [encI 0x07A d a i]
  | .icmpiLe d a i => [encI 0x07B d a i]
  | .icmpiLtu d a i => [encI 0x07C d a i]
  | .icmpiLeu d a i => [encI 0x07D d a i]
  | .shfl d a b g => [encR 0x080 d a b g]
  | .shflx d a b g => [encR 0x081 d a b g]
  | .bcast d a b g => [encR 0x082 d a b g]
  | .voteany d a g => [encR 0x083 d a 0 g]
  | .voteall d a g => [encR 0x084 d a 0 g]
  | .ballot d a g => [encR 0x085 d a 0 g]
  | .redadd d a g => [encR 0x086 d a 0 g]
  | .redmin d a g => [encR 0x087 d a 0 g]
  | .redmax d a g => [encR 0x088 d a 0 g]
  | .scanadd d a g => [encR 0x089 d a 0 g]
  | .elect d g => [encR 0x08A d 0 0 g]
  | .electw d g => [encR 0x08B d 0 0 g]
  | .lid d g => [encR 0x08C d 0 0 g]
  | .movs d a g => [encR 0x08D d a 0 g]
  | .rdsr d i => [encI 0x08E d 0 i]
  | .wrsr a i => [encI 0x08F 0 a i]
  | .uadd d a b g => [encR 0x0A0 d a b g]
  | .usub d a b g => [encR 0x0A1 d a b g]
  | .umul d a b g => [encR 0x0A2 d a b g]
  | .uand d a b g => [encR 0x0A3 d a b g]
  | .uor d a b g => [encR 0x0A4 d a b g]
  | .uxor d a b g => [encR 0x0A5 d a b g]
  | .ushl d a b g => [encR 0x0A6 d a b g]
  | .ushr d a b g => [encR 0x0A7 d a b g]
  | .uaddw d a b g => [encR 0x0A8 d a b g]
  | .umov d a g => [encR 0x0A9 d a 0 g]
  | .uget d a b g => [encR 0x0AA d a b g]
  | .uaddi d a i => [encI 0x0AB d a i]
  | .uli d g lit => [encR 0x0AC d 0 0 g, lit]
  | .pand d a b g => [encR 0x0C0 d a b g]
  | .por d a b g => [encR 0x0C1 d a b g]
  | .pxor d a b g => [encR 0x0C2 d a b g]
  | .pandn d a b g => [encR 0x0C3 d a b g]
  | .pset d i => [encI 0x0C4 d 0 i]
  | .pget d g => [encR 0x0C5 d 0 0 g]
  | .pput a g => [encR 0x0C6 0 a 0 g]
  | .fadd d a b g => [encR 0x100 d a b g]
  | .fsub d a b g => [encR 0x101 d a b g]
  | .fmul d a b g => [encR 0x102 d a b g]
  | .ffma d a b g => [encR 0x103 d a b g]
  | .ffms d a b g => [encR 0x104 d a b g]
  | .fmin d a b g => [encR 0x105 d a b g]
  | .fmax d a b g => [encR 0x106 d a b g]
  | .fabs d a g => [encR 0x107 d a 0 g]
  | .fneg d a g => [encR 0x108 d a 0 g]
  | .fdiv d a b g => [encR 0x109 d a b g]
  | .fsqrt d a g => [encR 0x10A d a 0 g]
  | .frcp d a g => [encR 0x10B d a 0 g]
  | .frsq d a g => [encR 0x10C d a 0 g]
  | .fex2 d a g => [encR 0x10D d a 0 g]
  | .flg2 d a g => [encR 0x10E d a 0 g]
  | .frnd d a g => [encR 0x10F d a 0 g]
  | .fcls d a g => [encR 0x110 d a 0 g]
  | .fscl d a b g => [encR 0x111 d a b g]
  | .fcmpEq d a b g => [encR 0x112 d a b g]
  | .fcmpLt d a b g => [encR 0x113 d a b g]
  | .fcmpLe d a b g => [encR 0x114 d a b g]
  | .fcmpUn d a b g => [encR 0x115 d a b g]
  | .hadd2 d a b g => [encR 0x116 d a b g]
  | .hmul2 d a b g => [encR 0x117 d a b g]
  | .hfma2 d a b g => [encR 0x118 d a b g]
  | .badd2 d a b g => [encR 0x119 d a b g]
  | .bmul2 d a b g => [encR 0x11A d a b g]
  | .bfma2 d a b g => [encR 0x11B d a b g]
  | .dp2h d a b g => [encR 0x11C d a b g]
  | .dp2b d a b g => [encR 0x11D d a b g]
  | .cvtfi d a g => [encR 0x140 d a 0 g]
  | .cvtfu d a g => [encR 0x141 d a 0 g]
  | .cvtif d a g => [encR 0x142 d a 0 g]
  | .cvtuf d a g => [encR 0x143 d a 0 g]
  | .cvth d a b g => [encR 0x144 d a b g]
  | .cvthl d a g => [encR 0x145 d a 0 g]
  | .cvthh d a g => [encR 0x146 d a 0 g]
  | .cvtb d a b g => [encR 0x147 d a b g]
  | .cvtbl d a g => [encR 0x148 d a 0 g]
  | .cvtbh d a g => [encR 0x149 d a 0 g]
  | .cvte4 d a b g => [encR 0x14A d a b g]
  | .cvte4f d a g => [encR 0x14B d a 0 g]
  | .cvte5 d a b g => [encR 0x14C d a b g]
  | .cvte5f d a g => [encR 0x14D d a 0 g]
  | .setrm i => [encI 0x14E 0 0 i]
  | .nop g => [encR 0x200 0 0 0 g]
  | .prep t x => [BitVec.ofNat 32 (0x201 * 2 ^ 22 + t * 2 ^ 19 + x)]
  | .prepr d a g => [encR 0x202 d a 0 g]
  | .jmp t g => [encT 0x203 t g 0]
  | .call t g f => [encT 0x204 t g f]
  | .ret g f => [encT 0x205 7 g f]
  | .fork t g a => [encT 0x206 t g a]
  | .halt g => [encR 0x207 0 0 0 g]
  | .wsync g => [encR 0x208 0 0 0 g]
  | .bar i => [encI 0x209 0 0 i]
  | .arv i => [encI 0x20A 0 0 i]
  | .bwait i => [encI 0x20B 0 0 i]
  | .cede g => [encR 0x20C 0 0 0 g]
  | .waitne a b g => [encR 0x20D 0 a b g]
  | .clk i => [encI 0x20E 0 0 i]
  | .trap i => [encI 0x20F 0 0 i]
  | .brk g => [encR 0x210 0 0 0 g]
  | .ph flags live0 live1 spst splen => [BitVec.ofNat 32 (0x211 * 2 ^ 22 + flags), live0, live1, BitVec.ofNat 32 (spst * 2 ^ 16 + splen)]
  | .icinv a b g => [encR 0x212 0 a b g]
  | .dbgm d a g => [encR 0x213 d a 0 g]
  | .mmf tile da db mode id pre0 pre1 org kd => encM 0x280 tile da db mode id pre0 pre1 org kd
  | .mmt tile da db mode id pre0 pre1 org kd => encM 0x281 tile da db mode id pre0 pre1 org kd
  | .mzero d g => [encR 0x282 d 0 0 g]
  | .mld d a i => [encI 0x283 d a i]
  | .mst d a i => [encI 0x284 d a i]
  | .mcommit g => [encR 0x285 0 0 0 g]
  | .mwait i => [encI 0x286 0 0 i]
  | .mrd d a b g => [encR 0x287 d a b g]
  | .mwr d a b g => [encR 0x288 d a b g]
  | .mscale d a g => [encR 0x289 d a 0 g]
  | .ldb d a i => [encI 0x300 d a i]
  | .ldsb d a i => [encI 0x301 d a i]
  | .ldh d a i => [encI 0x302 d a i]
  | .ldsh d a i => [encI 0x303 d a i]
  | .ldw d a i => [encI 0x304 d a i]
  | .ldd d a i => [encI 0x305 d a i]
  | .ldq d a i => [encI 0x306 d a i]
  | .stb d a i => [encI 0x307 d a i]
  | .sth d a i => [encI 0x308 d a i]
  | .stw d a i => [encI 0x309 d a i]
  | .std d a i => [encI 0x30A d a i]
  | .stq d a i => [encI 0x30B d a i]
  | .uldw d a i => [encI 0x30C d a i]
  | .uldd d a i => [encI 0x30D d a i]
  | .pf a i => [encI 0x30E 0 a i]
  | .pin a b g => [encR 0x30F 0 a b g]
  | .unpin a b g => [encR 0x310 0 a b g]
  | .ldbx d a b g => [encR 0x320 d a b g]
  | .ldhx d a b g => [encR 0x321 d a b g]
  | .ldwx d a b g => [encR 0x322 d a b g]
  | .lddx d a b g => [encR 0x323 d a b g]
  | .stbx d a b g => [encR 0x324 d a b g]
  | .sthx d a b g => [encR 0x325 d a b g]
  | .stwx d a b g => [encR 0x326 d a b g]
  | .stdx d a b g => [encR 0x327 d a b g]
  | .amoadd d a b g => [encR 0x340 d a b g]
  | .amomin d a b g => [encR 0x341 d a b g]
  | .amomax d a b g => [encR 0x342 d a b g]
  | .amominu d a b g => [encR 0x343 d a b g]
  | .amomaxu d a b g => [encR 0x344 d a b g]
  | .amoand d a b g => [encR 0x345 d a b g]
  | .amoor d a b g => [encR 0x346 d a b g]
  | .amoxor d a b g => [encR 0x347 d a b g]
  | .amoxchg d a b g => [encR 0x348 d a b g]
  | .amocas d a b g => [encR 0x349 d a b g]
  | .amofadd d a b g => [encR 0x34A d a b g]
  | .amofmin d a b g => [encR 0x34B d a b g]
  | .amofmax d a b g => [encR 0x34C d a b g]
  | .amoaddw d a b g => [encR 0x34D d a b g]
  | .turn g => [encR 0x350 0 0 0 g]
  | .cpy crb da mode g db sba aux flags => encC 0x380 crb da mode g db sba aux flags
  | .cpyr crb da mode g db sba aux flags => encC 0x381 crb da mode g db sba aux flags
  | .gath crb da mode g db sba aux flags => encC 0x382 crb da mode g db sba aux flags
  | .scat crb da mode g db sba aux flags => encC 0x383 crb da mode g db sba aux flags
  | .sbinit a b g => [encR 0x384 0 a b g]
  | .sbexp a b g => [encR 0x385 0 a b g]
  | .sbarv a b g => [encR 0x386 0 a b g]
  | .sbwait a b g => [encR 0x387 0 a b g]
  | .sbtest d a b g => [encR 0x388 d a b g]
  | .dset a i => [encI 0x389 0 a i]
  | .wdset a g => [encR 0x38A 0 a 0 g]
  | .wdq a b g => [encR 0x38B 0 a b g]
  | .hopen a b g => [encR 0x390 0 a b g]
  | .hpush d a b g => [encR 0x391 d a b g]
  | .hclose a g => [encR 0x392 0 a 0 g]
  | .hnext d a g => [encR 0x393 d a 0 g]
  | .hdone a b g => [encR 0x394 0 a b g]
  | .hsync a g => [encR 0x395 0 a 0 g]
  | .clauseEntry _ => []
  | .convergencePointExecute _ => []
  | .convergenceFault _ => []
  | .waitDeadlock _ => []
  | .harpStall _ => []
  | .longLatencyResult _ _ => []
  | .turnCompletion _ => []
  | .publicationApply _ _ => []
  | .atomicPerform _ => []
  | .barrierExit _ => []
  | .forkLaneDecision _ => []
  | .engineCommandExecute _ _ => []
  | .stageBarrierActApply _ _ => []
  | .phaseSettle _ _ => []
  | .matrixCommandEffect _ _ => []
  | .wdqAnswer _ _ => []
  | .harpActApply _ => []
  | .icinvApply _ _ => []
  | .packetFetch _ => []
  | .acceptance _ => []
  | .pressBuild _ => []
  | .workgroupPlacement _ => []
  | .workgroupExit _ => []
  | .completionRecordWrite _ => []
  | .rotationSave _ => []
  | .rotationRestore _ => []
  | .warpPromotion _ _ => []
  | .permitAudit _ _ _ _ => []
  | .hostFaultQueueEntry _ => []
  | .stopQueuePost _ => []
  | .resumeFault _ _ => []
  | .abortFault _ _ => []
  | .continueStop _ _ => []
  | .endStop _ _ => []
  | .drainComplete _ => []
  | .hostAbort _ => []
  | .preEmpt => []
  | .preemptionBudgetExpiry _ => []
  | .workgroupSave _ => []
  | .restoreLaunch => []
  | .createPartition => []
  | .destroyPartition => []
  | .grantGranule => []
  | .createContext => []
  | .destroyContext => []
  | .loadDecodeTable => []
  | .loadDescriptors => []
  | .allocateExtents => []
  | .freeExtents => []
  | .pageTableAdd => []
  | .pageTableMove => []
  | .pageTableRestrict => []
  | .restrictTakesEffect _ _ => []
  | .assignQueue => []
  | .stepMark => []
  | .stepPolicy => []
  | .snapshotSlots => []
  | .exportSnapshot => []
  | .restoreSnapshot => []
  | .setPowerStateRunLevel => []
  | .setPowerStateIdle => []
  | .setPowerStateRetention => []
  | .setPowerStateOff => []
  | .attest => []
  | .readCertificate => []
  | .bindPort => []
  | .setPowerLimit => []
  | .setResidencyQuota => []
  | .notifyWrite _ _ _ => []
  | .queueConfigure _ _ _ => []
  | .ringEnable _ _ _ => []
  | .ringTailWrite _ _ _ => []
  | .evtailWrite _ _ => []
  | .registerWrite _ _ _ => []
  | .hostWindowWrite _ _ _ => []
  | .hostWriteTakesEffect _ => []
  | .hostWindowRead _ _ _ => []
  | .forwardFrame _ _ => []
  | .residencyReport _ => []
  | .dbgAttach _ => []
  | .dbgDetach _ => []
  | .dbgHalt _ => []
  | .dbgResume _ => []
  | .dbgStep _ => []
  | .dbgStepComplete _ => []
  | .dbgSetBreakpoint _ => []
  | .dbgClearBreakpoint _ => []
  | .dbgSetWatchpoint _ => []
  | .dbgClearWatchpoint _ => []
  | .dbgReadFibre _ => []
  | .dbgWriteFibre _ => []
  | .workgroupHaltComplete _ => []
  | .stallSample _ _ => []
  | .errorWindowStart _ => []
  | .correctedError _ => []
  | .uncorrectableError _ => []
  | .fence _ => []
  | .healthRecordPost => []
  | .criticalThermalLimit _ => []
  | .thermalWarning _ => []
  | .watchdogFailure _ => []
  | .rootOfTrustFault => []
  | .rollback _ => []
  | .replayComplete _ => []
  | .stepTimerExpiry _ => []
  | .snapshotStart _ => []
  | .snapshotPageCopy _ _ => []
  | .snapshotComplete _ => []
  | .dualRunDigestCompare _ => []
  | .powerMeterWindow _ _ => []
  | .boot => []
  | .peerWindowAccess _ => []
  | .directExclusiveAccess _ => []
  | .spdmRequest => []

/-- Word n of a list, 0 beyond its end. -/
def wordAt (ws : List Word) (n : Nat) : Nat := (ws.getD n 0).toNat

/-- Decodes the instruction at the head of ws through the decode table tab, giving it with the words that follow.
The opcode is replaced by its native opcode before the legality check (R49, R50). -/
def decodeWith (tab : Nat → Option Nat) (ws : List Word) : Decoded :=
  match ws with
  | [] => .bad .truncated
  | w :: rest =>
    match tab (w.toNat / 2 ^ 22) with
    | none => .bad .undecoded
    | some nat =>
      let len := (formOf nat).len
      if ws.length < len then .bad .truncated
      else
        let w0 := nat * 2 ^ 22 + w.toNat % 2 ^ 22
        match buildInstr nat w0 (wordAt ws 1) (wordAt ws 2) (wordAt ws 3) with
        | none => .bad .undecoded
        | some i =>
          if i.wellFormed && encode i == BitVec.ofNat 32 w0 :: rest.take (len - 1) then .ok i (ws.drop len)
          else .bad .reserved

/-- Decoding under the native table of R50. -/
def decode (ws : List Word) : Decoded := decodeWith nativeTable ws

/-- The length in words of the instruction whose first word is w, whether its encoding is legal or not: the form's
length, or one word for an undecoded opcode (R32, R48). -/
def lenWith (tab : Nat → Option Nat) (w : Word) : Nat :=
  match tab (w.toNat / 2 ^ 22) with
  | none => 1
  | some nat => (formOf nat).len

/-- The guard of a word (R41): its own G field in forms R, T, C and word 0 of W, except `sel`; otherwise the clause
guard cg. -/
def guardWith (tab : Nat → Option Nat) (w : Word) (cg : Nat) : Nat :=
  match tab (w.toNat / 2 ^ 22) with
  | none => cg
  | some nat =>
    if nat = 0x019 then cg
    else
      match formOf nat with
      | .R => bits w.toNat 3 0
      | .W => bits w.toNat 3 0
      | .C => bits w.toNat 3 0
      | .T => bits w.toNat 18 15
      | .I => cg
      | .P => cg
      | .M => cg
      | .PH => cg

/-- The weight of an instruction word whose encoding may be illegal (R44, R48): its length in words, and 1 + n for
`clk` n. -/
def weightWith (tab : Nat → Option Nat) (w : Word) : Nat :=
  match tab (w.toNat / 2 ^ 22) with
  | none => 1
  | some nat => if nat = 0x20E then 1 + bits w.toNat 9 0 else (formOf nat).len

/-- The four bytes of a word, least significant first (R5). -/
def wordBytes (w : Word) : List Byte :=
  [w.extractLsb' 0 8, w.extractLsb' 8 8, w.extractLsb' 16 8, w.extractLsb' 24 8]

/-- Words from little-endian bytes; a last part of fewer than four bytes gives no word (R5). -/
def wordsOfBytes : List Byte → List Word
  | b0 :: b1 :: b2 :: b3 :: rest => (b3 ++ b2 ++ b1 ++ b0 : BitVec 32) :: wordsOfBytes rest
  | _ => []

/-- The bytes of an instruction as they stand in memory: word 0 at the lowest address, each word little-endian (R5). -/
def tableBytes (nbits w : Nat) : List Byte :=
  (List.range 4).flatMap fun k => wordBytes (BitVec.ofNat 32 (w % 2 ^ nbits / 2 ^ (32 * k)))

/-- The instruction that the decoder reads from a word of the opcode table, operand words above nbits zero. DEDUCED, safe, log 6. -/
def decodeTableWord (nbits w : Nat) : Option Instr :=
  match decode (wordsOfBytes (tableBytes nbits w)) with
  | .ok i _ => some i
  | .bad _ => none

end Sys2Proof
end

