-- ==== Sys2Proof/Machine/Bits.lean ====
section
/-! DEFINITION. Bit fields, sign extension, byte order and rounding to multiples (R3 to R7): the plain arithmetic that
the operations and the meanings share. -/

namespace Sys2Proof.Machine

/-- sext(x, n): the low n bits of x as a two's-complement number (R6). -/
def sx (n x : Nat) : Int := if x % 2 ^ n < 2 ^ (n - 1) then ((x % 2 ^ n : Nat) : Int) else ((x % 2 ^ n : Nat) : Int) - 2 ^ n

/-- The 10-bit immediate sign-extended to 32 bits (R43). -/
def imm32 (i : Nat) : Word := BitVec.ofInt 32 (sx 10 i)

/-- The 10-bit immediate sign-extended to 64 bits (R43). -/
def imm64 (i : Nat) : BitVec 64 := BitVec.ofInt 64 (sx 10 i)

/-- A 64-bit value from its low and high words (R18). -/
def pair64 (lo hi : Word) : BitVec 64 := hi ++ lo

/-- The low word of a 64-bit value. -/
def lo32 (x : BitVec 64) : Word := x.extractLsb' 0 32

/-- The high word of a 64-bit value. -/
def hi32 (x : BitVec 64) : Word := x.extractLsb' 32 32

/-- The number that little-endian bytes stand for (R5). -/
def ofBytes : List Byte → Nat
  | [] => 0
  | b :: r => b.toNat + 256 * ofBytes r

/-- The n little-endian bytes of a number (R5). -/
def toBytes : Nat → Nat → List Byte
  | 0, _ => []
  | n + 1, v => BitVec.ofNat 8 v :: toBytes n (v / 256)

/-- The largest multiple of q not above c. -/
def floorTo (q c : Nat) : Nat := c / q * q

/-- The next boundary above c for quantum q (R132). -/
def nextB (q c : Nat) : Nat := (c / q + 1) * q

/-- Replaces element n of a list. -/
def setAt {α : Type} : List α → Nat → α → List α
  | [], _, _ => []
  | _ :: r, 0, x => x :: r
  | a :: r, n + 1, x => a :: setAt r n x

/-- The number 2^56: clocks lie below it (R19). -/
def clockTop : Nat := 2 ^ 56

end Sys2Proof.Machine
end

