-- ==== Sys2Proof/Machine/State.lean ====
section
/-! DEFINITION. The state of the whole device (R17, R231, R236, R265, R270, R309, R315, R330, R346 to R351) as plain data:
physical memory, partitions and contexts, queues, the running launches with their workgroups, warps and fibres, and the
host's and the debugger's registers. Fibres, warps, workgroups and launches stand in flat lists under their names. -/

namespace Sys2Proof.Machine

/-- Physical memory: (address, byte) pairs, addresses rising, no entry equal to the byte an unlisted address reads as.
HBM is 0 to 0xBF_FFFF_FFFF (R270); byte o of the vault under physical quad q is 2^52 + q * 2^28 + o (R282). -/
abbrev Memory := List Host.Cell

/-- The key of an act: clock, warp id, lane (R10, R131). -/
structure Key where
  clk : Nat
  warp : Nat
  lane : Nat
  deriving DecidableEq, Repr

/-- A storage location whose order of effect matters: a physical byte, a byte of a workgroup's scratchpad, or a byte of a
workgroup's descriptor table (R191). -/
inductive Loc where
  | phys (a : Nat)
  | spad (wg : Nat) (off : Nat)
  | desc (wg : Nat) (off : Nat)
  deriving DecidableEq, Repr

/-- Rounding modes (R65). -/
inductive RMode where
  | rne | rtz | rdn | rup | sr
  deriving DecidableEq, Repr

/-- State of a branch-target register (R17, R212). -/
inductive BSt where
  | unprepared | prepared | stale
  deriving DecidableEq, Repr

/-- A branch-target register: 57-bit target and state (R17). -/
structure BReg where
  st : BSt
  target : BitVec 57
  deriving DecidableEq, Repr

/-- One byte of a pending store (R137): the address it counts for in the footprint (R135; for a pending `dset`, bit 63 set,
R191), the location, the value. -/
structure PByte where
  addr : Nat
  loc : Loc
  val : Byte
  deriving DecidableEq, Repr

/-- One byte, or part of a byte, of a publication: mask selects the bits it carries (R178). -/
structure PubByte where
  loc : Loc
  val : Byte
  mask : Byte
  deriving DecidableEq, Repr

/-- A publication not yet applied (R136, R139, R140, R152, R300). rank orders publications of one key: 0 a turn's stores,
1 an atomic's write, 2 an engine write (R140). release marks a release write of `ph`; src is the clause and word of a fibre's turn (R340). -/
structure Pub where
  key : Key
  rank : Nat
  release : Bool
  bytes : List PubByte
  src : Option (BitVec 57 × Nat) := none
  deriving DecidableEq, Repr

/-- A tensor descriptor, its fields decoded (R75). resv holds the reserved bits. -/
structure Desc where
  base : BitVec 64
  fmt : Nat
  rank : Nat
  swz : Nat
  ch : Nat
  sfmt : Nat
  resv : Nat
  pad : Word
  dims : List Nat
  boxes : List Nat
  soff : Int
  strides : List Int
  deriving DecidableEq, Repr

/-- What an engine or matrix command, or an outstanding load, needs to read memory as its fibre saw it at its key (R115,
R153): the key, the view, and the fibre's own pending and latest published bytes, latest first. -/
structure Rd where
  key : Key
  view : Nat
  own : List (Loc × Byte)
  deriving DecidableEq, Repr

/-- Atomic operations (R168, R169). -/
inductive AOp where
  | add | min | max | minu | maxu | and | or | xor | xchg | cas | fadd | fmin | fmax | addw
  deriving DecidableEq, Repr

/-- An atomic whose turn has been taken: operation, its bytes' locations, operands, destination (R139, R168). -/
structure AtomReq where
  op : AOp
  addr : Nat
  locs : List Loc
  direct : Bool
  b0 : Word
  b1 : Word
  dst : List Nat
  deriving DecidableEq, Repr

/-- Why a long-latency result is outstanding (R46, R304). -/
inductive OutKind where
  | arith | atomic | load | tile | harp
  deriving DecidableEq, Repr

/-- An outstanding long-latency result (R46, R304): physical destination registers (none where a later write superseded
it, R42), the token it is attached to (1 to 4, 0 none), the value once known, and for a load its bytes with those the
fibre itself supplied. -/
structure Outst where
  kind : OutKind
  dst : List (Option Nat)
  token : Nat
  key : Key
  addr : Nat
  size : Nat
  sext : Bool
  vals : Option (List Word)
  rd : Rd
  locs : List Loc
  /-- the uniform registers that a uniform load writes (R160, R164) -/
  sdst : List Nat := []
  /-- the clause and word of the instruction (R261, R340) -/
  oaddr : BitVec 57 := 0
  widx : Nat := 0
  deriving DecidableEq, Repr

/-- A fault record (R291); its TAG is given when it is posted. -/
structure FaultRec where
  code : Nat
  cause : Nat
  warp : Nat
  lane : Nat
  clk : Nat
  oaddr : BitVec 57
  widx : Nat
  word : Word
  info : BitVec 64
  ctx : Nat
  deriving DecidableEq, Repr

/-- What a fibre does once its turn completes (R133, R136). -/
inductive AfterTurn where
  /-- a boundary turn: it goes on where it stands (R134) -/
  | resume
  /-- it leaves the word, at this clock or the turn's if larger (R133) -/
  | leave (c : Nat)
  /-- the atomic then performs (R139) -/
  | atom (a : AtomReq)
  /-- `sbwait` goes on to its second step (R188) -/
  | sbwait (addr b c : Nat) (phase : Option Nat)
  /-- a stalled push waits for a retirement, or re-tries at clock t once that is fixed (R204) -/
  | hstall (h : Nat) (slots : List Nat) (payload c t : Nat) (fixed : Bool)
  /-- `hsync` waits for its group, or turns at a clock already known (R207) -/
  | hsync (h x c : Nat) (t : Option Nat)
  deriving DecidableEq, Repr

/-- What became of a record: not yet posted; posted with a tag in the stop queue (R292); joined to an entry of the host fault
queue, or answered so that the fibre stays parked (R277, R294); or reported to the debugger (R333). -/
inductive Posted where
  | no
  | tag (n : Nat)
  | held
  | event
  deriving DecidableEq, Repr

/-- Where a fibre stands (R146, R247, R289). -/
inductive FStat where
  /-- at a clause header it has not entered (R30) -/
  | enter
  /-- at word widx of its fetched clause -/
  | run
  /-- waits for its turn at clock t to complete (R147) -/
  | turn (t : Nat) (k : AfterTurn)
  /-- waits at a convergence point (R15) -/
  | conv (i : Instr)
  /-- waits at the barrier of its set g for phase k, having begun at clock c; excluded from the horizons (R148) -/
  | bar (g k c : Nat)
  /-- waits for its atomic to perform (R139, R147) -/
  | atom (a : AtomReq)
  /-- a fork through register b n, with target t and register a, waits until it can turn and its lane can be decided (R219) -/
  | fork (n : Nat) (t : BitVec 57) (a : Nat)
  /-- waits for its tile access (R113, R128) -/
  | tile
  /-- waits at a word on a stage barrier until no `sbinit` of a lower key can still come (R183, R187) -/
  | keyed
  /-- an access through a peer window waits (R147) -/
  | peer (k : Nat)
  /-- a direct Exclusive access waits (R147) -/
  | excl
  /-- `sbwait`, after its first turn: phase operand b, clock c; settling once the phase is known (R188) -/
  | sbwait (addr b c : Nat) (phase : Option Nat)
  /-- a Harp instruction waits until its act can be applied (R202) -/
  | harp (i : Instr)
  /-- a stalled push: handle, slots, payload, its clock c, the clock t below which it is not retried, and whether a
  retirement has fixed t as its retry clock (R204) -/
  | hstall (h : Nat) (slots : List Nat) (payload c t : Nat) (fixed : Bool)
  /-- `hsync` waits for group x (R207) -/
  | hsync (h x c : Nat)
  /-- parked with its record (R289, R292) -/
  | parked (r : FaultRec) (p : Posted)
  deriving DecidableEq, Repr

/-- A debugger Step (R336): none, the instruction still to run, the instruction done and the move to the next one under way. -/
inductive Stepping where
  | off | armed | moving
  deriving DecidableEq, Repr

/-- A fibre (R17, R307). uid tells apart the fibres that use one lane in turn. -/
structure Fibre where
  ref : FRef
  uid : Nat
  pc : BitVec 57
  npc : BitVec 57
  hdr : Word
  words : List Word
  widx : Nat
  st : FStat
  preds : BitVec 16
  wbase : Nat
  regs : List Word
  bregs : List BReg
  clk : Nat
  view : Nat
  pend : List PByte
  ownPub : List (Loc × Byte)
  ownClk : Nat
  fflags : BitVec 6
  rmode : RMode
  seed : Word
  outs : List Outst
  arr : List Nat
  arrOut : List Bool
  commits : Nat
  /-- comparand and retest of `waitne` (R226) -/
  wne : Option Word
  /-- a wait of the current word is over: the word runs on without it -/
  pass : Bool
  /-- the gang members whose peer windows the current word has waited for (R147, R173) -/
  peers : List Nat := []
  /-- the keys of the acts that last prepared branch-target registers, by register (R212, R299) -/
  bkeys : List (Nat × Key) := []
  /-- the stall reason for which its word, or its entry into a clause, was last found to wait; none once it goes on (R246, R247, R302) -/
  held : Option Nat := none
  /-- the residual form in which it runs, none in original code; and whether it leaves it at the next mapped boundary (R254, R258) -/
  form : Option Nat := none
  leaving : Bool := false
  /-- the debugger lets one execution pass its breakpoint and watchpoint checks (R335, R336) -/
  suppress : Bool
  /-- a debugger Step is in progress (R336) -/
  stepping : Stepping
  /-- stopped by a halt of its workgroup (R334) -/
  halted : Bool
  /-- standing at a pre-emption point with these live registers (R300, R302) -/
  live : Option (List Bool)
  deriving DecidableEq, Repr

/-- A warp (R17): uniform registers, those of them that a uniform load has still to write (R160, R164), scheduler state (R244),
and the lanes whose last fibre halted, with the halt's key (R218). -/
structure Warp where
  wref : WRef
  j : Nat
  sregs : List Word
  uouts : List Nat := []
  slot : Nat
  active : Bool
  halts : List (Nat × Key)
  deriving DecidableEq, Repr

/-- An accumulator tile: elements that are not zero, by index 128 * row + column, and the status word (R122, R130). -/
structure Tile where
  elems : List (Nat × Word)
  status : BitVec 2
  deriving DecidableEq, Repr

/-- A matrix command (R111 to R116) as issued. DESIGN CHOICE, safe, log 58. -/
structure MCmd where
  n : Nat
  i : Instr
  key : Key
  uid : Nat
  batch : Nat
  tile : Nat
  id : Nat
  pres : List Nat
  da : Desc
  db : Desc
  o0 : Word
  o1 : Word
  rd : Rd
  done : Bool
  /-- clause and word of the instruction (R340) -/
  src : BitVec 57 × Nat := (0, 0)
  deriving DecidableEq, Repr

/-- What a fibre committed and waited for, with the keys (R116, R117): a commit of batch n, or a wait covering the batches
below n. -/
inductive MLog where
  | commit (uid n : Nat) (k : Key)
  | wait (uid n : Nat) (k : Key)
  deriving DecidableEq, Repr

/-- An act on a stage barrier not yet applied (R183). -/
inductive SbKind where
  | exp (b : Nat)
  | arv (b : Nat)
  | reg (cmd bytes : Nat)
  | wdq (req : Nat)
  deriving DecidableEq, Repr

/-- A keyed act on a stage barrier (R183). -/
structure SbAct where
  key : Key
  kind : SbKind
  deriving DecidableEq, Repr

/-- A live stage barrier (R182). phase is n; the o fields are those of the open phase n, the c fields those of n - 1. The
key of the act that set a cause is kept, since the lowest-keyed act's cause is recorded (R186). -/
structure StageBar where
  addr : Nat
  made : Key
  arrive : Nat
  phase : Nat
  pend : Int
  oexp : Nat
  oreg : Nat
  oland : Nat
  op : Nat
  ocause : Nat
  ocauseKey : Option Key
  ostat : Bool
  cp : Nat
  cdone : Bool
  cstat : Bool
  ccause : Nat
  ccauseKey : Option Key
  creg : Nat
  cland : Nat
  acts : List SbAct
  deriving DecidableEq, Repr

/-- State of a Harp stream (R196). -/
inductive HSt where
  | closed | opened | draining
  deriving DecidableEq, Repr

/-- Progress of a constraint (R196). -/
inductive CSt where
  | waiting | handed | done
  deriving DecidableEq, Repr

/-- A constraint of a stream (R196). -/
structure Constraint where
  payload : Nat
  group : Nat
  st : CSt
  deriving DecidableEq, Repr

/-- A Harp stream (R196): bodies, last groups, constraints in stream order, retired count F, retirement clocks. -/
structure Stream where
  st : HSt
  nb : Nat
  last : List (Nat × Nat)
  cons : List Constraint
  f : Nat
  rclk : List (Nat × Nat)
  deriving DecidableEq, Repr

/-- Debugger halt of a workgroup (R334). -/
inductive Halt where
  | none
  /-- halting: by a command, or by debug stops at largest clock c; the pending kind-1 events are those of its parked fibres -/
  | halting (c : Option Nat)
  | halted
  deriving DecidableEq, Repr

/-- A placed workgroup (R17). core is its core (4 * logical quad + core), none while it is saved (R151, R302); image is the
physical address of its record in a context image (R306). rel lists the 256-byte scratchpad blocks whose latest applied write is a release (R303). -/
structure Workgroup where
  ref : WRef
  core : Option Nat
  image : Option Nat
  spad : Memory
  rel : List Nat
  desc : Memory
  tiles : List Tile
  mcmds : List MCmd
  mlog : List MLog
  sbars : List StageBar
  harp : List Stream
  halt : Halt
  exitKey : Key
  /-- while the rotation has saved it, the context image that the rotation wrote; while it stands in the host's image, the Objects section of its
  record (R151, R306) -/
  saved : List Byte := []
  deriving DecidableEq, Repr

/-- An engine command (R171 to R180). DESIGN CHOICE, safe, log 58. -/
structure ECmd where
  n : Nat
  i : Instr
  key : Key
  wref : WRef
  addr : BitVec 57
  da : Desc
  db : Desc
  coords : List Int
  idx : List Nat
  bar : Nat
  phase : Option Nat
  bytes : Nat
  cancelled : Bool
  /-- the poison cause the command gives its phase, 0 none (R186) -/
  cause : Nat
  rd : Rd
  /-- it waits for the answer to a translation fault; it skips what does not translate (R180) -/
  waiting : Bool
  skip : Bool
  done : Bool
  /-- the bytes that it has landed (R180) -/
  landed : Nat := 0
  /-- its word in the clause at addr (R340) -/
  widx : Nat := 0
  deriving DecidableEq, Repr

/-- A request to the work distributor (R193). DESIGN CHOICE, safe, log 58. -/
structure WdqReq where
  n : Nat
  key : Key
  wref : WRef
  ans : Nat
  bar : Nat
  phase : Option Nat
  done : Bool
  /-- clause and word of the instruction (R340) -/
  src : BitVec 57 × Nat := (0, 0)
  deriving DecidableEq, Repr

/-- A code rewrite by `icinv` (R299): its range, and its bytes once applied. DESIGN CHOICE, safe, log 58. -/
structure Icinv where
  n : Nat
  key : Key
  wref : WRef
  lo : Nat
  hi : Nat
  rd : Rd
  bytes : Option (List Byte)
  deriving DecidableEq, Repr

/-- One phase of a sync set: set, phase number, largest arrival clock (R148, R221). -/
structure BarPhase where
  set : Nat
  k : Nat
  maxClk : Nat
  deriving DecidableEq, Repr

/-- Memory classes (R142). -/
inductive MClass where
  | constant | exclusive | ordered
  deriving DecidableEq, Repr

/-- A range-table entry (R142). -/
structure Range where
  cls : MClass
  owner : Nat
  len : Nat
  start : Nat
  deriving DecidableEq, Repr

/-- A decode table: the native one of R50, or one the host loaded. -/
inductive DecTab where
  | native
  | loaded (ws : List Word)
  deriving DecidableEq, Repr

/-- A pre-emption in progress (R301, R302): the image area, the next free byte in it, whether the budget has expired, and the
workgroups saved and ended. -/
structure Preempt where
  base : Nat
  len : Nat
  next : Nat
  expired : Bool
  saved : Nat
  ended : Nat
  deriving DecidableEq, Repr

/-- A residual form of an original clause (R255, R259): its header address, whether its start is a mapped boundary (R260), the forms at which
its transfers and its end go on, by original address, those at which the children of its forks start, by word index, and the original words
that some word of it copies or stands for. An address without a form is an exit (R258). DEDUCED, safe, log 31. -/
structure PressForm where
  addr : BitVec 57
  mapped : Bool
  links : List (BitVec 57 × Nat)
  forks : List (Nat × Nat)
  kept : List Nat
  deriving DecidableEq, Repr

/-- A Press cache entry (R262): its key of four parts, the residual clauses with their back-map (R254, R260), and their forms. -/
structure PressEntry where
  code : List Byte
  static : List Byte
  table : List Byte
  rev : Nat
  residual : List (List Word)
  backMap : List (BitVec 128)
  forms : List PressForm
  deriving DecidableEq, Repr

/-- The code digest that the Press last computed for an entry address of a context, with the physical and the virtual addresses of the words
that it reached (R262). It stands until a watched page is written. DEDUCED, safe, log 31. -/
structure PressCode where
  ctx : Nat
  entry : BitVec 57
  regs : Nat
  digest : List Byte
  phys : List Nat
  virt : List Nat
  deriving DecidableEq, Repr

/-- An accepted launch (R17, R236). entryTop holds bits 63 to 57 of `ENTRY`. residual is the Press entry in which its fibres started (R264). -/
structure Launch where
  ref : LRef
  part : Nat
  ctx : Nat
  pgx : Nat
  pgy : Nat
  pgz : Nat
  gx : Nat
  gy : Nat
  gz : Nat
  warps : Nat
  fibres : Nat
  regs : Nat
  scratch : Nat
  tiles : Nat
  qlog : Nat
  order : Bool
  gang : Bool
  noPress : Bool
  lseed : Word
  entry : BitVec 57
  data : Nat
  dataLen : Nat
  args : List Byte
  smap : List Byte
  doneAddr : Nat
  defOrdered : Bool
  ranges : List Range
  sets : List (Nat × List (Nat × Nat))
  dtab : DecTab
  dbase : Memory
  /-- its place in the order of its partition's acceptances, and the number of its packet's notify write (R145, R344) -/
  acc : Nat
  stamp : Nat
  /-- the values that it has overwritten at physical addresses, latest first: the last one of an address is that of its initial
  image, and all of them are what a host read may still return (R26, R138, R343) -/
  old : List (Nat × Byte)
  next : Nat
  exits : List (Nat × Key)
  pubs : List Pub
  bars : List BarPhase
  ecmds : List ECmd
  icinvs : List Icinv
  dist : List (Key × Nat × Nat)
  wdqs : List WdqReq
  fresh : Nat
  /-- the host has ended it, and it drains (R294) -/
  draining : Bool
  preempt : Option Preempt
  entryTop : BitVec 7 := 0
  residual : Option PressEntry := none
  deriving DecidableEq, Repr

/-- A ring descriptor (R349). -/
structure Ring where
  base : BitVec 64
  en : Bool
  logn : Nat
  drop : Word
  tail : Word
  head : Word
  deriving DecidableEq, Repr

/-- An unanswered host fault-queue entry (R277): its tag once written to the ring, and its slot there. own is the launch whose journalled answer
it awaits in replay, when it is not posted (R320). -/
structure FqEntry where
  tag : Option Nat
  ctx : Nat
  page : Nat
  cause : Nat
  srcs : List FaultSrc
  key : Key
  count : Nat
  eng : Bool
  slot : Nat := 0
  own : Option LRef := none
  deriving DecidableEq, Repr

/-- A superblock of a context that a launch has pinned: its virtual and its physical number (R166, R284). -/
structure Pinned where
  block : Nat
  phys : Nat
  owner : LRef
  deriving DecidableEq, Repr

/-- A held page-table update of kind Restrict, or a freeing of extents (R276, R283). -/
structure Restrict where
  entries : List (Nat × BitVec 64)
  frees : List (Nat × Nat)
  deriving DecidableEq, Repr

/-- A context (R270). -/
structure Context where
  id : Nat
  root : Nat
  quota : Nat
  dtab : DecTab
  descs : Memory
  extents : List (Nat × Nat)
  pins : List Pinned
  newDtab : Option DecTab
  newDescs : Option Memory
  held : List Restrict
  deriving DecidableEq, Repr

/-- An armed address breakpoint (R331, R337). -/
structure Brk where
  n : Nat
  addr : Nat
  mask : Word
  deriving DecidableEq, Repr

/-- An armed watchpoint (R331, R338). -/
structure Watch where
  n : Nat
  onLoad : Bool
  onStore : Bool
  start : Nat
  len : Nat
  mask : Word
  wg : Option Nat
  deriving DecidableEq, Repr

/-- A host write not yet in effect (R344): its physical address and bytes, the number of notify writes before it, and once
known the packet of its launch boundary, with that packet's place in the order of acceptances. -/
structure HostWrite where
  addr : Nat
  bytes : List Byte
  stamp : Nat
  boundary : Option (LRef × Nat)
  deriving DecidableEq, Repr

/-- Records of the input journal (R318): host writes as they took effect, tables, answers and aborts. acc numbers the acceptance
at whose boundary a table takes effect; the packet it belongs to is that of the same number in the partition's order. A table
record may copy a frame, and may have waited for the end of the context's launches (R276); extents are those added and those freed. A fault
answer names how many accesses of its launch had joined. -/
inductive JRec where
  | write (w : HostWrite)
  | table (acc ctx : Nat) (entries : List (Nat × BitVec 64)) (copy : Option (Nat × Nat × Nat)) (held : Bool)
  | extents (acc ctx : Nat) (added freed : List Nat)
  | dtab (acc ctx : Nat) (t : DecTab)
  | descs (acc ctx : Nat) (m : Memory)
  | faultAns (l : LRef) (ctx page cause : Nat) (resume : Bool) (joined : Nat)
  | stopAns (l : LRef) (warp lane clk code : Nat) (cont : Bool)
  | abort (l : LRef)
  deriving DecidableEq, Repr

/-- A step snapshot (R315); granules, configuration digest and, once it is complete, signed manifest are those of the step (R321). A manifest that
no longer fits, since granules were replaced or the step was loaded from elsewhere, is empty: it is signed anew when the step is exported. -/
structure Snapshot where
  step : Nat
  /-- acceptances made and journal records held when it began -/
  accs : Nat
  recs : Nat
  mem : Memory
  ctxs : List Context
  queues : List (Nat × Word × Word)
  complete : Bool
  todo : List Nat
  granules : List Nat := []
  cfg : List Byte := []
  manifest : List Byte := []
  /-- the slot, 0 or 1, that holds it -/
  slot : Nat := 0
  deriving DecidableEq, Repr

/-- What reaches the device from outside, in order of arrival: a word written to the management page, a word or a double word written to a
partition page, a write or a read through a window, a frame, and the events that the outside causes. DESIGN CHOICE, unsafe, log 3;
DEDUCED, safe, log 45. -/
inductive Input where
  | mgmt (off : Nat) (v : Word)
  | page (p off : Nat) (v : Word)
  | page64 (p off : Nat) (v : BitVec 64)
  | write (p off : Nat) (bytes : List Byte)
  | read (p off len : Nat)
  | frame (link : Nat) (bytes : List Byte)
  | report (link : Nat)
  | window (u : UnitId)
  | corrected (u : UnitId)
  | uncorrected (u : UnitId)
  | rotFault
  | watchdog (proc : Nat)
  | audit (link permits flits slots : Nat)
  | critical (die : Nat)
  | warning (die : Nat)
  | timer (p : Nat)
  | power (p energy : Nat)
  | sample (p core : Nat)
  | budget (l : LRef)
  | abort (l : LRef)
  | spdm
  deriving DecidableEq, Repr

/-- A replay after a rollback (R319, R320): high-water points, journalled tables and aborts still to use, the acceptances of the first
run still to make, in their order, held window traffic, and the contexts that the host destroyed after the snapshot. -/
structure Replay where
  high : List (Nat × Word)
  recs : List JRec
  order : List (LRef × Nat)
  held : List Input
  gone : List Nat := []
  deriving DecidableEq, Repr

/-- A debug event (R332). -/
structure Event where
  kind : Nat
  code : Nat
  cause : Nat
  warp : Nat
  lmask : Word
  clk : Nat
  oaddr : BitVec 57
  widx : Nat
  info : BitVec 64
  deriving DecidableEq, Repr

/-- A partition (R265). -/
structure Partition where
  id : Nat
  quads : List Nat
  granules : List Nat
  ctxs : List Context
  counters : List (BitVec 64)
  mbox : List Word
  attached : Bool
  brks : List Brk
  watches : List Watch
  events : List Event
  rings : List Ring
  ansBad : Bool
  /-- the opcode of the debugger's command under way, its words as they stood when word 0 was written, and whether a step has
  begun (R330, R336) -/
  dbgBusy : Option Nat
  dbgCmd : List Word
  dbgBegun : Bool
  dbgXfer : List (Nat × Word)
  faultQ : List FqEntry
  writes : List HostWrite
  notifies : Nat
  accs : Nat
  /-- the acceptances since the newest snapshot, oldest first, with the notify number of each (R344) -/
  order : List (LRef × Nat)
  journal : List JRec
  nextStep : Nat
  marks : Nat
  timerDue : Bool
  timerMs : Nat
  stepCount : Nat
  dualRun : Bool
  /-- the due mark whose snapshot comes next, and the due marks after it (R314) -/
  mark : Option (Nat × List (Nat × Word))
  nextMarks : List (Nat × List (Nat × Word)) := []
  /-- the dual-run mode that holds from the next step boundary on (R323) -/
  dualNext : Option Bool := none
  /-- the granules for snapshots, the first half slot 0, the second slot 1 (R315); whether the newest complete snapshot went with its slot -/
  slots : List Nat
  snaps : List Snapshot
  snapLost : Bool := false
  replay : Option Replay
  /-- dual run: the digest and the cores of each run of the step, the cores of the present run, and the step's completion
  records by queue and sequence number (R323 to R326) -/
  digests : List (List Byte × List Nat)
  ran : List Nat
  records : List (Nat × Word × List Byte)
  /-- retired granules that the host must replace before replay, and those replaced, with their replacements (R317) -/
  owed : List Nat
  replaced : List (Nat × Nat) := []
  /-- journalled answers that faults and stops in replay have still to take (R320) -/
  answers : List JRec := []
  powerLimit : Nat
  throttle : Nat
  dead : Bool
  stopped : Bool
  /-- the highest key of a message that the debugger was given, by launch; and those given before the latest rollback, which the replayed launches do
  not offer again (R320) -/
  msgs : List (LRef × Key)
  toldOf : List (LRef × Key) := []
  /-- tags of entries of the host fault queue and of the stop queue that stand unanswered after what they name has gone (R350) -/
  faultTags : List Nat := []
  stopTags : List Nat := []
  /-- the slot that each core's stall sampler took last (R340) -/
  rot : List (Nat × Nat)
  press : List PressEntry
  pressCode : List PressCode := []
  deriving DecidableEq, Repr

/-- A fetched launch packet waiting for its dependences (R236, R237): its 1,024 bits. -/
abbrev Packet := BitVec 1024

/-- A queue (R231, R351, R352). nots holds the tails of its notify writes with their numbers, oldest first (R344); done lists
packets completed out of order, fails the completed packets whose status is not 0 (R234). shown is the completed number that the host
has seen, where a rollback has set doneSeq back below it (R320). -/
structure Queue where
  id : Nat
  part : Option Nat
  en : Bool
  ctx : Nat
  rsize : Nat
  prio : Nat
  ring : BitVec 64
  mask : BitVec 256
  refused : Bool
  nextSeq : Word
  doneSeq : Word
  tail : Word
  nots : List (Word × Nat)
  done : List Word
  fails : List Word
  packet : Option Packet
  shown : Option Word := none
  deriving DecidableEq, Repr

/-- Power state of a die (R355, R346). -/
structure Die where
  state : Nat
  warning : Bool
  critical : Bool
  waiting : Bool
  deriving DecidableEq, Repr

/-- A key slot (R279): loaded, its generation counter, and its pair of two 256-bit keys, 0 while it is erased. -/
structure KeySlot where
  loaded : Bool
  gen : Word
  pair : BitVec 512 := 0
  deriving DecidableEq, Repr

/-- A health record (R312). -/
structure HealthRec where
  parts : BitVec 64
  step : BitVec 64
  unit : Nat
  utype : Nat
  event : Nat
  action : Nat
  corr : Nat
  unc : Nat
  deriving DecidableEq, Repr

/-- What the authority does once its record is posted (R312, R317, R319, R326, R328). -/
structure Decision where
  record : HealthRec
  fences : List UnitId
  rollbacks : List Nat
  deads : List Nat
  deriving DecidableEq, Repr

/-- Error counts of a protected structure in its current window (R309). -/
structure ErrCount where
  u : UnitId
  window : Nat
  corr : Nat
  unc : Nat
  deriving DecidableEq, Repr

/-- The management page (R346, R347), and what the authority has decided. busy is the command under way, with its block as it stood at the doorbell. -/
structure Mgmt where
  cmd : List Word
  reply : List Word
  busy : Option Instr
  block : List Word
  xfer : List (Nat × Byte)
  health : List (Nat × HealthRec)
  head : Word
  tail : Word
  held : List Decision
  /-- fences and rollbacks ordered by decisions that have been posted (R312) -/
  toFence : List UnitId
  toRoll : List Nat
  deriving DecidableEq, Repr

/-- Boot (R286, R287, R346, R358, R359); restarts lists the firmware processors restarted from their released images, latest first (R309,
R329). -/
structure Boot where
  released : Nat
  failOrder : Nat
  failCause : Nat
  boots : Word
  digests : List (List Byte)
  deviceId : List Byte
  ide : Bool
  restarts : List Nat := []
  deriving DecidableEq, Repr

/-- A scale-out port (R353, R354). -/
structure Port where
  link : Nat
  part : Option Nat
  fseq : Nat
  report : Bool
  out : List (List Byte)
  deriving DecidableEq, Repr

/-- The device. tick, sched, inbox and cur are the model's own: a step counter for free values, the choices of which
enabled act goes next, the inputs not yet landed, and the fibre whose word exec runs. -/
structure State where
  tick : Nat
  sched : List Nat
  inbox : List Input
  cur : FRef
  mem : Memory
  boot : Boot
  dies : List Die
  keySlots : List KeySlot
  parts : List Partition
  queues : List Queue
  launches : List Launch
  wgs : List Workgroup
  warps : List Warp
  fibres : List Fibre
  mgmt : Mgmt
  errs : List ErrCount
  fenced : List UnitId
  retired : List Nat
  ports : List Port
  /-- what a host read last returned (R343), and what exports wrote to outside targets by kind and address (R321) -/
  hostRead : List Byte
  exported : List (Nat × Nat × List Byte)
  rotDead : Bool
  /-- the send permits of a link, as its last audit left them; a link not listed holds its configured total (R249, R327) -/
  permits : List (Nat × Nat) := []
  deriving DecidableEq, Repr

/-- Why a step stops. -/
inductive Fault where
  /-- raised by an instruction word when cur names no running fibre: exec is asked to run a word in no fibre, which no step
  does. Safe: nothing is claimed of such a call. -/
  | noFibre
  deriving DecidableEq, Repr

/-- Why a step refuses. -/
inductive Refusal where
  /-- raised by exec for an instruction that has no meaning yet. Safe: nothing is claimed of it. -/
  | notModelled (mnemonic : String)
  deriving DecidableEq, Repr

/-- A reference that names no fibre. -/
def noRef : FRef := ⟨⟨⟨0, 0⟩, 0⟩, 0, 0⟩

/-- A queue record at its reset values (R351). -/
def Queue.reset (n : Nat) : Queue :=
  { id := n, part := none, en := false, ctx := 0, rsize := 0, prio := 0, ring := 0, mask := 0, refused := false,
    nextSeq := 0, doneSeq := 0xFFFFFFFF#32, tail := 0, nots := [], done := [], fails := [], packet := none }

/-- The state after reset: the root-of-trust core is about to boot (R358), no partition exists, every register is at the value the manual
states or the log names. DESIGN CHOICE, unsafe, log 4; DESIGN CHOICE, unsafe, log 5; DEDUCED, safe, log 61. -/
def State.reset : State :=
  { tick := 0, sched := [], inbox := [], cur := noRef, mem := [],
    boot := { released := 0, failOrder := 0, failCause := 0, boots := 0, digests := [], deviceId := [], ide := false },
    dies := List.replicate 4 { state := 7, warning := false, critical := false, waiting := false },
    keySlots := List.replicate 64 { loaded := false, gen := 0 },
    parts := [], queues := (List.range 256).map Queue.reset, launches := [], wgs := [], warps := [], fibres := [],
    mgmt := { cmd := List.replicate 16 0, reply := List.replicate 16 0, busy := none, block := [], xfer := [], health := [],
              head := 0, tail := 0, held := [], toFence := [], toRoll := [] },
    errs := [], fenced := [], retired := [],
    ports := (List.range 14).map fun n => { link := n, part := none, fseq := 0, report := false, out := [] }, hostRead := [], exported := [], rotDead := false }

end Sys2Proof.Machine
end

