-- ==== Sys2Proof/Machine/Ops.lean ====
section
/-! DEFINITION. The named operations over the state: sparse memory, finding and replacing the parts of the state, keys
and horizons (R10, R131, R146 to R148), turns and publications (R133 to R140), the passing of a word (R45, R134), and
parking with a fault record (R289 to R291), which is this machine's taking of an exception. -/

namespace Sys2Proof.Machine

/-! ## Memory -/

/-- The byte at x; an address that is not listed reads 0. DESIGN CHOICE, unsafe, log 4. -/
def memGet : Memory → Nat → Byte
  | [], _ => 0
  | (a, b) :: r, x => if a = x then b else if x < a then 0 else memGet r x

/-- Writes one byte, keeping the canonical form: writing 0 removes the entry. DESIGN CHOICE, unsafe, log 4. -/
def memSet : Memory → Nat → Byte → Memory
  | [], x, v => if v = 0 then [] else [(x, v)]
  | (a, b) :: r, x, v =>
    if x < a then (if v = 0 then (a, b) :: r else (x, v) :: (a, b) :: r)
    else if a = x then (if v = 0 then r else (x, v) :: r)
    else (a, b) :: memSet r x v

/-- Addresses rise strictly above lo, and no entry is 0. -/
def memWfFrom : Nat → Memory → Bool
  | _, [] => true
  | lo, (a, b) :: r => decide (lo ≤ a) && decide (b ≠ 0) && memWfFrom (a + 1) r

/-- The canonical form of a memory. DESIGN CHOICE, unsafe, log 4. -/
def memWf (m : Memory) : Bool := memWfFrom 0 m

/-- n bytes from address a. -/
def memBytes (m : Memory) (a n : Nat) : List Byte := (List.range n).map fun k => memGet m (a + k)

/-- Writes bytes from address a upwards. -/
def memPut : Memory → Nat → List Byte → Memory
  | m, _, [] => m
  | m, a, b :: r => memPut (memSet m a b) (a + 1) r

/-- Sets the n bytes from address a to zero. -/
def memZero (m : Memory) (a n : Nat) : Memory := m.filter fun c => c.1 < a || a + n ≤ c.1

/-- The entries of [a, a + n), moved down by a. -/
def memSlice (m : Memory) (a n : Nat) : Memory :=
  (m.filter fun c => decide (a ≤ c.1 ∧ c.1 < a + n)).map fun c => (c.1 - a, c.2)

/-- Copies the n bytes from address a to address b. -/
def memCopy (m : Memory) (a b n : Nat) : Memory := (memSlice m a n).foldl (fun x c => memSet x (b + c.1) c.2) (memZero m b n)

/-- A little-endian number of n bytes at address a. -/
def memNat (m : Memory) (a n : Nat) : Nat := ofBytes (memBytes m a n)

/-- Writes a little-endian number of n bytes at address a. -/
def memPutNat (m : Memory) (a n v : Nat) : Memory := memPut m a (toBytes n v)

/-! ## Finding and replacing -/

def State.launch? (s : State) (r : LRef) : Option Launch := s.launches.find? fun l => l.ref = r
def State.wg? (s : State) (r : WRef) : Option Workgroup := s.wgs.find? fun w => w.ref = r
def State.warp? (s : State) (r : WRef) (j : Nat) : Option Warp := s.warps.find? fun p => p.wref = r ∧ p.j = j
def State.fibre? (s : State) (r : FRef) : Option Fibre := s.fibres.find? fun f => f.ref = r
def State.part? (s : State) (p : Nat) : Option Partition := s.parts.find? fun q => q.id = p
def State.queue? (s : State) (q : Nat) : Option Queue := s.queues.find? fun x => x.id = q

def State.updL (s : State) (r : LRef) (g : Launch → Launch) : State :=
  { s with launches := s.launches.map fun l => if l.ref = r then g l else l }
def State.updW (s : State) (r : WRef) (g : Workgroup → Workgroup) : State :=
  { s with wgs := s.wgs.map fun w => if w.ref = r then g w else w }
def State.updWarp (s : State) (r : WRef) (j : Nat) (g : Warp → Warp) : State :=
  { s with warps := s.warps.map fun p => if p.wref = r ∧ p.j = j then g p else p }
def State.setF (s : State) (f : Fibre) : State :=
  { s with fibres := s.fibres.map fun x => if x.ref = f.ref then f else x }
def State.updP (s : State) (p : Nat) (g : Partition → Partition) : State :=
  { s with parts := s.parts.map fun q => if q.id = p then g q else q }
def State.updQ (s : State) (q : Nat) (g : Queue → Queue) : State :=
  { s with queues := s.queues.map fun x => if x.id = q then g x else x }

/-- One step more has been taken: every act that does something ticks, and an act that only waits does not. DESIGN CHOICE, safe, log 1. -/
def State.ticked (s : State) : State := { s with tick := s.tick + 1 }

/-- Adds n to counter i of partition p, modulo 2^64 (R341). DEDUCED, unsafe, log 16. -/
def State.count (s : State) (p i n : Nat) : State :=
  s.updP p fun q => { q with counters := setAt q.counters i (q.counters.getD i 0 + BitVec.ofNat 64 n) }

/-- A context of a partition (R270). -/
def Partition.ctx? (p : Partition) (c : Nat) : Option Context := p.ctxs.find? fun x => x.id = c

/-- Changes a context of a partition. -/
def Partition.updC (p : Partition) (c : Nat) (g : Context → Context) : Partition :=
  { p with ctxs := p.ctxs.map fun x => if x.id = c then g x else x }

/-- The context of a launch. -/
def State.ctxOf? (s : State) (l : Launch) : Option Context :=
  match s.part? l.part with
  | none => none
  | some p => p.ctx? l.ctx

/-- A fibre with the launch, the workgroup and the warp around it. -/
structure Env where
  l : Launch
  w : Workgroup
  p : Warp
  f : Fibre
  deriving DecidableEq, Repr

/-- The surroundings of a fibre. -/
def State.env? (s : State) (r : FRef) : Option Env :=
  match s.fibre? r, s.launch? r.wref.launch, s.wg? r.wref, s.warp? r.wref r.warp with
  | some f, some l, some w, some p => some ⟨l, w, p, f⟩
  | _, _, _, _ => none

/-- The live fibres of a launch, of a workgroup, of a warp: halted fibres are no longer listed (R15). -/
def State.launchFibres (s : State) (l : LRef) : List Fibre := s.fibres.filter fun f => f.ref.wref.launch = l
def State.wgFibres (s : State) (w : WRef) : List Fibre := s.fibres.filter fun f => f.ref.wref = w
def State.warpFibres (s : State) (w : WRef) (j : Nat) : List Fibre :=
  s.fibres.filter fun f => f.ref.wref = w ∧ f.ref.warp = j

/-! ## Keys -/

/-- The lexicographic order of keys (R131). -/
def keyLt (a b : Key) : Bool :=
  decide (a.clk < b.clk ∨ (a.clk = b.clk ∧ (a.warp < b.warp ∨ (a.warp = b.warp ∧ a.lane < b.lane))))

/-- Not above in the order of keys. -/
def keyLe (a b : Key) : Bool := keyLt a b || decide (a = b)

/-- The warp id of a fibre (R10). -/
def warpId (l : Launch) (r : FRef) : Nat := r.wref.wg * l.warps + r.warp

/-- The key of a fibre at clock c (R10). -/
def keyAt (l : Launch) (r : FRef) (c : Nat) : Key := ⟨c, warpId l r, r.lane⟩

/-- The key of a fibre at its own clock. -/
def Env.key (e : Env) : Key := keyAt e.l e.f.ref e.f.clk

/-- The quantum Q of a launch (R132). -/
def Launch.q (l : Launch) : Nat := 2 ^ l.qlog

/-- Number of workgroups of the effective grid (R10, R240). -/
def Launch.wgCount (l : Launch) : Nat := l.gx * l.gy * l.gz

/-- Linear indices of the workgroups that share a quad scope with workgroup n: its gang, or itself alone (R12, R146). -/
def Launch.gangOf (l : Launch) (n : Nat) : List Nat :=
  if l.gang then (List.range 4).map (fun k => n / 4 * 4 + k) |>.filter (· < l.wgCount) else [n]

/-! ## Sync sets and barriers (R13, R148, R221) -/

/-- A warp id lies in one of a set's ranges. -/
def inRanges (rs : List (Nat × Nat)) (w : Nat) : Bool := rs.any fun r => decide (r.1 ≤ w ∧ w ≤ r.2)

/-- The table indices of the sets a warp is a member of, ascending: its g0 to g3 (R13). -/
def Launch.setsOf (l : Launch) (w : Nat) : List Nat := (l.sets.filter fun x => inRanges x.2 w).map (·.1)

/-- The number g under which a warp names the set of table index t. -/
def Launch.localSet? (l : Launch) (w t : Nat) : Option Nat := (l.setsOf w).idxOf? t

/-- The arrival count of a fibre on the set of table index t, none when its warp is no member. -/
def Launch.arrivals? (l : Launch) (f : Fibre) (t : Nat) : Option Nat :=
  match l.localSet? (warpId l f.ref) t with
  | none => none
  | some g => some (f.arr.getD g 0)

/-- Every member warp of set t exists: its workgroup has been placed or has ended (R221). -/
def Launch.membersPlaced (l : Launch) (t : Nat) : Bool :=
  match l.sets.find? fun x => x.1 = t with
  | none => true
  | some x => x.2.all fun r => decide (r.1 / l.warps ≥ l.wgCount ∨ min r.2 (l.wgCount * l.warps - 1) / l.warps < l.next)

/-- Phase k of set t is complete (R221). -/
def State.phaseDone (s : State) (l : Launch) (t k : Nat) : Bool :=
  l.membersPlaced t && (s.launchFibres l.ref).all fun f =>
    match l.arrivals? f t with
    | none => true
    | some n => decide (k ≤ n)

/-- The largest arrival clock of phase k of set t so far. -/
def Launch.arrivalMax (l : Launch) (t k : Nat) : Nat :=
  match l.bars.find? fun b => b.set = t ∧ b.k = k with
  | none => 0
  | some b => b.maxClk

/-- Records an arrival at clock c. -/
def Launch.arrive (l : Launch) (t k c : Nat) : Launch :=
  match l.bars.find? fun b => b.set = t ∧ b.k = k with
  | none => { l with bars := ⟨t, k, c⟩ :: l.bars }
  | some _ => { l with bars := l.bars.map fun b => if b.set = t ∧ b.k = k then { b with maxClk := max b.maxClk c } else b }

/-- The exit clock E of phase k of set t (R148). -/
def Launch.exitClk (l : Launch) (t k : Nat) : Nat := nextB l.q (l.arrivalMax t k)

/-- The barrier bound of R113: from the arrival clocks so far and the clocks of the members that have not yet arrived. DEDUCED, unsafe,
log 11. -/
def State.barBound (s : State) (l : Launch) (t k : Nat) : Nat :=
  nextB l.q (((s.launchFibres l.ref).filterMap fun f =>
    match l.arrivals? f t with
    | none => none
    | some n => if n < k then some f.clk else none).foldl max (l.arrivalMax t k))

/-- The table index of the set a fibre names g. -/
def Env.setIdx? (e : Env) (g : Nat) : Option Nat := (e.l.setsOf (warpId e.l e.f.ref))[g]?

/-- The bound of a fibre that waits excluded (R113, R188, R204, R207), none when it is not excluded. -/
def State.bound? (s : State) (l : Launch) (f : Fibre) : Option Nat :=
  match f.st with
  | .bar g k _ =>
    match (l.setsOf (warpId l f.ref))[g]? with
    | some t => some (s.barBound l t k)
    | none => some 0
  | .sbwait _ _ c (some _) => some c
  | .hstall _ _ _ c _ _ => some c
  | .hsync _ _ c => some c
  | _ => none

/-! ## Reported clocks and horizons (R146) -/

/-- The clock of a fibre in whole quanta (R146). -/
def quantumOf (l : Launch) (f : Fibre) : Nat := floorTo l.q f.clk

/-- The clock a fibre reports, none when it is not counted (R146). A fibre of a launch that is being pre-empted reports as a pre-empted
one (R302). A barrier waiter whose phase is complete waits for its exit turn (R148). The waits that R146 does not list report their exact
clock. DEDUCED, unsafe, log 10. -/
def State.reported? (s : State) (l : Launch) (f : Fibre) : Option Nat :=
  if l.preempt.isSome then some (quantumOf l f)
  else match f.st with
  | .enter => some (quantumOf l f)
  | .run => some (quantumOf l f)
  | .conv _ => some (quantumOf l f)
  | .parked _ _ => some (quantumOf l f)
  | .turn t _ => some t
  | .atom _ => some f.clk
  | .fork _ _ _ => some f.clk
  | .tile => some f.clk
  | .keyed => some f.clk
  | .peer _ => some f.clk
  | .excl => some f.clk
  | .harp _ => some f.clk
  | .sbwait _ _ _ none => some f.clk
  | .bar g k c => match (l.setsOf (warpId l f.ref))[g]? with
    | some t => if s.phaseDone l t k then some (max (l.exitClk t k) c) else none
    | none => none
  | .sbwait _ _ _ (some _) => none
  | .hstall _ _ _ _ _ _ => none
  | .hsync _ _ _ => none

/-- The minimum of clocks, 2^56 when there is none (R146). -/
def horizonOf (cs : List Nat) : Nat := cs.foldl min clockTop

/-- The quad horizon of the scope of workgroup n (R146). DEDUCED, unsafe, log 10. -/
def State.quadHorizon (s : State) (l : Launch) (n : Nat) : Nat :=
  horizonOf (((s.launchFibres l.ref).filter fun f => (l.gangOf n).contains f.ref.wref.wg).filterMap (s.reported? l))

/-- The device horizon of a launch, unplaced workgroups at 0 (R146). DEDUCED, unsafe, log 10. -/
def State.devHorizon (s : State) (l : Launch) : Nat :=
  if l.next < l.wgCount then 0 else horizonOf ((s.launchFibres l.ref).filterMap (s.reported? l))

/-- The fibre does not hold back a turn at clock t: it is not counted, reports t or above, or has itself completed a turn at t, which the
same horizons allowed: turns that one horizon allows complete together (R146, R147). DEDUCED, unsafe, log 10. -/
def State.allowsTurn (s : State) (l : Launch) (t : Nat) (f : Fibre) : Bool :=
  match s.reported? l f with
  | some c => decide (t ≤ c ∨ t ≤ f.view)
  | none => true

/-- A turn at clock t of a fibre of workgroup n may complete (R147). DEDUCED, unsafe, log 10. -/
def State.turnOk (s : State) (l : Launch) (n t : Nat) : Bool :=
  ((s.launchFibres l.ref).filter fun f => (l.gangOf n).contains f.ref.wref.wg).all (s.allowsTurn l t)
    && (!l.order || (decide (l.wgCount ≤ l.next ∨ t = 0) && (s.launchFibres l.ref).all (s.allowsTurn l t)))

/-- The fibres of the scope in which a location of workgroup n's accesses is ordered (R138, R146). -/
def State.scopeFibres (s : State) (l : Launch) (loc : Loc) : List Fibre :=
  match loc with
  | .phys _ => s.launchFibres l.ref
  | .spad n _ => (s.launchFibres l.ref).filter fun f => (l.gangOf n).contains f.ref.wref.wg
  | .desc n _ => (s.launchFibres l.ref).filter fun f => (l.gangOf n).contains f.ref.wref.wg

/-- A fibre at the launch's entry (R17). -/
def Launch.newFibre (l : Launch) (r : FRef) (uid : Nat) : Fibre :=
  { ref := r, uid := uid, pc := l.entry, npc := l.entry, hdr := 0, words := [], widx := 0, st := .enter, preds := 1, wbase := 0,
    regs := List.replicate l.regs 0, bregs := List.replicate 8 ⟨.unprepared, 0⟩, clk := 0, view := 0, pend := [], ownPub := [],
    ownClk := 0, fflags := 0, rmode := .rne, seed := l.lseed, outs := [], arr := List.replicate 4 0,
    arrOut := List.replicate 4 false, commits := 0, wne := none, pass := false, suppress := false, stepping := .off,
    form := l.residual.map fun _ => 0,
    halted := false, live := none }

/-- A workgroup at its reset values on a core (R17). -/
def Launch.newWg (l : Launch) (n core : Nat) : Workgroup :=
  { ref := ⟨l.ref, n⟩, core := some core, image := none, spad := [], rel := [], desc := l.dbase,
    tiles := List.replicate l.tiles ⟨[], 0⟩, mcmds := [], mlog := [], sbars := [],
    harp := List.replicate 4 { st := .closed, nb := 0, last := [], cons := [], f := 0, rclk := [] }, halt := .none,
    exitKey := ⟨0, 0, 0⟩ }

/-! ## Residual code (R254, R258, R264) -/

/-- The residual form in which a fibre of a launch runs. -/
def Launch.pressForm (l : Launch) (f : Fibre) : Option PressForm := do
  let x ← l.residual
  let k ← f.form
  x.forms[k]?

/-- The form in which the child of the fork at the fibre's word starts (R258). -/
def Launch.forkForm (l : Launch) (f : Fibre) : Option Nat := do
  let x ← l.pressForm f
  let k ← x.forks.find? fun y => y.1 = f.widx
  some k.2

/-- The form in which the fibre goes on at a header address: where there is none it leaves residual code, and so it does at a mapped boundary
once the debugger has asked for it (R258). -/
def Launch.nextForm (l : Launch) (f : Fibre) (a : BitVec 57) : Option Nat := do
  let x ← l.residual
  let k ← if f.words.isEmpty then f.form else do
    let y ← l.pressForm f
    let z ← y.links.find? fun z => z.1 = a
    some z.2
  let y ← x.forms[k]?
  if f.leaving && y.mapped then none else some k

/-! ## Publications -/

/-- Publications apply in key order, and by rank under one key (R140). -/
def pubLt (a b : Pub) : Bool := keyLt a.key b.key || (decide (a.key = b.key) && decide (a.rank < b.rank))

/-- Inserts a publication in order, after those not above it. -/
def insertPub (p : Pub) : List Pub → List Pub
  | [] => [p]
  | x :: r => if pubLt p x then p :: x :: r else x :: insertPub p r

/-- Adds a publication to a launch; one without bytes is nothing (R136). -/
def Launch.publish (l : Launch) (p : Pub) : Launch :=
  if p.bytes.isEmpty then l else { l with pubs := insertPub p l.pubs }

/-- A later value of a byte replaces the earlier one (R137). -/
def putOwn (own : List (Loc × Byte)) (x : Loc × Byte) : List (Loc × Byte) := x :: own.filter fun y => y.1 ≠ x.1

/-- A pending store of one byte replaces the earlier one to that byte (R137). -/
def putPend (pend : List PByte) (b : PByte) : List PByte := b :: pend.filter fun y => y.loc ≠ b.loc

/-- The number of 32-byte sectors covered by pending stores (R135). -/
def footprint (pend : List PByte) : Nat := (pend.map fun b => b.addr / 32).eraseDups.length

/-- The bytes of a publication of pending stores. -/
def pendBytes (pend : List PByte) : List PubByte := pend.map fun b => ⟨b.loc, b.val, 0xFF⟩

/-- The fibre after its pending stores were published by a turn at clock t: they join its own publication of that clock,
several turns at one clock being one turn (R133, R138). -/
def Fibre.published (f : Fibre) (t : Nat) : Fibre :=
  { f with pend := [], ownClk := t,
           ownPub := (f.pend.map fun b => (b.loc, b.val)).foldr (fun x o => putOwn o x) (if f.ownClk = t then f.ownPub else []) }

/-- Publishes a fibre's pending stores with key (t, warp id, lane) (R136). -/
def State.publishPend (s : State) (l : Launch) (f : Fibre) (t : Nat) : State :=
  s.updL l.ref fun x => x.publish { key := keyAt l f.ref t, rank := 0, release := false, bytes := pendBytes f.pend, src := some (f.pc, f.widx) }

/-- What a turn at clock t adds to the count of turns: nothing where the fibre has turned at that clock already (R133, R341). DEDUCED, unsafe,
log 16. -/
def Fibre.newTurn (f : Fibre) (t : Nat) : Nat := if f.ownClk = t ∧ t ≠ 0 then 0 else 1

/-- A fibre turns at clock t: its stores are published, and it waits for the turn to complete, then does k. Turns at one clock count as
one (R133, R136, R341). DEDUCED, unsafe, log 16. -/
def State.turnAt (s : State) (l : Launch) (f : Fibre) (t : Nat) (k : AfterTurn) : State :=
  ((s.publishPend l f t).setF { f.published t with st := .turn t k }).count l.part 2 (f.newTurn t)

/-- A fibre's clock is raised to t, at or above it, and it turns there: a boundary crossed below t is a boundary turn of its own (R133,
R134). DEDUCED, unsafe, log 16. -/
def State.raiseTurn (s : State) (l : Launch) (f : Fibre) (t : Nat) (k : AfterTurn) : State :=
  let b := floorTo l.q t
  let n := if f.clk < b ∧ b < t then 1 else 0
  (((s.count l.part 2 n).count l.part 3 n)).turnAt l { f with clk := t } t k

/-- Where a fibre stands when nothing holds it: in its clause, or past its last word, about to enter the next one. -/
def Fibre.stand (f : Fibre) : FStat := if f.words.length ≤ f.widx then .enter else .run

/-- A fibre's clock moves to c (at or above it): a crossed boundary is a boundary turn at the largest one (R134). DEDUCED, unsafe, log 16.
-/
def State.moveClock (s : State) (l : Launch) (f : Fibre) (c : Nat) : State :=
  if f.clk < floorTo l.q c then
    (s.turnAt l { f with clk := c } (floorTo l.q c) .resume).count l.part 3 1
  else s.setF { f with clk := c, st := f.stand }

/-! ## Faults: taking an exception, and returning from one -/

/-- The word at which a fibre stands, 0 at a clause entry. -/
def Fibre.word (f : Fibre) : Word := f.words.getD f.widx 0

/-- The record of a stop (R291). -/
def mkRec (e : Env) (code cause : Nat) (info : BitVec 64) : FaultRec :=
  { code := code, cause := cause, warp := warpId e.l e.f.ref, lane := e.f.ref.lane, clk := e.f.clk, oaddr := e.f.pc,
    widx := e.f.widx, word := e.f.word, info := info, ctx := e.l.ctx }

/-- The counter of a stop: recoverable, program or debug (R288, R341). -/
def stopCounter (code : Nat) : Nat := if code = 1 then 20 else if code ≤ 0x17 then 21 else 22

/-- A debugger is attached to the partition (R331). -/
def State.debugged (s : State) (p : Nat) : Bool :=
  match s.part? p with
  | some x => x.attached
  | none => false

/-- A debug stop at clock c halts the fibre's workgroup, the halt being taken at the largest such clock (R333, R334). -/
def Workgroup.debugStop (c : Nat) (w : Workgroup) : Workgroup :=
  match w.halt with
  | .none => { w with halt := .halting (some c) }
  | .halting (some d) => { w with halt := .halting (some (max c d)) }
  | _ => w

/-- Parks a fibre with a record (R289): the word has no effect, the clock, view, pending stores and registers stay. This is
the one way an exception is taken. -/
def State.parkRec (s : State) (e : Env) (r : FaultRec) : State :=
  let t := ((s.setF { e.f with st := .parked r .no }).count e.l.part (stopCounter r.code) 1).ticked
  if 0x18 ≤ r.code ∧ s.debugged e.l.part then t.updW e.f.ref.wref (Workgroup.debugStop r.clk) else t

/-- Parks a fibre at the word where it stands. -/
def State.park (s : State) (e : Env) (code cause : Nat) (info : BitVec 64) : State := s.parkRec e (mkRec e code cause info)

/-- The return from a stop: the fibre stands again where it stopped, and executes the word again at the same key, or enters the clause
again (R213, R293). A barrier waiter parked by the wait deadlock goes on waiting for its phase, its arrival being made (R229). DEDUCED,
unsafe, log 13. -/
def Fibre.retry (f : Fibre) (r : FaultRec) : Fibre :=
  if r.code = 0x0F then { f with st := .bar r.info.toNat (f.arr.getD r.info.toNat 0) f.clk }
  else { f with st := f.stand }

/-! ## Passing a word -/

/-- The fibre past a word of len words (R45, R211). -/
def Fibre.past (f : Fibre) (len : Nat) : Fibre :=
  { f with widx := f.widx + len, wne := none, pass := false, peers := [], suppress := false, live := none,
           stepping := if f.stepping = .armed then .moving else f.stepping }

/-- The word's weight would carry the clock past 2^56 - 1 (R19). DEDUCED, unsafe, log 9. -/
def overflows (f : Fibre) (wt : Nat) : Bool := decide (clockTop ≤ f.clk + wt)

/-- A fibre that holds the word's effect, f, passes the word with weight wt (R45); e is the fibre before it. When the clock would
overflow, it parks with its state before the word (R19). s holds the word's other effects, s0 is the state before them. DEDUCED, unsafe,
log 9. -/
def State.pass (s0 s : State) (e : Env) (f : Fibre) (len wt : Nat) : State :=
  if overflows e.f wt then s0.park e 0x0A 0 0
  else ((s.moveClock e.l (f.past len) (e.f.clk + wt)).count e.l.part 0 1).ticked

/-! ## Guards and stops of words -/

/-- Why a word does not complete now: it waits where it is, with a stall reason of R247; it first goes through another state (an early turn, R135; a
wait of R147), or it faults with a code, a cause and INFO (R288). -/
inductive Stop where
  | wait (why : Nat)
  | go (t : State)
  | fault (code cause : Nat) (info : BitVec 64)
  deriving DecidableEq, Repr

/-- The fibre waits at its word, for the reason given (R247, R302); once it is known to wait so, nothing changes. -/
def State.hold (s : State) (e : Env) (why : Nat) : State :=
  if (s.fibre? e.f.ref).any fun f => f.held = some why then s else (s.setF { e.f with held := some why }).ticked

/-- What a word that stops does: it is held, goes to the other state, or parks. -/
def State.stopped (s : State) (e : Env) (x : Stop) : State :=
  match x with
  | .wait why => s.hold e why
  | .go t => t.ticked
  | .fault c k i => s.park e c k i

/-- Predicate n of a fibre (R17). -/
def Fibre.pred (f : Fibre) (n : Nat) : Bool := f.preds.getLsbD n

/-- The clause guard CG of the fetched clause (R28). -/
def Fibre.cg (f : Fibre) : Nat := bits f.hdr.toNat 6 3

/-- The guard of a word: its own G, or the clause guard when it has none (R41). -/
def guardOn (f : Fibre) (g : Option Nat) : Bool := f.pred (g.getD f.cg)

/-- Neither the debugger nor a save holds the fibre (R302, R334). -/
def Env.free (e : Env) : Bool := !e.f.halted && e.w.core.isSome

/-- A pre-emption stops the fibre where it stands: at a pre-emption point, in a wait of its word, or at any word boundary once the budget
has expired (R302). -/
def Env.preStopped (e : Env) : Bool :=
  match e.l.preempt with
  | none => false
  | some p => p.expired || e.f.live.isSome || e.f.held.isSome

/-- Nothing holds the fibre in its wait: neither the debugger, a save nor a pre-emption, which stops every waiting fibre in its wait
(R302, R334). -/
def Env.moves (e : Env) : Bool := e.free && e.l.preempt.isNone

/-- The fibre may execute a word now. -/
def Env.canRun (e : Env) : Bool :=
  (e.f.st = .run || (e.f.st = .tile || e.f.st = .keyed) && e.l.preempt.isNone) && e.free && e.f.stepping ≠ .moving && !e.preStopped

/-- The current fibre's surroundings given to k; a call with no such fibre is no step of the machine. DESIGN CHOICE, safe, log 1. -/
def withCur (s : State) (k : Env → Host.Outcome State Fault Refusal) : Host.Outcome State Fault Refusal :=
  match s.env? s.cur with
  | none => .fault .noFibre
  | some e => if e.canRun then k { e with f := { e.f with held := none } } else .next s

/-- A word whose effect lies in the state and in the fibre: body gives both, or stops. Guarded off, the word only adds its
weight (R41). -/
def runWord (s : State) (g : Option Nat) (len wt : Nat) (body : Env → Except Stop (State × Fibre)) :
    Host.Outcome State Fault Refusal :=
  withCur s fun e =>
    if guardOn e.f g then
      match body e with
      | .ok x => .next (s.pass x.1 e x.2 len wt)
      | .error x => .next (s.stopped e x)
    else .next (s.pass s e e.f len wt)

/-- A word whose effect lies in its own fibre alone. -/
def runPlain (s : State) (g : Option Nat) (len wt : Nat) (body : Env → Except Stop Fibre) :
    Host.Outcome State Fault Refusal :=
  runWord s g len wt fun e => (body e).map fun f => (s, f)

/-- A word that does not simply pass: body gives the whole next state (a turn, a wait, an end), or stops. The clock overflow of the word's
weight is checked after its own faults, and before any of its effects (R19, R45). DEDUCED, unsafe, log 9. -/
def runSyncN (s : State) (g : Option Nat) (len wt : Nat) (body : Env → Except Stop State) :
    Host.Outcome State Fault Refusal :=
  withCur s fun e =>
    if guardOn e.f g then
      match body e with
      | .ok t => if overflows e.f wt then .next (s.park e 0x0A 0 0) else .next t.ticked
      | .error x => .next (s.stopped e x)
    else .next (s.pass s e e.f len wt)

/-- Such a word of one word and weight 1. -/
def runSync (s : State) (g : Option Nat) (body : Env → Except Stop State) : Host.Outcome State Fault Refusal :=
  runSyncN s g 1 1 body

/-- A device act that happens when act gives a state, and waits otherwise. -/
def runAct (s : State) (act : Option State) : Host.Outcome State Fault Refusal :=
  match act with
  | some t => .next t.ticked
  | none => .next s

end Sys2Proof.Machine
end

