-- ==== Sys2Proof/Machine/Operands.lean ====
section
/-! DEFINITION. Operand forms (R18, R40, R42, R43, R52): reading and writing vector registers, pairs and groups in the
fibre's window with the window-overflow check and the read-after-write interlock, predicates, uniform registers, and
long-latency results (R46). Every register a word names is checked in field order D, A, B before any is read. -/

namespace Sys2Proof.Machine

/-- The physical register that v i names (R18). -/
def Fibre.phys (f : Fibre) (i : Nat) : Nat := f.wbase + i

/-- Some result still to arrive will write physical register k (R42). -/
def Fibre.awaits (f : Fibre) (k : Nat) : Bool := f.outs.any fun o => o.dst.contains (some k)

/-- Every named register lies in the allocation, or the first that does not raises window overflow with INFO its physical index (R18,
R288). DEDUCED, unsafe, log 9. -/
def vchk (f : Fibre) : List Nat → Except Stop Unit
  | [] => .ok ()
  | i :: r => if f.phys i < f.regs.length then vchk f r else .error (.fault 0x09 0 (BitVec.ofNat 64 (f.phys i)))

/-- v i, waiting for a result that is still outstanding (R42). -/
def vget (f : Fibre) (i : Nat) : Except Stop Word :=
  if f.awaits (f.phys i) then .error (.wait 6) else .ok (f.regs.getD (f.phys i) 0)

/-- The pair v i, v i+1 (R18). -/
def vget2 (f : Fibre) (i : Nat) : Except Stop (BitVec 64) := do
  let lo ← vget f i
  let hi ← vget f (i + 1)
  .ok (pair64 lo hi)

/-- n registers from v i. -/
def vgets (f : Fibre) (i : Nat) : Nat → Except Stop (List Word)
  | 0 => .ok []
  | n + 1 => do
    let x ← vget f i
    let r ← vgets f (i + 1) n
    .ok (x :: r)

/-- An outstanding result no longer writes physical register k: a later write stands (R42). -/
def Outst.drop (k : Nat) (o : Outst) : Outst := { o with dst := o.dst.map fun d => if d = some k then none else d }

/-- Writes v i. -/
def vset (f : Fibre) (i : Nat) (x : Word) : Fibre :=
  { f with regs := setAt f.regs (f.phys i) x, outs := f.outs.map (Outst.drop (f.phys i)) }

/-- Writes the pair v i, v i+1. -/
def vset2 (f : Fibre) (i : Nat) (x : BitVec 64) : Fibre := vset (vset f i (lo32 x)) (i + 1) (hi32 x)

/-- The clause's token: 1 to 4 for w0 to w3, 0 for none (R28). -/
def Fibre.setTok (f : Fibre) : Nat := bits f.hdr.toNat 19 17

/-- Outstanding results of the kinds atomic, load, tile read and Harp answer (R304). -/
def Fibre.outCount (f : Fibre) : Nat := (f.outs.filter fun o => o.kind ≠ .arith).length

/-- An empty read context, for results that read no memory. -/
def noRd : Rd := ⟨⟨0, 0, 0⟩, 0, []⟩

/-- Adds an outstanding result, which takes over its destination registers from earlier ones (R42); at most 63 of the kinds
of R304 are outstanding. -/
def addOut (f : Fibre) (o : Outst) : Except Stop Fibre :=
  if o.kind ≠ .arith ∧ 63 ≤ f.outCount then .error (.wait 6)
  else .ok { f with outs := (o.dst.foldl (fun os d => match d with
    | some k => os.map (Outst.drop k)
    | none => os) f.outs) ++ [{ o with oaddr := f.pc, widx := f.widx }] }

/-- The fibre when the uniform registers of its earlier uniform loads have their words: the records that are still outstanding, which
arrived first with another fibre, have no register left to write (R42, R164). -/
def Fibre.uLanded (f : Fibre) : Fibre := { f with outs := f.outs.map fun o => { o with sdst := [] } }

/-- The fibre with a uniform load outstanding, the warp's earlier ones having landed (R42, R46, R160, R164). -/
def Fibre.withUload (f : Fibre) (ea : BitVec 64) (k : Key) (regs : List Nat) (ws : List Word) (locs : List Loc) : Fibre :=
  { f with outs := f.uLanded.outs ++ [{ kind := .load, dst := [], token := f.setTok, key := k, addr := ea.toNat, size := 4 * regs.length,
                                        sext := false, vals := some ws, rd := noRd, locs := locs, sdst := regs, oaddr := f.pc, widx := f.widx }] }

/-- The uniform registers after a uniform load's words arrive, if they have not arrived with another fibre's record (R42, R164). -/
def Warp.landed (p : Warp) (o : Outst) (ws : List Word) : Warp :=
  if o.sdst.any p.uouts.contains then
    { p with sregs := (o.sdst.zip ws).foldl (fun r x => if x.1 = 0 then r else setAt r x.1 x.2) p.sregs,
             uouts := p.uouts.filter fun i => !o.sdst.contains i }
  else p

/-- The physical registers of n registers from v i, as destinations. -/
def Fibre.dsts (f : Fibre) (i n : Nat) : List (Option Nat) := (List.range n).map fun k => some (f.phys i + k)

/-- A long-latency arithmetic result x for v i (R46, R83). -/
def vsetLate (f : Fibre) (i : Nat) (x : Word) : Except Stop Fibre :=
  addOut f { kind := .arith, dst := f.dsts i 1, token := f.setTok, key := ⟨f.clk, 0, 0⟩, addr := 0, size := 0, sext := false,
             vals := some [x], rd := noRd, locs := [] }

/-- Writes predicate n; writes to p0 and p1 are discarded (R17). -/
def pset1 (f : Fibre) (n : Nat) (b : Bool) : Fibre :=
  if n < 2 then f
  else { f with preds := (f.preds &&& ~~~(1#16 <<< n)) ||| (if b then 1#16 <<< n else 0#16) }

/-- Writes a result and its complement into the predicate pair n (R90). -/
def psetPair (f : Fibre) (n : Nat) (b : Bool) : Fibre := pset1 (pset1 f n b) (n + 1) (!b)

/-- Writes the predicate word; p0 reads 1 and p1 reads 0 (R17, R99). -/
def psetWord (f : Fibre) (x : BitVec 16) : Fibre := { f with preds := (x &&& 0xFFFC#16) ||| 1#16 }

/-- The key of the act that last prepared branch-target register n (R299). -/
def Fibre.bkey (f : Fibre) (n : Nat) : Key := ((f.bkeys.find? fun x => x.1 = n).map (·.2)).getD ⟨0, 0, 0⟩

/-- The fibre with branch-target register n prepared for target x by its act of key K (R213, R214). -/
def Fibre.prepare (f : Fibre) (n : Nat) (x : BitVec 57) (k : Key) : Fibre :=
  { f with bregs := setAt f.bregs n ⟨.prepared, x⟩, bkeys := (n, k) :: f.bkeys.filter fun y => y.1 ≠ n }

/-- s i; s0 reads 0 (R96). -/
def sget (p : Warp) (i : Nat) : Word := if i = 0 then 0 else p.sregs.getD i 0

/-- No uniform load has still to write one of the uniform registers named (R42, R160). -/
def schk (p : Warp) (is : List Nat) : Except Stop Unit := if is.any p.uouts.contains then .error (.wait 6) else .ok ()

/-- The pair s i, s i+1 (R96). -/
def sget2 (p : Warp) (i : Nat) : BitVec 64 := pair64 (sget p i) (sget p (i + 1))

/-- Writes s i; a write to s0 is discarded (R94, R96). -/
def sset (p : Warp) (i : Nat) (x : Word) : Warp := if i = 0 then p else { p with sregs := setAt p.sregs i x }

/-- Writes the pair s i, s i+1; the pair s0 writes s1 only (R96). -/
def sset2 (p : Warp) (i : Nat) (x : BitVec 64) : Warp := sset (sset p i (lo32 x)) (i + 1) (hi32 x)

/-! ## Word shapes: operands read, a function applied, the destination written -/

/-- d := g(a) -/
def runV1 (s : State) (gd : Nat) (d a : Nat) (g : Fibre → Word → Fibre × Word) : Host.Outcome State Fault Refusal :=
  runPlain s (some gd) 1 1 fun e => do
    vchk e.f [d, a]
    let x ← vget e.f a
    let r := g e.f x
    .ok (vset r.1 d r.2)

/-- d := g(a, b) -/
def runV2 (s : State) (gd : Nat) (d a b : Nat) (g : Env → Word → Word → Fibre × Word) : Host.Outcome State Fault Refusal :=
  runPlain s (some gd) 1 1 fun e => do
    vchk e.f [d, a, b]
    let x ← vget e.f a
    let y ← vget e.f b
    let r := g e x y
    .ok (vset r.1 d r.2)

/-- d := g(a, b, old d) -/
def runV3 (s : State) (gd : Nat) (d a b : Nat) (g : Env → Word → Word → Word → Fibre × Word) :
    Host.Outcome State Fault Refusal :=
  runPlain s (some gd) 1 1 fun e => do
    vchk e.f [d, a, b]
    let x ← vget e.f a
    let y ← vget e.f b
    let z ← vget e.f d
    let r := g e x y z
    .ok (vset r.1 d r.2)

/-- d := g(a, imm) under the clause guard -/
def runVI (s : State) (d a : Nat) (g : Word → Word) : Host.Outcome State Fault Refusal :=
  runPlain s none 1 1 fun e => do
    vchk e.f [d, a]
    let x ← vget e.f a
    .ok (vset e.f d (g x))

/-- d := g(a, b), without other effects -/
def runInt2 (s : State) (gd : Nat) (d a b : Nat) (g : Word → Word → Word) : Host.Outcome State Fault Refusal :=
  runV2 s gd d a b fun e x y => (e.f, g x y)

/-- d := g(a), without other effects -/
def runInt1 (s : State) (gd : Nat) (d a : Nat) (g : Word → Word) : Host.Outcome State Fault Refusal :=
  runV1 s gd d a fun f x => (f, g x)

/-- A compare of two registers into the predicate pair d (R90). -/
def runCmp (s : State) (gd : Nat) (d a b : Nat) (g : Word → Word → Bool) : Host.Outcome State Fault Refusal :=
  runPlain s (some gd) 1 1 fun e => do
    vchk e.f [a, b]
    let x ← vget e.f a
    let y ← vget e.f b
    .ok (psetPair e.f d (g x y))

/-- A compare of a register with an immediate (R90). -/
def runCmpI (s : State) (d a : Nat) (g : Word → Bool) : Host.Outcome State Fault Refusal :=
  runPlain s none 1 1 fun e => do
    vchk e.f [a]
    let x ← vget e.f a
    .ok (psetPair e.f d (g x))

/-- A long-latency result d := g(a, b) (R46). -/
def runLate2 (s : State) (gd : Nat) (d a b : Nat) (g : Env → Word → Word → Fibre × Word) :
    Host.Outcome State Fault Refusal :=
  runPlain s (some gd) 1 1 fun e => do
    vchk e.f [d, a, b]
    let x ← vget e.f a
    let y ← vget e.f b
    let r := g e x y
    vsetLate r.1 d r.2

/-- A long-latency result d := g(a) (R46). -/
def runLate1 (s : State) (gd : Nat) (d a : Nat) (g : Env → Word → Fibre × Word) : Host.Outcome State Fault Refusal :=
  runPlain s (some gd) 1 1 fun e => do
    vchk e.f [d, a]
    let x ← vget e.f a
    let r := g e x
    vsetLate r.1 d r.2

/-- A 64-bit result on pairs (R85). -/
def runW2 (s : State) (gd : Nat) (d a b : Nat) (g : BitVec 64 → BitVec 64 → BitVec 64) : Host.Outcome State Fault Refusal :=
  runPlain s (some gd) 1 1 fun e => do
    vchk e.f [d, d + 1, a, a + 1, b, b + 1]
    let x ← vget2 e.f a
    let y ← vget2 e.f b
    .ok (vset2 e.f d (g x y))

/-- A predicate operation on predicates a and b into d (R99). -/
def runP2 (s : State) (gd : Nat) (d a b : Nat) (g : Bool → Bool → Bool) : Host.Outcome State Fault Refusal :=
  runPlain s (some gd) 1 1 fun e => .ok (pset1 e.f d (g (e.f.pred a) (e.f.pred b)))

end Sys2Proof.Machine
end

