-- ==== Sys2Proof/Machine/Flags.lean ====
section
/-! DEFINITION. `FFLAGS` (R65): its bits, and the merging of an instruction's flags in program order (R84). The flags of a
long-latency result are merged when it issues, which is program order. -/

namespace Sys2Proof.Machine

/-- Invalid operation. -/
def flagNV : BitVec 6 := 1
/-- Division by zero. -/
def flagDZ : BitVec 6 := 2
/-- Overflow. -/
def flagOF : BitVec 6 := 4
/-- Underflow. -/
def flagUF : BitVec 6 := 8
/-- Inexact. -/
def flagNX : BitVec 6 := 16
/-- Integer saturation. -/
def flagIS : BitVec 6 := 32

/-- Merges flags into `FFLAGS` (R84). -/
def Fibre.flag (f : Fibre) (x : BitVec 6) : Fibre := { f with fflags := f.fflags ||| x }

/-- A flag when a condition holds. -/
def flagWhen (c : Bool) (x : BitVec 6) : BitVec 6 := if c then x else 0

end Sys2Proof.Machine
end

