-- ==== Sys2Proof/Machine/Floats.lean ====
section
/-! DEFINITION. The number formats and their arithmetic (R57 to R68, R102 to R109): decoding to exact dyadic values, one
rounding into a format in each mode with its flags, the stochastic draw (R66), and the exact operations. A finite value is
(-1)^neg * m * 2^e. -/

namespace Sys2Proof.Machine

/-- A binary floating-point format: exponent bits, fraction bits, bias, and whether it has infinities (R58). -/
structure Fmt where
  eb : Nat
  fb : Nat
  bias : Nat
  ieee : Bool
  deriving DecidableEq, Repr

def fp32 : Fmt := ⟨8, 23, 127, true⟩
def fp16 : Fmt := ⟨5, 10, 15, true⟩
def bf16 : Fmt := ⟨8, 7, 127, true⟩
def e4m3 : Fmt := ⟨4, 3, 7, false⟩
def e5m2 : Fmt := ⟨5, 2, 15, true⟩
def e2m1 : Fmt := ⟨2, 1, 1, false⟩

/-- An exact value: NaN with its sign and whether it signals, an infinity, or a finite number. -/
inductive FV where
  | nan (neg sig : Bool)
  | inf (neg : Bool)
  | fin (neg : Bool) (m : Nat) (e : Int)
  deriving DecidableEq, Repr

/-- A result in a format, with the flags it raises. -/
structure FR where
  bits : Nat
  fl : BitVec 6
  deriving DecidableEq, Repr

/-- Width of a format. -/
def Fmt.width (t : Fmt) : Nat := 1 + t.eb + t.fb

/-- The value of a pattern (R58, R60). E4M3's one NaN pattern is quiet; E2M1 has none. -/
def Fmt.value (t : Fmt) (x : Nat) : FV :=
  let neg := decide (x / 2 ^ (t.eb + t.fb) % 2 = 1)
  let e := x / 2 ^ t.fb % 2 ^ t.eb
  let f := x % 2 ^ t.fb
  if e = 2 ^ t.eb - 1 ∧ t.ieee then
    if f = 0 then .inf neg else .nan neg (decide (f / 2 ^ (t.fb - 1) = 0))
  else if ¬ t.ieee ∧ t.fb = 3 ∧ e = 15 ∧ f = 7 then .nan neg false
  else if e = 0 then .fin neg f (1 - (t.bias : Int) - t.fb)
  else .fin neg (2 ^ t.fb + f) ((e : Int) - t.bias - t.fb)

/-- The pattern with a sign. -/
def Fmt.signed (t : Fmt) (neg : Bool) (x : Nat) : Nat := if neg then x + 2 ^ (t.eb + t.fb) else x

/-- The canonical NaN (R59). -/
def Fmt.nan (t : Fmt) : Nat :=
  if t.ieee then (2 ^ t.eb - 1) * 2 ^ t.fb + 2 ^ (t.fb - 1) else 2 ^ (t.eb + t.fb) - 1

/-- Infinity's magnitude pattern. -/
def Fmt.inf (t : Fmt) : Nat := (2 ^ t.eb - 1) * 2 ^ t.fb

/-- The largest finite magnitude's pattern (R59). -/
def Fmt.maxFin (t : Fmt) : Nat := if t.ieee then (2 ^ t.eb - 1) * 2 ^ t.fb - 1 else 2 ^ (t.eb + t.fb) - 2

/-- The largest finite magnitude's significand, and the exponent of its unit (R59, R66). -/
def Fmt.maxSig (t : Fmt) : Nat := if t.ieee then 2 ^ (t.fb + 1) - 1 else 2 ^ (t.fb + 1) - 2
def Fmt.maxExp (t : Fmt) : Int := (2 ^ t.eb - 1 : Nat) - (if t.ieee then 1 else 0 : Int) - t.bias - t.fb

/-- The least exponent of a unit: that of the subnormals. -/
def Fmt.minExp (t : Fmt) : Int := 1 - (t.bias : Int) - t.fb

/-- How a result is rounded: the mode, and the draw of R66 for SR. -/
structure Rnd where
  mode : RMode
  draw : Nat
  deriving DecidableEq, Repr

/-- Round to nearest, ties to even. -/
def rneRnd : Rnd := ⟨.rne, 0⟩

/-- Whether n units and a remainder r of 2^s round away from zero. -/
def Rnd.up (rd : Rnd) (neg : Bool) (n r s : Nat) : Bool :=
  match rd.mode with
  | .rne => decide (2 ^ s < 2 * r ∨ (2 * r = 2 ^ s ∧ n % 2 = 1))
  | .rtz => false
  | .rdn => neg && decide (r ≠ 0)
  | .rup => !neg && decide (r ≠ 0)
  | .sr => decide (rd.draw < r * 2 ^ 32 / 2 ^ s)

/-- m * 2^e in units of 2^q, rounded: the count of units, and whether it is inexact. -/
def roundUnits (rd : Rnd) (neg : Bool) (m : Nat) (e q : Int) : Nat × Bool :=
  if q ≤ e then (m * 2 ^ (e - q).toNat, false)
  else
    let s := (q - e).toNat
    let n := m / 2 ^ s
    let r := m % 2 ^ s
    (if rd.up neg n r s then n + 1 else n, decide (r ≠ 0))

/-- m * 2^e exceeds the largest finite magnitude. -/
def Fmt.beyond (t : Fmt) (m : Nat) (e : Int) : Bool :=
  if t.maxExp ≤ e then decide (t.maxSig < m * 2 ^ (e - t.maxExp).toNat)
  else decide (t.maxSig * 2 ^ (t.maxExp - e).toNat < m)

/-- The result of an overflow: infinity or the largest finite value (R67); E4M3 has only the latter. -/
def Fmt.overflowed (t : Fmt) (rd : Rnd) (neg : Bool) : Nat :=
  let toInf := match rd.mode with
    | .rne => true
    | .rtz => false
    | .rdn => neg
    | .rup => !neg
    | .sr => true
  if t.ieee && toInf then t.signed neg t.inf else t.signed neg t.maxFin

/-- frac32 of R66 for a magnitude beyond the finite range: the excess over the largest finite value in units of the top
binade, at most 1, in 2^-32. -/
def Fmt.topFrac (t : Fmt) (m : Nat) (e : Int) : Nat :=
  let past := if t.maxExp ≤ e then (m * 2 ^ (e - t.maxExp).toNat - t.maxSig) * 2 ^ 32
    else (m - t.maxSig * 2 ^ (t.maxExp - e).toNat) * 2 ^ 32 / 2 ^ (t.maxExp - e).toNat
  min past (2 ^ 32)

/-- The pattern of n units of 2^q, n below 2^(fb + 1) and q at least the least unit, n normal unless q is the least. -/
def Fmt.pack (t : Fmt) (n : Nat) (q : Int) : Nat :=
  if n < 2 ^ t.fb then n else (q - t.minExp + 1).toNat * 2 ^ t.fb + (n - 2 ^ t.fb)

/-- Tiny after rounding (R64): rounded with an unbounded exponent, or for SR as delivered, the magnitude is below the
smallest normal. n units of the least unit is what was delivered. -/
def Fmt.tiny (t : Fmt) (rd : Rnd) (neg : Bool) (m : Nat) (e : Int) (n : Nat) (q : Int) : Bool :=
  match rd.mode with
  | .sr => decide (q = t.minExp ∧ n < 2 ^ t.fb)
  | _ =>
    let x := e + Nat.log2 m
    let r := (roundUnits rd neg m e (x - t.fb)).1
    if 2 ^ (t.fb + 1) ≤ r then decide (x + 1 < t.minExp + t.fb) else decide (x < t.minExp + t.fb)

/-- Rounds the nonzero magnitude m * 2^e into a format, with flags (R64, R66, R67). -/
def Fmt.round (t : Fmt) (rd : Rnd) (neg : Bool) (m : Nat) (e : Int) : FR :=
  if rd.mode = .sr ∧ t.beyond m e then
    if rd.draw < t.topFrac m e then ⟨t.overflowed rd neg, flagOF ||| flagNX⟩ else ⟨t.signed neg t.maxFin, flagNX⟩
  else
    let q := max (e + Nat.log2 m - t.fb) t.minExp
    let r := roundUnits rd neg m e q
    if t.beyond r.1 q then ⟨t.overflowed rd neg, flagOF ||| flagNX⟩
    else
      let n := if r.1 = 2 ^ (t.fb + 1) then 2 ^ t.fb else r.1
      let q' := if r.1 = 2 ^ (t.fb + 1) then q + 1 else q
      ⟨t.signed neg (t.pack n q'), if r.2 then flagNX ||| flagWhen (t.tiny rd neg m e r.1 q) flagUF else 0⟩

/-- A value into a format: NaN gives the canonical NaN (R60). -/
def Fmt.result (t : Fmt) (rd : Rnd) (v : FV) : FR :=
  match v with
  | .nan _ _ => ⟨t.nan, 0⟩
  | .inf neg => ⟨t.signed neg (if t.ieee then t.inf else t.maxFin), 0⟩
  | .fin neg m e => if m = 0 then ⟨t.signed neg 0, 0⟩ else t.round rd neg m e

/-- Adds flags to a result. -/
def FR.add (r : FR) (x : BitVec 6) : FR := ⟨r.bits, r.fl ||| x⟩

def FV.isNan : FV → Bool
  | .nan _ _ => true
  | _ => false
def FV.isSig : FV → Bool
  | .nan _ s => s
  | _ => false
def FV.isInf : FV → Bool
  | .inf _ => true
  | _ => false
def FV.isZero : FV → Bool
  | .fin _ m _ => decide (m = 0)
  | _ => false
def FV.neg : FV → Bool
  | .nan n _ => n
  | .inf n => n
  | .fin n _ _ => n
/-- The value with its sign inverted. -/
def FV.negate : FV → FV
  | .nan n s => .nan (!n) s
  | .inf n => .inf (!n)
  | .fin n m e => .fin (!n) m e

/-- The signed integer that a finite value is in units of 2^q, q at most its exponent. -/
def scaled (neg : Bool) (m : Nat) (e q : Int) : Int :=
  let x : Int := (m * 2 ^ (e - q).toNat : Nat)
  if neg then -x else x

/-- The exact sum of two values that are no NaN, and whether it is invalid. An exact zero of opposite signs is +0, or -0
when rounding down (R64). -/
def FV.plus (rdn : Bool) (a b : FV) : FV × Bool :=
  match a, b with
  | .inf x, .inf y => if x = y then (.inf x, false) else (.nan false false, true)
  | .inf x, _ => (.inf x, false)
  | _, .inf y => (.inf y, false)
  | .fin n m e, .fin n' m' e' =>
    let q := min e e'
    let v := scaled n m e q + scaled n' m' e' q
    if v = 0 then (.fin (if m = 0 ∧ m' = 0 ∧ n = n' then n else rdn) 0 0, false)
    else (.fin (decide (v < 0)) v.natAbs q, false)
  | _, _ => (.nan false false, false)

/-- The exact product of two values that are no NaN, and whether it is invalid. -/
def FV.times (a b : FV) : FV × Bool :=
  match a, b with
  | .fin n m e, .fin n' m' e' => (.fin (n ≠ n') (m * m') (e + e'), false)
  | _, _ => if a.isZero || b.isZero then (.nan false false, true) else (.inf (a.neg ≠ b.neg), false)

/-- An operation of values: NaN operands first (R60, R64), then op. -/
def Fmt.op (t : Fmt) (rd : Rnd) (xs : List FV) (op : FV × Bool) : FR :=
  if xs.any FV.isNan then ⟨t.nan, flagWhen (xs.any FV.isSig) flagNV⟩
  else if op.2 then ⟨t.nan, flagNV⟩
  else t.result rd op.1

/-- Rounding down is in force. -/
def Rnd.down (rd : Rnd) : Bool := decide (rd.mode = .rdn)

def Fmt.addF (t : Fmt) (rd : Rnd) (x y : FV) : FR := t.op rd [x, y] (x.plus rd.down y)
def Fmt.mulF (t : Fmt) (rd : Rnd) (x y : FV) : FR := t.op rd [x, y] (x.times y)

/-- x * y + z with one rounding (R102, R105, R107). inv says whether an infinity times a zero is invalid beside a quiet NaN addend too.
DESIGN CHOICE, safe, log 24. -/
def Fmt.fmaF (t : Fmt) (inv : Bool) (rd : Rnd) (x y z : FV) : FR :=
  let p := x.times y
  let r := t.op rd [x, y, z] (if p.2 then p else p.1.plus rd.down z)
  if !x.isNan && !y.isNan && p.2 && z.isNan && !z.isSig then ⟨r.bits, flagWhen inv flagNV⟩ else r

/-- x < y for values that are no NaN, -0 below +0 when signed zeros are told apart. -/
def FV.ltV (zeros : Bool) (x y : FV) : Bool :=
  match x, y with
  | .inf n, .inf n' => n && !n'
  | .inf n, _ => n
  | _, .inf n' => !n'
  | .fin n m e, .fin n' m' e' =>
    let q := min e e'
    let a := scaled n m e q
    let b := scaled n' m' e' q
    decide (a < b) || (zeros && decide (m = 0) && decide (m' = 0) && n && !n')
  | _, _ => false

/-- Minimum or maximum (R64): the pattern of one operand, or the canonical NaN. -/
def Fmt.minmax (t : Fmt) (isMax : Bool) (a b : Nat) : FR :=
  let x := t.value a
  let y := t.value b
  if x.isNan || y.isNan then ⟨t.nan, flagWhen (x.isSig || y.isSig) flagNV⟩
  else if isMax then ⟨if x.ltV true y then b else a, 0⟩ else ⟨if y.ltV true x then b else a, 0⟩

/-! ## The correctly rounded functions (R64, R103) -/

/-- A magnitude m * 2^e that is not exact but slightly above, for rounding to nearest. DEDUCED, safe, log 23. -/
def stick (m : Nat) (sticky : Bool) : Nat := 4 * m + (if sticky then 1 else 0)

/-- The bits of an integer square root, from bit k downwards. -/
def isqrtBits : Nat → Nat → Nat → Nat
  | 0, x, r => if (r + 1) * (r + 1) ≤ x then r + 1 else r
  | k + 1, x, r => isqrtBits k x (if (r + 2 ^ (k + 1)) * (r + 2 ^ (k + 1)) ≤ x then r + 2 ^ (k + 1) else r)

/-- The integer square root of x below 2^256. -/
def isqrt (x : Nat) : Nat := isqrtBits 128 x 0

/-- a / b for finite nonzero values, rounded to nearest. -/
def divFin (t : Fmt) (neg : Bool) (m : Nat) (e : Int) (m' : Nat) (e' : Int) : FR :=
  let x := m * 2 ^ 64
  t.round rneRnd neg (stick (x / m') (x % m' ≠ 0)) (e - e' - 66)

/-- a / b (R102, R103). -/
def fdivF (x y : FV) : FR :=
  let neg := x.neg != y.neg
  if x.isNan || y.isNan then ⟨fp32.nan, flagWhen (x.isSig || y.isSig) flagNV⟩
  else
    match x, y with
    | .inf _, .inf _ => ⟨fp32.nan, flagNV⟩
    | .inf _, _ => ⟨fp32.signed neg fp32.inf, 0⟩
    | _, .inf _ => ⟨fp32.signed neg 0, 0⟩
    | .fin _ m e, .fin _ m' e' =>
      if m' = 0 then (if m = 0 then ⟨fp32.nan, flagNV⟩ else ⟨fp32.signed neg fp32.inf, flagDZ⟩)
      else if m = 0 then ⟨fp32.signed neg 0, 0⟩
      else divFin fp32 neg m e m' e'
    | _, _ => ⟨fp32.nan, 0⟩

/-- The square root (R102, R103). -/
def fsqrtF (x : FV) : FR :=
  match x with
  | .nan _ s => ⟨fp32.nan, flagWhen s flagNV⟩
  | .inf n => if n then ⟨fp32.nan, flagNV⟩ else ⟨fp32.inf, 0⟩
  | .fin n m e =>
    if m = 0 then ⟨fp32.signed n 0, 0⟩
    else if n then ⟨fp32.nan, flagNV⟩
    else
      let odd := e % 2 = 1
      let x := (if odd then 2 * m else m) * 2 ^ 64
      let e' := if odd then e - 1 else e
      let r := isqrt x
      fp32.round rneRnd false (stick r (r * r ≠ x)) (e' / 2 - 34)

/-- 1 / sqrt x (R102, R103). -/
def frsqF (x : FV) : FR :=
  match x with
  | .nan _ s => ⟨fp32.nan, flagWhen s flagNV⟩
  | .inf n => if n then ⟨fp32.nan, flagNV⟩ else ⟨0, 0⟩
  | .fin n m e =>
    if m = 0 then ⟨fp32.signed n fp32.inf, flagDZ⟩
    else if n then ⟨fp32.nan, flagNV⟩
    else
      let odd := e % 2 = 1
      let m' := if odd then 2 * m else m
      let e' := if odd then e - 1 else e
      let r := isqrt (2 ^ 160 / m')
      fp32.round rneRnd false (stick r (m' * (r * r) ≠ 2 ^ 160)) (- (e' / 2) - 82)

/-- Sum of x^(2k+1) / (2k+1) in units of 2^-256, x2 the square of the argument, p its power. DEDUCED, safe, log 23. -/
def atanhTerms : Nat → Nat → Nat → Nat → Nat
  | 0, _, _, _ => 0
  | n + 1, k, x2, p => p / (2 * k + 1) + atanhTerms n (k + 1) x2 (p * x2 / 2 ^ 256)

/-- 2 * atanh(a / b) in units of 2^-256, a / b at most 1/3. -/
def twoAtanh (a b : Nat) : Nat :=
  let x := a * 2 ^ 256 / b
  2 * atanhTerms 90 0 (x * x / 2 ^ 256) x

/-- ln 2 in units of 2^-256. -/
def ln2Fix : Nat := twoAtanh 1 3

/-- Sum of y^k / k! from k on, in units of 2^-256. DEDUCED, safe, log 23. -/
def expTerms : Nat → Nat → Nat → Nat → Nat
  | 0, _, _, p => p
  | n + 1, k, y, p => p + expTerms n (k + 1) y (p * y / 2 ^ 256 / (k + 1))

/-- 2^x (R102, R103): exact for integers, else from 256 bits after the point, rounded once. DEDUCED, safe, log 23. -/
def fex2F (x : FV) : FR :=
  match x with
  | .nan _ s => ⟨fp32.nan, flagWhen s flagNV⟩
  | .inf n => if n then ⟨0, 0⟩ else ⟨fp32.inf, 0⟩
  | .fin n m e =>
    if m = 0 then ⟨0x3F800000, 0⟩
    else if 9 ≤ e + Nat.log2 m then
      (if n then ⟨0, flagUF ||| flagNX⟩ else ⟨fp32.inf, flagOF ||| flagNX⟩)
    else
      let v := if 0 ≤ e then (m : Int) * 2 ^ e.toNat * 2 ^ 256 else (m : Int) * 2 ^ 256 / 2 ^ (-e).toNat
      let v := if n then -v else v
      let k := v / 2 ^ 256
      let f := (v % 2 ^ 256).toNat
      if f = 0 then fp32.round rneRnd false 1 k
      else fp32.round rneRnd false (stick (expTerms 70 0 (f * ln2Fix / 2 ^ 256) (2 ^ 256)) true) (k - 258)

/-- log2 x (R102, R103): exact for powers of two, else from 256 bits after the point, rounded once. DEDUCED, safe, log 23. -/
def flg2F (x : FV) : FR :=
  match x with
  | .nan _ s => ⟨fp32.nan, flagWhen s flagNV⟩
  | .inf n => if n then ⟨fp32.nan, flagNV⟩ else ⟨fp32.inf, 0⟩
  | .fin n m e =>
    if m = 0 then ⟨fp32.signed true fp32.inf, flagDZ⟩
    else if n then ⟨fp32.nan, flagNV⟩
    else
      let k := e + Nat.log2 m
      let b := 2 ^ Nat.log2 m
      if m = b then
        (if k = 0 then ⟨0, 0⟩ else fp32.round rneRnd (decide (k < 0)) k.natAbs 0)
      else
        let v := k * 2 ^ 256 + (twoAtanh (m - b) (m + b) * 2 ^ 256 / ln2Fix : Nat)
        fp32.round rneRnd (decide (v < 0)) (stick v.natAbs true) (-258)

/-! ## Rounding to integers, and the remaining operations -/

/-- A finite magnitude rounded to an integer: units of 1, and whether it changed (R102, R103, R109). -/
def roundInt (rd : Rnd) (neg : Bool) (m : Nat) (e : Int) : Nat × Bool := roundUnits rd neg m e 0

/-- `frnd` (R103). -/
def frndF (rd : Rnd) (a : Nat) : FR :=
  match fp32.value a with
  | .nan _ s => ⟨fp32.nan, flagWhen s flagNV⟩
  | .inf _ => ⟨a, 0⟩
  | .fin n m e =>
    if m = 0 then ⟨a, 0⟩
    else
      let r := roundInt rd n m e
      if r.1 = 0 then ⟨fp32.signed n 0, flagNX⟩
      else ⟨(fp32.round rneRnd n r.1 0).bits, flagWhen r.2 flagNX⟩

/-- Conversion to an integer within [lo, hi] (R68). -/
def toIntF (rd : Rnd) (lo hi : Int) (x : FV) : Int × BitVec 6 :=
  match x with
  | .nan _ _ => (0, flagNV)
  | .inf n => (if n then lo else hi, flagNV ||| flagIS)
  | .fin n m e =>
    -- beyond 2^40 the value is out of range however it rounds
    if m ≠ 0 ∧ 40 ≤ e + Nat.log2 m then (if n then lo else hi, flagNV ||| flagIS)
    else
      let r := roundInt rd n m e
      let v : Int := if n then -(r.1 : Int) else r.1
      if v < lo then (lo, flagNV ||| flagIS) else if hi < v then (hi, flagNV ||| flagIS) else (v, flagWhen r.2 flagNX)

/-- An integer into a format (R68). -/
def ofIntF (t : Fmt) (rd : Rnd) (v : Int) : FR := if v = 0 then ⟨0, 0⟩ else t.round rd (decide (v < 0)) v.natAbs 0

/-- A narrowing conversion (R67). -/
def Fmt.narrow (t : Fmt) (rd : Rnd) (x : FV) : FR :=
  match x with
  | .nan n s => ⟨if t.ieee then t.nan else t.signed n t.nan, flagWhen s flagNV⟩
  | .inf n => if t.ieee then ⟨t.signed n t.inf, 0⟩ else ⟨t.signed n t.nan, flagNV⟩
  | .fin _ _ _ => t.result rd x

/-- A widening conversion to FP32 (R67, R109): exact, a signalling NaN sets `NV`. -/
def widen (x : FV) : FR := (fp32.result rneRnd x).add (flagWhen x.isSig flagNV)

/-- `fscl` (R102, R105): an exponent beyond any format's range is the same as the bound. DEDUCED, safe, log 23. -/
def fsclF (rd : Rnd) (a b : Word) : FR :=
  match fp32.value a.toNat with
  | .nan _ s => ⟨fp32.nan, flagWhen s flagNV⟩
  | .inf n => ⟨fp32.signed n fp32.inf, 0⟩
  | .fin n m e => if m = 0 then ⟨fp32.signed n 0, 0⟩ else fp32.round rd n m (e + max (-1000) (min 1000 b.toInt))

/-- `fcls` (R104). -/
def fclsF (a : Nat) : Nat :=
  match fp32.value a with
  | .nan _ s => if s then 2 ^ 8 else 2 ^ 9
  | .inf n => if n then 1 else 2 ^ 7
  | .fin n m _ =>
    if m = 0 then (if n then 2 ^ 3 else 2 ^ 4)
    else if m < 2 ^ 23 then (if n then 2 ^ 2 else 2 ^ 5)
    else (if n then 2 ^ 1 else 2 ^ 6)

/-- The product of two values as a term of a sum: NaN where an operand is NaN or an infinity meets a zero, and whether the latter (R108). -/
def dotTerm (x y : FV) : FV × Bool :=
  if x.isNan || y.isNan then (.nan false false, false) else if (x.times y).2 then (.nan false false, true) else ((x.times y).1, false)

/-- `dp2h`, `dp2b`: a0 * b0 + a1 * b1 + d exactly, rounded once; an infinity times a zero and infinities of opposite sign set NV beside a
quiet NaN too (R108). -/
def dp2F (t : Fmt) (rd : Rnd) (a b d : Word) : FR :=
  let a0 := t.value (a.toNat % 2 ^ 16)
  let a1 := t.value (a.toNat / 2 ^ 16)
  let b0 := t.value (b.toNat % 2 ^ 16)
  let b1 := t.value (b.toNat / 2 ^ 16)
  let z := fp32.value d.toNat
  let p0 := dotTerm a0 b0
  let p1 := dotTerm a1 b1
  let ts := [p0.1, p1.1, z]
  let bad := p0.2 || p1.2 || (ts.contains (.inf true) && ts.contains (.inf false))
  if bad || ts.any FV.isNan then ⟨fp32.nan, flagWhen (bad || [a0, a1, b0, b1, z].any FV.isSig) flagNV⟩
  else fp32.result rd ((p0.1.plus rd.down p1.1).1.plus rd.down z).1

/-! ## The stochastic draw (R66) -/

/-- The draw of R66 from SEED, warp id, lane, clock and element index. -/
def drawOf (seed : Word) (warp lane clk e : Nat) : Nat :=
  let x64 : BitVec 64 := (seed.setWidth 64 <<< 32) ^^^ (BitVec.ofNat 64 warp <<< 5) ^^^ BitVec.ofNat 64 lane
  let y64 : BitVec 64 := (BitVec.ofNat 64 clk <<< 1) ^^^ BitVec.ofNat 64 e
  let h := x64 ^^^ (y64 * 0x9C2B4E71D3A506F9#64)
  let h := h ^^^ (h >>> 32)
  let h := h * 0xE5D17A3B2C894F61#64
  let h := h ^^^ (h >>> 29)
  let h := h * 0x6B3F0D9581C7E2AB#64
  let h := h ^^^ (h >>> 32)
  h.toNat % 2 ^ 32

/-- The rounding of element k of an instruction of a fibre: `RMODE`, and the draw for SR (R65, R66). -/
def Env.rnd (e : Env) (k : Nat) : Rnd :=
  ⟨e.f.rmode, if e.f.rmode = .sr then drawOf e.f.seed (warpId e.l e.f.ref) e.f.ref.lane e.f.clk k else 0⟩

end Sys2Proof.Machine
end

