-- ==== Sys2Proof/Machine/Float.lean ====
section
/-! DEFINITION. Floating-point instructions and conversions (R102 to R110). -/

namespace Sys2Proof.Machine

/-- A result's flags merged, and its pattern. -/
def Fibre.put (f : Fibre) (r : FR) : Fibre × Word := (f.flag r.fl, BitVec.ofNat 32 r.bits)

/-- An integer result's flags merged, and its pattern. -/
def Fibre.putInt (f : Fibre) (r : Int × BitVec 6) : Fibre × Word := (f.flag r.2, BitVec.ofInt 32 r.1)

/-- The rounding mode of a code 0 to 4 (R65). -/
def rmodeOf : Nat → RMode
  | 0 => .rne
  | 1 => .rtz
  | 2 => .rdn
  | 3 => .rup
  | _ => .sr

/-- The code of a rounding mode (R65). -/
def rmodeCode : RMode → Nat
  | .rne => 0
  | .rtz => 1
  | .rdn => 2
  | .rup => 3
  | .sr => 4

/-- Half k of a word (R107). -/
def half (x : Word) (k : Nat) : Nat := x.toNat / 2 ^ (16 * k) % 2 ^ 16

/-- Two packed elements of w bits with the union of their flags (R107, R109). -/
def packPair (w : Nat) (x y : FR) : FR := ⟨x.bits + 2 ^ w * y.bits, x.fl ||| y.fl⟩

/-- The packed 16-bit results of elements 0 and 1 (R107). -/
def packed2 (h : Nat → FR) : FR := packPair 16 (h 0) (h 1)

/-- d := g(a) with the rounding context. -/
def runV1E (s : State) (gd : Nat) (d a : Nat) (g : Env → Word → Fibre × Word) : Host.Outcome State Fault Refusal :=
  runPlain s (some gd) 1 1 fun e => do
    vchk e.f [d, a]
    let x ← vget e.f a
    let r := g e x
    .ok (vset r.1 d r.2)

/-- A floating-point compare; quiet says whether a quiet NaN sets `NV` too (R106). -/
def runFCmp (s : State) (gd : Nat) (d a b : Nat) (quiet : Bool) (g : FV → FV → Bool) : Host.Outcome State Fault Refusal :=
  runPlain s (some gd) 1 1 fun e => do
    vchk e.f [a, b]
    let x ← vget e.f a
    let y ← vget e.f b
    let x := fp32.value x.toNat
    let y := fp32.value y.toNat
    let nv := x.isSig || y.isSig || (quiet && (x.isNan || y.isNan))
    .ok (psetPair (e.f.flag (flagWhen nv flagNV)) d (g x y))

/-- `fadd`: a + b (R102). -/
def execFadd (d a b g : Nat) (s : State) : Host.Outcome State Fault Refusal :=
  runV2 s g d a b fun e x y => e.f.put (fp32.addF (e.rnd 0) (fp32.value x.toNat) (fp32.value y.toNat))

/-- `fsub`: a - b (R102). -/
def execFsub (d a b g : Nat) (s : State) : Host.Outcome State Fault Refusal :=
  runV2 s g d a b fun e x y => e.f.put (fp32.addF (e.rnd 0) (fp32.value x.toNat) (fp32.value y.toNat).negate)

/-- `fmul`: a * b (R102). -/
def execFmul (d a b g : Nat) (s : State) : Host.Outcome State Fault Refusal :=
  runV2 s g d a b fun e x y => e.f.put (fp32.mulF (e.rnd 0) (fp32.value x.toNat) (fp32.value y.toNat))

/-- `ffma`: a * b + old d, one rounding (R102, R105). DESIGN CHOICE, safe, log 24. -/
def execFfma (d a b g : Nat) (s : State) : Host.Outcome State Fault Refusal :=
  runV3 s g d a b fun e x y z => e.f.put (fp32.fmaF true (e.rnd 0) (fp32.value x.toNat) (fp32.value y.toNat) (fp32.value z.toNat))

/-- `ffms`: a * b - old d, one rounding (R102, R105). -/
def execFfms (d a b g : Nat) (s : State) : Host.Outcome State Fault Refusal :=
  runV3 s g d a b fun e x y z => e.f.put (fp32.fmaF true (e.rnd 0) (fp32.value x.toNat) (fp32.value y.toNat) (fp32.value z.toNat).negate)

/-- `fmin`: the minimum of R64 (R102). -/
def execFmin (d a b g : Nat) (s : State) : Host.Outcome State Fault Refusal :=
  runV2 s g d a b fun e x y => e.f.put (fp32.minmax false x.toNat y.toNat)

/-- `fmax`: the maximum of R64 (R102). -/
def execFmax (d a b g : Nat) (s : State) : Host.Outcome State Fault Refusal :=
  runV2 s g d a b fun e x y => e.f.put (fp32.minmax true x.toNat y.toNat)

/-- `fabs`: bit 31 cleared; NaN gives the canonical NaN, no flag (R102). -/
def execFabs (d a g : Nat) (s : State) : Host.Outcome State Fault Refusal :=
  runInt1 s g d a fun x => if (fp32.value x.toNat).isNan then 0x7FC00000#32 else x &&& 0x7FFFFFFF#32

/-- `fneg`: bit 31 inverted; NaN gives the canonical NaN, no flag (R102). -/
def execFneg (d a g : Nat) (s : State) : Host.Outcome State Fault Refusal :=
  runInt1 s g d a fun x => if (fp32.value x.toNat).isNan then 0x7FC00000#32 else x ^^^ 0x80000000#32

/-- `fdiv`: a / b, RNE, a long-latency result (R102, R103). -/
def execFdiv (d a b g : Nat) (s : State) : Host.Outcome State Fault Refusal :=
  runLate2 s g d a b fun e x y => e.f.put (fdivF (fp32.value x.toNat) (fp32.value y.toNat))

/-- `fsqrt` (R102, R103), a long-latency result. -/
def execFsqrt (d a g : Nat) (s : State) : Host.Outcome State Fault Refusal :=
  runLate1 s g d a fun e x => e.f.put (fsqrtF (fp32.value x.toNat))

/-- `frcp`: 1 / a (R102, R103), a long-latency result. -/
def execFrcp (d a g : Nat) (s : State) : Host.Outcome State Fault Refusal :=
  runLate1 s g d a fun e x => e.f.put (fdivF (.fin false 1 0) (fp32.value x.toNat))

/-- `frsq`: 1 / sqrt a (R102, R103), a long-latency result. -/
def execFrsq (d a g : Nat) (s : State) : Host.Outcome State Fault Refusal :=
  runLate1 s g d a fun e x => e.f.put (frsqF (fp32.value x.toNat))

/-- `fex2`: 2^a (R102, R103), a long-latency result. -/
def execFex2 (d a g : Nat) (s : State) : Host.Outcome State Fault Refusal :=
  runLate1 s g d a fun e x => e.f.put (fex2F (fp32.value x.toNat))

/-- `flg2`: log2 a (R102, R103), a long-latency result. -/
def execFlg2 (d a g : Nat) (s : State) : Host.Outcome State Fault Refusal :=
  runLate1 s g d a fun e x => e.f.put (flg2F (fp32.value x.toNat))

/-- `frnd`: a rounded to an integral value (R102, R103). -/
def execFrnd (d a g : Nat) (s : State) : Host.Outcome State Fault Refusal :=
  runV1E s g d a fun e x => e.f.put (frndF (e.rnd 0) x.toNat)

/-- `fcls`: the class mask (R104). -/
def execFcls (d a g : Nat) (s : State) : Host.Outcome State Fault Refusal :=
  runInt1 s g d a fun x => BitVec.ofNat 32 (fclsF x.toNat)

/-- `fscl`: a * 2^b, one rounding (R102, R105). -/
def execFscl (d a b g : Nat) (s : State) : Host.Outcome State Fault Refusal :=
  runV2 s g d a b fun e x y => e.f.put (fsclF (e.rnd 0) x y)

/-- `fcmp.eq` (R106). -/
def execFcmpEq (d a b g : Nat) (s : State) : Host.Outcome State Fault Refusal :=
  runFCmp s g d a b false fun x y => !x.ltV false y && !y.ltV false x && !x.isNan && !y.isNan

/-- `fcmp.lt` (R106). -/
def execFcmpLt (d a b g : Nat) (s : State) : Host.Outcome State Fault Refusal :=
  runFCmp s g d a b true fun x y => x.ltV false y && !x.isNan && !y.isNan

/-- `fcmp.le` (R106). -/
def execFcmpLe (d a b g : Nat) (s : State) : Host.Outcome State Fault Refusal :=
  runFCmp s g d a b true fun x y => !y.ltV false x && !x.isNan && !y.isNan

/-- `fcmp.un` (R106). -/
def execFcmpUn (d a b g : Nat) (s : State) : Host.Outcome State Fault Refusal :=
  runFCmp s g d a b false fun x y => x.isNan || y.isNan

/-- `hadd2`: packed FP16 sums (R107). -/
def execHadd2 (d a b g : Nat) (s : State) : Host.Outcome State Fault Refusal :=
  runV2 s g d a b fun e x y => e.f.put (packed2 fun k => fp16.addF (e.rnd k) (fp16.value (half x k)) (fp16.value (half y k)))

/-- `hmul2`: packed FP16 products (R107). -/
def execHmul2 (d a b g : Nat) (s : State) : Host.Outcome State Fault Refusal :=
  runV2 s g d a b fun e x y => e.f.put (packed2 fun k => fp16.mulF (e.rnd k) (fp16.value (half x k)) (fp16.value (half y k)))

/-- `hfma2`: packed FP16 a * b + old d, one rounding (R107). DESIGN CHOICE, safe, log 24. -/
def execHfma2 (d a b g : Nat) (s : State) : Host.Outcome State Fault Refusal :=
  runV3 s g d a b fun e x y z => e.f.put (packed2 fun k => fp16.fmaF Config.fmaInvalid (e.rnd k) (fp16.value (half x k)) (fp16.value (half y k)) (fp16.value (half z k)))

/-- `badd2`: packed BF16 sums (R107). -/
def execBadd2 (d a b g : Nat) (s : State) : Host.Outcome State Fault Refusal :=
  runV2 s g d a b fun e x y => e.f.put (packed2 fun k => bf16.addF (e.rnd k) (bf16.value (half x k)) (bf16.value (half y k)))

/-- `bmul2`: packed BF16 products (R107). -/
def execBmul2 (d a b g : Nat) (s : State) : Host.Outcome State Fault Refusal :=
  runV2 s g d a b fun e x y => e.f.put (packed2 fun k => bf16.mulF (e.rnd k) (bf16.value (half x k)) (bf16.value (half y k)))

/-- `bfma2`: packed BF16 a * b + old d, one rounding (R107). DESIGN CHOICE, safe, log 24. -/
def execBfma2 (d a b g : Nat) (s : State) : Host.Outcome State Fault Refusal :=
  runV3 s g d a b fun e x y z => e.f.put (packed2 fun k => bf16.fmaF Config.fmaInvalid (e.rnd k) (bf16.value (half x k)) (bf16.value (half y k)) (bf16.value (half z k)))

/-- `dp2h`: the FP16 pair product added to d (R108). -/
def execDp2h (d a b g : Nat) (s : State) : Host.Outcome State Fault Refusal :=
  runV3 s g d a b fun e x y z => e.f.put (dp2F fp16 (e.rnd 0) x y z)

/-- `dp2b`: the BF16 pair product added to d (R108). -/
def execDp2b (d a b g : Nat) (s : State) : Host.Outcome State Fault Refusal :=
  runV3 s g d a b fun e x y z => e.f.put (dp2F bf16 (e.rnd 0) x y z)

/-- `cvtfi`: FP32 to INT32 (R68, R109). -/
def execCvtfi (d a g : Nat) (s : State) : Host.Outcome State Fault Refusal :=
  runV1E s g d a fun e x => e.f.putInt (toIntF (e.rnd 0) (-(2 ^ 31)) (2 ^ 31 - 1) (fp32.value x.toNat))

/-- `cvtfu`: FP32 to UINT32 (R68, R109). -/
def execCvtfu (d a g : Nat) (s : State) : Host.Outcome State Fault Refusal :=
  runV1E s g d a fun e x => e.f.putInt (toIntF (e.rnd 0) 0 (2 ^ 32 - 1) (fp32.value x.toNat))

/-- `cvtif`: INT32 to FP32 (R68, R109). -/
def execCvtif (d a g : Nat) (s : State) : Host.Outcome State Fault Refusal :=
  runV1E s g d a fun e x => e.f.put (ofIntF fp32 (e.rnd 0) x.toInt)

/-- `cvtuf`: UINT32 to FP32 (R68, R109). -/
def execCvtuf (d a g : Nat) (s : State) : Host.Outcome State Fault Refusal :=
  runV1E s g d a fun e x => e.f.put (ofIntF fp32 (e.rnd 0) x.toNat)

/-- `cvth`: two FP32 values to packed FP16 (R67, R109). -/
def execCvth (d a b g : Nat) (s : State) : Host.Outcome State Fault Refusal :=
  runV2 s g d a b fun e x y => e.f.put (packPair 16 (fp16.narrow (e.rnd 0) (fp32.value x.toNat)) (fp16.narrow (e.rnd 1) (fp32.value y.toNat)))

/-- `cvtb`: two FP32 values to packed BF16 (R67, R109). -/
def execCvtb (d a b g : Nat) (s : State) : Host.Outcome State Fault Refusal :=
  runV2 s g d a b fun e x y => e.f.put (packPair 16 (bf16.narrow (e.rnd 0) (fp32.value x.toNat)) (bf16.narrow (e.rnd 1) (fp32.value y.toNat)))

/-- `cvte4`: two FP32 values to packed E4M3 (R67, R109). -/
def execCvte4 (d a b g : Nat) (s : State) : Host.Outcome State Fault Refusal :=
  runV2 s g d a b fun e x y => e.f.put (packPair 8 (e4m3.narrow (e.rnd 0) (fp32.value x.toNat)) (e4m3.narrow (e.rnd 1) (fp32.value y.toNat)))

/-- `cvte5`: two FP32 values to packed E5M2 (R67, R109). -/
def execCvte5 (d a b g : Nat) (s : State) : Host.Outcome State Fault Refusal :=
  runV2 s g d a b fun e x y => e.f.put (packPair 8 (e5m2.narrow (e.rnd 0) (fp32.value x.toNat)) (e5m2.narrow (e.rnd 1) (fp32.value y.toNat)))

/-- `cvthl`: FP16 a[15:0] to FP32, exact (R109). -/
def execCvthl (d a g : Nat) (s : State) : Host.Outcome State Fault Refusal :=
  runV1E s g d a fun e x => e.f.put (widen (fp16.value (half x 0)))

/-- `cvthh`: FP16 a[31:16] to FP32, exact (R109). -/
def execCvthh (d a g : Nat) (s : State) : Host.Outcome State Fault Refusal :=
  runV1E s g d a fun e x => e.f.put (widen (fp16.value (half x 1)))

/-- `cvtbl`: BF16 a[15:0] to FP32, exact (R109). -/
def execCvtbl (d a g : Nat) (s : State) : Host.Outcome State Fault Refusal :=
  runV1E s g d a fun e x => e.f.put (widen (bf16.value (half x 0)))

/-- `cvtbh`: BF16 a[31:16] to FP32, exact (R109). -/
def execCvtbh (d a g : Nat) (s : State) : Host.Outcome State Fault Refusal :=
  runV1E s g d a fun e x => e.f.put (widen (bf16.value (half x 1)))

/-- `cvte4f`: E4M3 a[7:0] to FP32, exact (R109). -/
def execCvte4f (d a g : Nat) (s : State) : Host.Outcome State Fault Refusal :=
  runV1E s g d a fun e x => e.f.put (widen (e4m3.value (x.toNat % 2 ^ 8)))

/-- `cvte5f`: E5M2 a[7:0] to FP32, exact (R109). -/
def execCvte5f (d a g : Nat) (s : State) : Host.Outcome State Fault Refusal :=
  runV1E s g d a fun e x => e.f.put (widen (e5m2.value (x.toNat % 2 ^ 8)))

/-- `setrm`: `RMODE` := imm[2:0] (R110). -/
def execSetrm (i : Nat) (s : State) : Host.Outcome State Fault Refusal :=
  runPlain s none 1 1 fun e => .ok { e.f with rmode := rmodeOf (i % 8) }

end Sys2Proof.Machine
end

