-- ==== Sys2Proof/Machine/Access.lean ====
section
/-! DEFINITION. Memory access by fibres (R20, R138 to R144, R157 to R162, R239, R271 to R273, R338): the address map, the
range table, the page walk, the checks in their order, the memory image a view sees, loads as outstanding results, and
stores as pending bytes or direct writes. -/

namespace Sys2Proof.Machine

/-! ## Past a key -/

/-- Fibre g can no longer act with a key at or below K (R147, R183): its next act lies above K, whether it runs, waits for a turn it has
taken, or is excluded with a bound above K's clock. DEDUCED, unsafe, log 11. -/
def State.beyond (s : State) (l : Launch) (k : Key) (g : Fibre) : Bool :=
  match g.st with
  | .turn _ .resume => keyLt k (keyAt l g.ref g.clk)
  | .turn t (.leave c) => keyLt k (keyAt l g.ref (max t c))
  | .turn t (.hsync _ _ c (some u)) => keyLt k (keyAt l g.ref (max (max t u) (c + 1)))
  | .turn t _ => decide (k.clk ≤ t)
  | .atom _ => decide (k.clk ≤ g.clk)
  | .sbwait _ _ c none => decide (k.clk ≤ c)
  | _ => match s.bound? l g with
    | some b => decide (k.clk < b)
    | none => keyLt k (keyAt l g.ref g.clk)

/-- Fibre g cannot act at or below K as an act on a stage barrier or a stream counts it (R183, R197): as `State.beyond`, but a stalled push
whose retry clock is fixed counts with the key of its retry (R204). DEDUCED, unsafe, log 17. -/
def State.actPast (s : State) (l : Launch) (k : Key) (g : Fibre) : Bool :=
  match g.st with
  | .hstall _ _ _ _ t true => keyLt k (keyAt l g.ref t)
  | .turn t (.hstall _ _ _ _ u true) => keyLt k (keyAt l g.ref (max t u))
  | _ => s.beyond l k g

/-- The matrix horizon of fibre g lies above K (R113): as `State.beyond`, a waiter that is excluded counting with the key of its bound. -/
def State.matrixBeyond (s : State) (l : Launch) (k : Key) (g : Fibre) : Bool :=
  match s.bound? l g with
  | some b => keyLt k (keyAt l g.ref b)
  | none => s.beyond l k g

/-- The barrier that a fibre waits for in `sbwait`, with the phase once known. -/
def sbOf (g : Fibre) : Option (Nat × Option Nat) :=
  match g.st with
  | .sbwait a _ _ n => some (a, n)
  | .turn _ (.sbwait a _ _ n) => some (a, n)
  | _ => none

/-- A stage barrier of a workgroup. -/
def Workgroup.bar? (w : Workgroup) (a : Nat) : Option StageBar := w.sbars.find? fun b => b.addr = a

/-- Changes a stage barrier. -/
def Workgroup.updBar (w : Workgroup) (a : Nat) (g : StageBar → StageBar) : Workgroup :=
  { w with sbars := w.sbars.map fun b => if b.addr = a then g b else b }

/-- A fibre that waits in `sbwait`, at a stalled push or in `hsync` can only be released by an act keyed at or above K, so that it goes on
above K: its phase is still open, without an act below K left to apply, or has closed at or above K's clock (R154, R204, R207), given that
no other fibre can act below K. DEDUCED, unsafe, log 14. -/
def State.heldPast (s : State) (k : Key) (g : Fibre) : Bool :=
  match g.st with
  | .hstall _ _ _ _ _ false => true
  | .hsync _ _ _ => true
  | _ => match sbOf g with
    | some (a, some n) => match (s.wg? g.ref.wref).bind fun w => w.bar? a with
      | none => false
      | some b => if n = b.phase then decide (k.clk ≤ b.cp) else b.acts.all fun x => !keyLt x.key k
    | _ => false

/-- A fibre waits at a convergence point. -/
def Fibre.atConv (g : Fibre) : Bool :=
  match g.st with
  | .conv _ => true
  | _ => false

/-- Fibre g, which waits at no convergence point, may still act at or below key K. DEDUCED, unsafe, log 14. -/
def State.mayAct (s : State) (l : Launch) (k : Key) (g : Fibre) : Bool :=
  !g.atConv && !s.actPast l k g && !s.heldPast k g && !(l.draining && match g.st with
    | .parked _ _ => true
    | _ => false)

/-- A decode table as a map from opcodes to native opcodes (R49, R50). -/
def DecTab.look (t : DecTab) (op : Nat) : Option Nat :=
  match t with
  | .native => nativeTable op
  | .loaded ws => if (ws.getD op 0).msb then some ((ws.getD op 0).toNat % 1024) else none

/-- The fibre stands at an `sbinit`, or its word is not known yet: any other word adds to its clock before an `sbinit` of the fibre (R45). -/
def Fibre.atSbinit (g : Fibre) (l : Launch) : Bool :=
  decide (g.words.length ≤ g.widx) || decide (l.dtab.look (g.word.toNat / 2 ^ 22) = some 0x384)

/-- One of the fibres given, of one workgroup, may still execute an `sbinit` with a key below K (R183, R187). One that waits at a convergence point
can only when a fibre that the point waits for may act below K itself; a parked fibre of a launch that drains cannot (R294). DEDUCED, unsafe, log
14. -/
def State.sbinitAmong (s : State) (l : Launch) (k : Key) (fs : List Fibre) : Bool :=
  fs.any fun g => (g.atSbinit l || keyLt (keyAt l g.ref (g.clk + 1)) k) && (s.mayAct l k g || (match g.st with
    | .conv (.elect _ _) => !s.beyond l k g && fs.any (s.mayAct l k)
    | .conv _ => !s.beyond l k g && fs.any fun x => x.ref.warp = g.ref.warp && s.mayAct l k x
    | _ => false))

/-- A fibre of workgroup w other than `self` may still execute an `sbinit` with a key below K. DEDUCED, unsafe, log 14. -/
def State.sbinitBelow (s : State) (l : Launch) (w : WRef) (k : Key) (self : Option FRef) : Bool :=
  s.sbinitAmong l k ((s.wgFibres w).filter fun g => some g.ref ≠ self)

/-- The same for the fibre's own key. DEDUCED, unsafe, log 14. -/
def State.sbinitPending (s : State) (e : Env) : Bool := s.sbinitBelow e.l e.w.ref e.key (some e.f.ref)

/-- The fibre is parked by a fault of its program, after which it goes on only if the host wants it to (R288, R293). -/
def Fibre.failed (f : Fibre) : Bool :=
  match f.st with
  | .parked q _ => decide (1 < q.code ∧ q.code < 0x18)
  | _ => false

/-- The same among the fibres that go on: a load or a store does not wait for one that its own fault has parked. DEDUCED, unsafe, log 62. -/
def State.sbinitComing (s : State) (e : Env) : Bool :=
  s.sbinitAmong e.l e.key ((s.wgFibres e.w.ref).filter fun g => g.ref ≠ e.f.ref && !g.failed)

/-- A word waits in key order: the fibre stands in that wait, and tries the word again (R183). -/
def State.waitKeyed (s : State) (e : Env) : Stop := if e.f.st = .keyed then .wait 14 else .go (s.setF { e.f with st := .keyed })

/-! ## Addresses -/

/-- Why an access is made (R158): watchpoints and permissions look at it. -/
inductive AKind where
  | load | store | atomic | prefetch
  deriving DecidableEq, Repr

/-- Where an address lies (R20): own window, peer window k, global memory by its 57-bit address. -/
inductive Region where
  | own (off : Nat)
  | peer (k off : Nat)
  | glob (va : Nat)
  deriving DecidableEq, Repr

/-- The region of a 64-bit address, none when it lies in no region (R20, R157). -/
def regionOf (ea : BitVec 64) : Option Region :=
  let a := ea.toNat
  if 0xFF00000000000000 ≤ a then some (.glob (a % 2 ^ 57))
  else if 2 ^ 56 ≤ a then none
  else if 0x100000000 ≤ a then some (.glob a)
  else if a < 0x100000 then some (.own a)
  else if 0x1000000 ≤ a ∧ a < 0x1400000 then some (.peer ((a - 0x1000000) / 0x100000) (a % 0x100000))
  else none

/-- The argument window's first address (R239). -/
def argBase : Nat := 0x00FFFFFFFFFF0000

/-- An address of the argument window (R239). -/
def inArgs (va : Nat) : Bool := decide (argBase ≤ va ∧ va < 2 ^ 56)

/-- Byte o of the argument window (R239). -/
def argByte (l : Launch) (o : Nat) : Byte :=
  if o < l.args.length then l.args.getD o 0
  else if 0xFFF0 ≤ o ∧ o < 0xFFF8 then BitVec.ofNat 8 (l.data / 2 ^ (8 * (o - 0xFFF0)))
  else if 0xFFF8 ≤ o ∧ o < 0xFFFC then BitVec.ofNat 8 (l.dataLen / 2 ^ (8 * (o - 0xFFF8)))
  else 0

/-- The class of a global address and its owner (R142, R143, R239). -/
def classOf (l : Launch) (va : Nat) : MClass × Nat :=
  if inArgs va || decide (l.data % 2 ^ 57 ≤ va ∧ va < l.data % 2 ^ 57 + l.dataLen) then (.constant, 0)
  else match l.ranges.find? fun r => decide (r.start ≤ va ∧ va < r.start + r.len * 65536) with
    | some r => (r.cls, r.owner)
    | none => (if l.defOrdered then .ordered else .constant, 0)

/-! ## Translation (R271 to R273) -/

/-- What a walk is for (R273). -/
inductive WKind where
  | read | write | fetch
  deriving DecidableEq, Repr

/-- The index into the table of level lvl (R271). -/
def ixOf (lvl va : Nat) : Nat := va / 2 ^ (16 + 9 * lvl) % 512

/-- The physical byte of a vault-pool offset: vault of the partition's logical quad (R282). -/
def vaultAddr (p : Partition) (o : Nat) : Nat := 2 ^ 52 + p.quads.getD (o / 2 ^ 28) 0 * 2 ^ 28 + o % 2 ^ 28

/-- A physical address in one of the partition's granules of 1 GiB (R270). -/
def inGranules (p : Partition) (a : Nat) : Bool := p.granules.contains (a / 2 ^ 30)

/-- A vault-pool offset in the context's extents of 2 MiB (R283). -/
def inExtents (c : Context) (o : Nat) : Bool := c.extents.any fun x => decide (x.1 ≤ o / 2 ^ 21 ∧ o / 2 ^ 21 < x.1 + x.2)

/-- The walk from a table, over the levels that remain; the error is the cause of R277. -/
def walkFrom (m : Memory) (p : Partition) (c : Context) (va : Nat) (k : WKind) : List Nat → Nat → Except Nat Nat
  | [], _ => .error 1
  | lvl :: rest, t =>
    let e := memNat m (t + 8 * ixOf lvl va) 8
    let leaf := e / 2 % 2 = 1
    let loc := e / 64 % 4
    let addr := e / 2 ^ 12 % 2 ^ 40 * 2 ^ 12
    let size := 2 ^ (16 + 9 * lvl)
    if e % 2 = 0 then .error 0
    else if e / 2 ^ 52 ≠ 0 ∨ e / 256 % 16 ≠ 0 ∨ e / 16 % 4 ≠ 0 ∨ (leaf ∧ 2 < lvl) ∨ (¬ leaf ∧ lvl = 0)
        ∨ (leaf ∧ 1 < loc) ∨ (¬ leaf ∧ loc ≠ 0) ∨ (leaf ∧ addr % size ≠ 0) then .error 1
    else if leaf then
      let pa := addr + va % size
      if loc = 0 ∧ ¬ inGranules p pa then .error 2
      else if loc = 1 ∧ ¬ inExtents c pa then .error 3
      else if k = .write ∧ e / 4 % 2 = 0 then .error 4
      else if k = .fetch ∧ e / 8 % 2 = 0 then .error 5
      else .ok (if loc = 0 then pa else vaultAddr p pa)
    else if ¬ inGranules p addr then .error 2
    else walkFrom m p c va k rest addr

/-- Translates a global address of a launch (R271, R273). -/
def State.translate (s : State) (l : Launch) (va : Nat) (k : WKind) : Except Nat Nat :=
  match s.part? l.part, s.ctxOf? l with
  | some p, some c => walkFrom s.mem p c va k [4, 3, 2, 1, 0] c.root
  | _, _ => .error 0

/-! ## The memory image -/

/-- The byte stored at a location, without unapplied publications. -/
def State.baseByte (s : State) (l : LRef) (x : Loc) : Byte :=
  match x with
  | .phys a => memGet s.mem a
  | .spad n o => match s.wg? ⟨l, n⟩ with
    | some w => memGet w.spad o
    | none => 0
  | .desc n o => match s.wg? ⟨l, n⟩ with
    | some w => memGet w.desc o
    | none => 0

/-- Keeps the value that a launch overwrites at a physical address, latest first. -/
def keepOld (m : Memory) (a : Nat) (l : Launch) : Launch := { l with old := (a, memGet m a) :: l.old }

/-- The Press clears the code digests for which it reached the page of a written address; a watched page is taken to be 64 KiB of physical
address, whatever the size of the leaf that maps the code (R262). DESIGN CHOICE, safe, log 31. -/
def Partition.codeTouched (a : Nat) (p : Partition) : Partition :=
  { p with pressCode := p.pressCode.filter fun x => !x.phys.any fun c => c / 65536 = a / 65536 }

/-- A page-table update of a context clears its digests: its code may lie elsewhere (R262). DEDUCED, safe, log 31. -/
def Partition.codeMoved (c : Nat) (p : Partition) : Partition := { p with pressCode := p.pressCode.filter fun x => x.ctx ≠ c }

/-- A launch writes to a physical address: its partition's Press looks at the page (R262). -/
def State.touched (s : State) (l : LRef) (a : Nat) : State :=
  match s.launch? l with
  | some x => s.updP x.part (Partition.codeTouched a)
  | none => s

/-- Writes the byte stored at a location, for a launch; its initial image keeps the byte there was (R26, R138). -/
def State.putByte (s : State) (l : LRef) (x : Loc) (b : Byte) : State :=
  match x with
  | .phys a => { (s.touched l a).updL l (keepOld s.mem a) with mem := memSet s.mem a b }
  | .spad n o => s.updW ⟨l, n⟩ fun w => { w with spad := memSet w.spad o b }
  | .desc n o => s.updW ⟨l, n⟩ fun w => { w with desc := memSet w.desc o b }

/-- A byte under a publication of it (R138, R178). -/
def applyPub (x : Loc) (old : Byte) (p : Pub) : Byte :=
  p.bytes.foldl (fun b y => if y.loc = x then (b &&& ~~~y.mask) ||| (y.val &&& y.mask) else b) old

/-- M(V) at a location (R138): the stored byte under the unapplied publications of clock below V. -/
def State.imageAt (s : State) (l : Launch) (v : Nat) (x : Loc) : Byte :=
  (l.pubs.filter fun p => p.key.clk < v).foldl (applyPub x) (s.baseByte l.ref x)

/-- The value formed by every publication with a key below K, and those at K of a rank below r (R139, R140). -/
def State.valueAt (s : State) (l : Launch) (k : Key) (r : Nat) (x : Loc) : Byte :=
  (l.pubs.filter fun p => keyLt p.key k || (decide (p.key = k) && decide (p.rank < r))).foldl (applyPub x) (s.baseByte l.ref x)

/-- The bytes a fibre itself supplies to its loads: its pending stores over its own latest publication (R138). -/
def Fibre.ownBytes (f : Fibre) : List (Loc × Byte) :=
  f.pend.map (fun b => (b.loc, b.val)) ++ (if f.ownClk = f.view then f.ownPub else [])

/-- What a read at the fibre's key needs to read later as it would now (R115, R153). -/
def Env.rd (e : Env) : Rd := ⟨e.key, e.f.view, e.f.ownBytes⟩

/-- A location within a stage barrier that is live at key K reads 0 (R182). -/
def State.shielded (s : State) (l : LRef) (k : Key) (x : Loc) : Bool :=
  match x with
  | .spad n o => match s.wg? ⟨l, n⟩ with
    | some w => w.sbars.any fun b => keyLt b.made k && decide (b.addr ≤ o ∧ o < b.addr + 64)
    | none => false
  | _ => false

/-- One byte as a load of the recorded context reads it (R138, R153, R182). -/
def State.readRd (s : State) (l : Launch) (rd : Rd) (x : Loc) : Byte :=
  if s.shielded l.ref rd.key x then 0
  else match rd.own.find? fun y => y.1 = x with
    | some y => y.2
    | none => s.imageAt l rd.view x

/-! ## The checks of an access (R158) -/

/-- A checked access: its class, its locations in address order, the address its stores count under in the footprint
(R135), and the value of its bytes where they lie in the argument window. -/
structure Acc where
  cls : MClass
  locs : List Loc
  addr : Nat
  args : Option (List Byte)
  deriving DecidableEq, Repr

/-- The number of bytes of a workgroup's scratchpad (R17). -/
def Launch.spadLen (l : Launch) : Nat := l.scratch * 256

/-- The n locations of scratchpad bytes from offset o of workgroup w. -/
def spadLocs (w o n : Nat) : List Loc := (List.range n).map fun k => .spad w (o + k)

/-- The n physical locations from a. -/
def physLocs (a n : Nat) : List Loc := (List.range n).map fun k => .phys (a + k)

/-- Member k of the gang is gone, or absent, for an access at key K (R12, R150). -/
def State.peerGone (s : State) (l : Launch) (n : Nat) (k : Key) : Bool :=
  match l.exits.find? fun x => x.1 = n with
  | some x => keyLt x.2 k
  | none => (s.wg? ⟨l.ref, n⟩).isNone

/-- The linear index of member k of the workgroup's gang. -/
def memberIdx (w k : Nat) : Nat := w / 4 * 4 + k

/-- A watchpoint catches an access of kind k to n bytes at offset o of workgroup w's scratchpad (R338). -/
def State.watched (s : State) (e : Env) (k : AKind) (w o n : Nat) : Bool :=
  !e.f.suppress && match s.part? e.l.part with
    | none => false
    | some p => p.watches.any fun x =>
        (match k with
          | .load => x.onLoad
          | .store => x.onStore
          | .atomic => x.onStore
          | .prefetch => false)
        && x.mask.getLsbD e.f.ref.lane && (x.wg = none || x.wg = some w) && decide (x.start < o + n ∧ o < x.start + x.len)

/-- A fibre store or atomic to bytes of a live stage barrier (R182). -/
def State.hitsBarrier (s : State) (e : Env) (w o n : Nat) : Option Nat :=
  match s.wg? ⟨e.l.ref, w⟩ with
  | none => none
  | some x => (x.sbars.find? fun b => keyLt b.made e.key && decide (b.addr < o + n ∧ o < b.addr + 64)).map (·.addr)

/-- A scratchpad access to workgroup w, in order: bound, barrier, watchpoint (R158, R182, R338). addr is the address that
counts in the footprint. An access to the own workgroup waits until the stage barriers live at its key are known; one that is no atomic does not
wait for a fibre that has failed to make one. DEDUCED, unsafe, log 62. -/
def State.spadAccess (s : State) (e : Env) (ea : BitVec 64) (w o size addr : Nat) (k : AKind) : Except Stop Acc :=
  if e.l.spadLen < o + size then .error (.fault 0x04 0 ea)
  else match (if k = .store ∨ k = .atomic then s.hitsBarrier e w o size else none) with
    | some b => .error (.fault 0x14 0 (BitVec.ofNat 64 b))
    | none =>
      if w = e.w.ref.wg ∧ (if k = .atomic then s.sbinitPending e else s.sbinitComing e) then .error (s.waitKeyed e)
      else if s.watched e k w o size then .error (.fault 0x1B 0 ea)
      else .ok ⟨.ordered, spadLocs w o size, addr, none⟩

/-- The class check of a global access (R144): the cause of its fault, if any. -/
def classFault (e : Env) (k : AKind) (va : Nat) : Option Nat :=
  match classOf e.l va with
  | (.constant, _) => if k = .store ∨ k = .atomic then some 0 else none
  | (.exclusive, o) => if o = e.w.ref.wg then none else some 1
  | (.ordered, _) => if e.l.order then none else some 2

/-- The walks an access needs: an atomic checks both read and write (R273). -/
def State.translateFor (s : State) (l : Launch) (va : Nat) (k : AKind) : Except Nat Nat :=
  match k with
  | .load => s.translate l va .read
  | .prefetch => s.translate l va .read
  | .store => s.translate l va .write
  | .atomic => match s.translate l va .read with
    | .error c => .error c
    | .ok _ => s.translate l va .write

/-- The checks of R158 in their order. A peer access first waits (R147), and a direct access to an Exclusive page does so
once it has been checked. align is the alignment required, 1 for none. -/
def State.access (s : State) (e : Env) (ea : BitVec 64) (size align : Nat) (k : AKind) : Except Stop Acc :=
  match regionOf ea with
  | none => .error (.fault 0x02 0 ea)
  | some r =>
    if ea.toNat % align ≠ 0 then .error (.fault 0x03 0 ea)
    else match r with
      | .own o => s.spadAccess e ea e.w.ref.wg o size o k
      | .peer m o =>
        if ¬ e.l.gang then .error (.fault 0x02 0 ea)
        else if memberIdx e.w.ref.wg m = e.w.ref.wg then s.spadAccess e ea e.w.ref.wg o size o k
        else if ¬ e.f.peers.contains m then .error (.go (s.setF { e.f with st := .peer m }))
        else if s.peerGone e.l (memberIdx e.w.ref.wg m) e.key then .error (.fault 0x05 0 ea)
        else s.spadAccess e ea (memberIdx e.w.ref.wg m) o size ea.toNat k
      | .glob va =>
        match classFault e k va with
        | some c => .error (.fault 0x06 c ea)
        | none =>
          if inArgs va then
            .ok ⟨.constant, [], ea.toNat, some ((List.range size).map fun n => argByte e.l (va - argBase + n))⟩
          else match s.translateFor e.l va k with
            | .error c => .error (.fault 0x01 c ea)
            | .ok pa =>
              if (classOf e.l va).1 = .exclusive ∧ k ≠ .prefetch ∧ k ≠ .atomic ∧ ¬ e.f.pass then
                .error (.go (s.setF { e.f with st := .excl }))
              else .ok ⟨(classOf e.l va).1, physLocs pa size, ea.toNat, none⟩

/-! ## Loads and stores -/

/-- Vault cache hits, misses and HBM bytes of an access to global memory; how many, is timing (R341). DEDUCED, safe, log 46. -/
def State.countCache (s : State) (p : Nat) : State :=
  let c := Config.cacheEvents s.tick
  ((s.count p 12 c.1).count p 13 c.2.1).count p 14 c.2.2

/-- The words of a loaded value: a narrow one extended to 32 bits, wider ones word by word (R161). -/
def loadWords (size : Nat) (sext : Bool) (bs : List Byte) : List Word :=
  if size < 4 then [if sext then BitVec.ofInt 32 (sx (8 * size) (ofBytes bs)) else BitVec.ofNat 32 (ofBytes bs)]
  else (List.range (size / 4)).map fun k => BitVec.ofNat 32 (ofBytes ((bs.drop (4 * k)).take 4))

/-- A load of size bytes into v d and the registers after it: it becomes an outstanding result; the bytes of a direct access
are read now, Ordered ones when they may be (R141, R161). -/
def State.load (s : State) (e : Env) (f : Fibre) (d size : Nat) (sext : Bool) (ea : BitVec 64) : Except Stop Fibre := do
  let acc ← s.access e ea size size .load
  let vals := match acc.args, acc.cls with
    | some bs, _ => some (loadWords size sext bs)
    | none, .ordered => none
    | none, .constant => some (loadWords size sext (acc.locs.map (s.baseByte e.l.ref)))
    | none, .exclusive => some (loadWords size sext (acc.locs.map (s.baseByte e.l.ref)))
  addOut f { kind := .load, dst := f.dsts d (max 1 (size / 4)), token := f.setTok, key := e.key, addr := ea.toNat,
             size := size, sext := sext, vals := vals, rd := e.rd, locs := acc.locs }

/-- An early turn (R135): the fibre's clock is raised to the next boundary, where it turns; then the word executes. -/
def State.earlyTurn (s : State) (e : Env) : Stop :=
  let b := nextB e.l.q e.f.clk
  if clockTop ≤ b then .fault 0x0A 0 0
  else .go ((s.turnAt e.l { e.f with clk := b, pass := false, peers := [] } b .resume).count e.l.part 4 1)

/-- Bytes become pending under the footprint addresses from addr on; when the footprint would exceed 128 sectors the fibre
first takes an early turn (R135, R137). -/
def State.pendBytesAt (s : State) (e : Env) (locs : List Loc) (addr : Nat) (bs : List Byte) : Except Stop Fibre :=
  let new := ((locs.zip bs).zip (List.range bs.length)).map fun x => (⟨addr + x.2, x.1.1, x.1.2⟩ : PByte)
  let pend := new.foldl putPend e.f.pend
  if 128 < footprint pend then .error (s.earlyTurn e) else .ok { e.f with pend := pend }

/-- A store of bytes (R162): Ordered bytes become pending, Exclusive ones are written directly. -/
def State.store (s : State) (e : Env) (ea : BitVec 64) (bs : List Byte) : Except Stop (State × Fibre) := do
  let acc ← s.access e ea bs.length bs.length .store
  match acc.cls with
  | .ordered => do
    let f ← s.pendBytesAt e acc.locs acc.addr bs
    .ok (s, f)
  | _ => .ok (((acc.locs.zip bs).foldl (fun t x => t.putByte e.l.ref x.1 x.2) s).countCache e.l.part, e.f)

end Sys2Proof.Machine
end

