-- ==== Sys2Proof/Machine/Integer.lean ====
section
/-! DEFINITION. Integer instructions, moves of immediates, and integer compares (R85 to R90, R69). -/

namespace Sys2Proof.Machine

/-- Shift left by n of 0 to 63 (R85). -/
def shlW (x : Word) (n : Nat) : Word := if n < 32 then x <<< n else 0

/-- Shift right by n of 0 to 63 (R85). -/
def shrW (x : Word) (n : Nat) : Word := if n < 32 then x >>> n else 0

/-- Arithmetic shift right by n of 0 to 63 (R85). -/
def sarW (x : Word) (n : Nat) : Word := if n < 32 then x.sshiftRight n else if x.msb then 0xFFFFFFFF#32 else 0

/-- A clamped signed result, with `IS` when it was clamped (R85). -/
def clampInt (f : Fibre) (v : Int) : Fibre × Word :=
  if v < -(2 ^ 31) then (f.flag flagIS, 0x80000000#32)
  else if 2 ^ 31 - 1 < v then (f.flag flagIS, 0x7FFFFFFF#32)
  else (f, BitVec.ofInt 32 v)

/-- Leading zero bits, 32 for 0 (R85). -/
def clzW (x : Word) : Nat := if x = 0 then 32 else 31 - Nat.log2 x.toNat

/-- One bits (R85). -/
def popcW (x : Word) : Nat := ((List.range 32).filter fun k => x.getLsbD k).length

/-- Bit reversal (R85). -/
def brevW (x : Word) : Word :=
  (List.range 32).foldl (fun r k => if x.getLsbD k then r ||| (1#32 <<< (31 - k)) else r) 0

/-- `bfe` (R86). -/
def bfeW (a b : Word) : Word :=
  let pos := b.toNat % 64
  let len := bits b.toNat 13 8
  let field := a.toNat / 2 ^ pos % 2 ^ len
  if b.getLsbD 16 ∧ 0 < len ∧ field / 2 ^ (len - 1) = 1 then BitVec.ofInt 32 ((field : Int) - 2 ^ len)
  else BitVec.ofNat 32 field

/-- `bfi`: bits of a at or above 32 read as 0 (R86). -/
def bfiW (a b t : Word) : Word :=
  let pos := b.toNat % 64
  let len := bits b.toNat 13 8
  let mask := BitVec.ofNat 32 ((2 ^ len - 1) * 2 ^ pos)
  (t &&& ~~~mask) ||| (BitVec.ofNat 32 (a.toNat % 2 ^ len * 2 ^ pos) &&& mask)

/-- Byte j of a word as a signed number. -/
def sbyte (x : Word) (j : Nat) : Int := sx 8 (x.toNat / 2 ^ (8 * j))

/-- `dp4a` (R86). -/
def dp4aW (a b t : Word) : Word :=
  t + BitVec.ofInt 32 ((List.range 4).foldl (fun r j => r + sbyte a j * sbyte b j) 0)

/-- Unsigned quotient; 0xFFFF_FFFF for divisor 0 (R69). -/
def divuW (a b : Word) : Word := if b = 0 then 0xFFFFFFFF#32 else a / b

/-- Unsigned remainder; the dividend for divisor 0 (R69). -/
def remuW (a b : Word) : Word := if b = 0 then a else a % b

/-- Signed quotient truncated toward zero; -2^31 by -1 gives -2^31 (R69). -/
def divW (a b : Word) : Word := if b = 0 then 0xFFFFFFFF#32 else BitVec.ofInt 32 (a.toInt.tdiv b.toInt)

/-- Signed remainder with the sign of the dividend (R69). -/
def remW (a b : Word) : Word := if b = 0 then a else BitVec.ofInt 32 (a.toInt.tmod b.toInt)

/-- `add`: d := (a + b) mod 2^32 (R85). -/
def execAdd (d a b g : Nat) (s : State) : Host.Outcome State Fault Refusal :=
  runInt2 s g d a b fun x y => x + y

/-- `sub`: d := (a - b) mod 2^32 (R85). -/
def execSub (d a b g : Nat) (s : State) : Host.Outcome State Fault Refusal :=
  runInt2 s g d a b fun x y => x - y

/-- `mul`: d := (a * b) mod 2^32 (R85). -/
def execMul (d a b g : Nat) (s : State) : Host.Outcome State Fault Refusal :=
  runInt2 s g d a b fun x y => x * y

/-- `mulh`: d := bits [63:32] of the signed product (R85). -/
def execMulh (d a b g : Nat) (s : State) : Host.Outcome State Fault Refusal :=
  runInt2 s g d a b fun x y => BitVec.ofInt 32 (x.toInt * y.toInt / 2 ^ 32)

/-- `mulhu`: d := bits [63:32] of the unsigned product (R85). -/
def execMulhu (d a b g : Nat) (s : State) : Host.Outcome State Fault Refusal :=
  runInt2 s g d a b fun x y => BitVec.ofNat 32 (x.toNat * y.toNat / 2 ^ 32)

/-- `mad`: d := (a * b + old d) mod 2^32 (R85). -/
def execMad (d a b g : Nat) (s : State) : Host.Outcome State Fault Refusal :=
  runV3 s g d a b fun e x y z => (e.f, x * y + z)

/-- `and`: d := a and b (R85). -/
def execAnd (d a b g : Nat) (s : State) : Host.Outcome State Fault Refusal :=
  runInt2 s g d a b fun x y => x &&& y

/-- `or`: d := a or b (R85). -/
def execOr (d a b g : Nat) (s : State) : Host.Outcome State Fault Refusal :=
  runInt2 s g d a b fun x y => x ||| y

/-- `xor`: d := a xor b (R85). -/
def execXor (d a b g : Nat) (s : State) : Host.Outcome State Fault Refusal :=
  runInt2 s g d a b fun x y => x ^^^ y

/-- `shl`: d := a shifted left by b[5:0] (R85). -/
def execShl (d a b g : Nat) (s : State) : Host.Outcome State Fault Refusal :=
  runInt2 s g d a b fun x y => shlW x (y.toNat % 64)

/-- `shr`: d := a shifted right by b[5:0] (R85). -/
def execShr (d a b g : Nat) (s : State) : Host.Outcome State Fault Refusal :=
  runInt2 s g d a b fun x y => shrW x (y.toNat % 64)

/-- `sar`: d := a shifted right by b[5:0], with its sign (R85). -/
def execSar (d a b g : Nat) (s : State) : Host.Outcome State Fault Refusal :=
  runInt2 s g d a b fun x y => sarW x (y.toNat % 64)

/-- `min`: d := the signed minimum (R85). -/
def execMin (d a b g : Nat) (s : State) : Host.Outcome State Fault Refusal :=
  runInt2 s g d a b fun x y => if x.slt y then x else y

/-- `max`: d := the signed maximum (R85). -/
def execMax (d a b g : Nat) (s : State) : Host.Outcome State Fault Refusal :=
  runInt2 s g d a b fun x y => if x.slt y then y else x

/-- `minu`: d := the unsigned minimum (R85). -/
def execMinu (d a b g : Nat) (s : State) : Host.Outcome State Fault Refusal :=
  runInt2 s g d a b fun x y => if x.ult y then x else y

/-- `maxu`: d := the unsigned maximum (R85). -/
def execMaxu (d a b g : Nat) (s : State) : Host.Outcome State Fault Refusal :=
  runInt2 s g d a b fun x y => if x.ult y then y else x

/-- `adds`: the signed sum, clamped, `IS` when clamped (R85). -/
def execAdds (d a b g : Nat) (s : State) : Host.Outcome State Fault Refusal :=
  runV2 s g d a b fun e x y => clampInt e.f (x.toInt + y.toInt)

/-- `subs`: the signed difference, clamped, `IS` when clamped (R85). -/
def execSubs (d a b g : Nat) (s : State) : Host.Outcome State Fault Refusal :=
  runV2 s g d a b fun e x y => clampInt e.f (x.toInt - y.toInt)

/-- `abs`: d := |sext(a)| mod 2^32 (R85). -/
def execAbs (d a g : Nat) (s : State) : Host.Outcome State Fault Refusal :=
  runInt1 s g d a fun x => if x.msb then 0 - x else x

/-- `neg`: d := (0 - a) mod 2^32 (R85). -/
def execNeg (d a g : Nat) (s : State) : Host.Outcome State Fault Refusal :=
  runInt1 s g d a fun x => 0 - x

/-- `clz`: d := the number of leading zero bits (R85). -/
def execClz (d a g : Nat) (s : State) : Host.Outcome State Fault Refusal :=
  runInt1 s g d a fun x => BitVec.ofNat 32 (clzW x)

/-- `popc`: d := the number of one bits (R85). -/
def execPopc (d a g : Nat) (s : State) : Host.Outcome State Fault Refusal :=
  runInt1 s g d a fun x => BitVec.ofNat 32 (popcW x)

/-- `brev`: d := the bits of a in reverse order (R85). -/
def execBrev (d a g : Nat) (s : State) : Host.Outcome State Fault Refusal :=
  runInt1 s g d a fun x => brevW x

/-- `bfe`: d := a field of a (R86). -/
def execBfe (d a b g : Nat) (s : State) : Host.Outcome State Fault Refusal :=
  runInt2 s g d a b fun x y => bfeW x y

/-- `bfi`: the low bits of a inserted into d (R86). -/
def execBfi (d a b g : Nat) (s : State) : Host.Outcome State Fault Refusal :=
  runV3 s g d a b fun e x y z => (e.f, bfiW x y z)

/-- `sel`: a when predicate p is 1, else b, under the clause guard (R87). -/
def execSel (d a b p : Nat) (s : State) : Host.Outcome State Fault Refusal :=
  runPlain s none 1 1 fun e => do
    vchk e.f [d, a, b]
    let x ← vget e.f a
    let y ← vget e.f b
    .ok (vset e.f d (if e.f.pred p then x else y))

/-- `div`: the signed quotient (R69), a long-latency result. -/
def execDiv (d a b g : Nat) (s : State) : Host.Outcome State Fault Refusal :=
  runLate2 s g d a b fun e x y => (e.f, divW x y)

/-- `divu`: the unsigned quotient (R69), a long-latency result. -/
def execDivu (d a b g : Nat) (s : State) : Host.Outcome State Fault Refusal :=
  runLate2 s g d a b fun e x y => (e.f, divuW x y)

/-- `rem`: the signed remainder (R69), a long-latency result. -/
def execRem (d a b g : Nat) (s : State) : Host.Outcome State Fault Refusal :=
  runLate2 s g d a b fun e x y => (e.f, remW x y)

/-- `remu`: the unsigned remainder (R69), a long-latency result. -/
def execRemu (d a b g : Nat) (s : State) : Host.Outcome State Fault Refusal :=
  runLate2 s g d a b fun e x y => (e.f, remuW x y)

/-- `addw`: (a + b) mod 2^64 on pairs (R85). -/
def execAddw (d a b g : Nat) (s : State) : Host.Outcome State Fault Refusal :=
  runW2 s g d a b fun x y => x + y

/-- `subw`: (a - b) mod 2^64 on pairs (R85). -/
def execSubw (d a b g : Nat) (s : State) : Host.Outcome State Fault Refusal :=
  runW2 s g d a b fun x y => x - y

/-- `shlw`: the pair a shifted left by b[5:0] (R85). -/
def execShlw (d a b g : Nat) (s : State) : Host.Outcome State Fault Refusal :=
  runPlain s (some g) 1 1 fun e => do
    vchk e.f [d, d + 1, a, a + 1, b]
    let x ← vget2 e.f a
    let y ← vget e.f b
    .ok (vset2 e.f d (x <<< (y.toNat % 64)))

/-- `mov`: d := a (R85). -/
def execMov (d a g : Nat) (s : State) : Host.Outcome State Fault Refusal :=
  runInt1 s g d a fun x => x

/-- `dp4a`: four signed byte products added to d (R86). -/
def execDp4a (d a b g : Nat) (s : State) : Host.Outcome State Fault Refusal :=
  runV3 s g d a b fun e x y z => (e.f, dp4aW x y z)

/-- `addi`: d := (a + sext(imm)) mod 2^32 (R88). -/
def execAddi (d a i : Nat) (s : State) : Host.Outcome State Fault Refusal :=
  runVI s d a fun x => x + imm32 i

/-- `andi`: d := a and zext(imm) (R88). -/
def execAndi (d a i : Nat) (s : State) : Host.Outcome State Fault Refusal :=
  runVI s d a fun x => x &&& BitVec.ofNat 32 i

/-- `ori`: d := a or zext(imm) (R88). -/
def execOri (d a i : Nat) (s : State) : Host.Outcome State Fault Refusal :=
  runVI s d a fun x => x ||| BitVec.ofNat 32 i

/-- `xori`: d := a xor zext(imm) (R88). -/
def execXori (d a i : Nat) (s : State) : Host.Outcome State Fault Refusal :=
  runVI s d a fun x => x ^^^ BitVec.ofNat 32 i

/-- `shli`: d := a shifted left by imm[5:0] (R88). -/
def execShli (d a i : Nat) (s : State) : Host.Outcome State Fault Refusal :=
  runVI s d a fun x => shlW x (i % 64)

/-- `shri`: d := a shifted right by imm[5:0] (R88). -/
def execShri (d a i : Nat) (s : State) : Host.Outcome State Fault Refusal :=
  runVI s d a fun x => shrW x (i % 64)

/-- `sari`: d := a shifted right by imm[5:0], with its sign (R88). -/
def execSari (d a i : Nat) (s : State) : Host.Outcome State Fault Refusal :=
  runVI s d a fun x => sarW x (i % 64)

/-- `muli`: d := (a * sext(imm)) mod 2^32 (R88). -/
def execMuli (d a i : Nat) (s : State) : Host.Outcome State Fault Refusal :=
  runVI s d a fun x => x * imm32 i

/-- `addwi`: (a + sext(imm)) mod 2^64 on pairs (R88). -/
def execAddwi (d a i : Nat) (s : State) : Host.Outcome State Fault Refusal :=
  runPlain s none 1 1 fun e => do
    vchk e.f [d, d + 1, a, a + 1]
    let x ← vget2 e.f a
    .ok (vset2 e.f d (x + imm64 i))

/-- `movi`: d := sext(imm) (R88). -/
def execMovi (d i : Nat) (s : State) : Host.Outcome State Fault Refusal :=
  runPlain s none 1 1 fun e => do
    vchk e.f [d]
    .ok (vset e.f d (imm32 i))

/-- `li`: d := the literal; two words of weight 2 (R89). -/
def execLi (d g : Nat) (lit : Word) (s : State) : Host.Outcome State Fault Refusal :=
  runPlain s (some g) 2 2 fun e => do
    vchk e.f [d]
    .ok (vset e.f d lit)

/-- `icmp.eq`: the result and its complement into predicate pair d (R90). -/
def execIcmpEq (d a b g : Nat) (s : State) : Host.Outcome State Fault Refusal :=
  runCmp s g d a b fun x y => x = y

/-- `icmp.ne`: the result and its complement into predicate pair d (R90). -/
def execIcmpNe (d a b g : Nat) (s : State) : Host.Outcome State Fault Refusal :=
  runCmp s g d a b fun x y => x ≠ y

/-- `icmp.lt`: the result and its complement into predicate pair d (R90). -/
def execIcmpLt (d a b g : Nat) (s : State) : Host.Outcome State Fault Refusal :=
  runCmp s g d a b fun x y => x.slt y

/-- `icmp.le`: the result and its complement into predicate pair d (R90). -/
def execIcmpLe (d a b g : Nat) (s : State) : Host.Outcome State Fault Refusal :=
  runCmp s g d a b fun x y => x.sle y

/-- `icmp.ltu`: the result and its complement into predicate pair d (R90). -/
def execIcmpLtu (d a b g : Nat) (s : State) : Host.Outcome State Fault Refusal :=
  runCmp s g d a b fun x y => x.ult y

/-- `icmp.leu`: the result and its complement into predicate pair d (R90). -/
def execIcmpLeu (d a b g : Nat) (s : State) : Host.Outcome State Fault Refusal :=
  runCmp s g d a b fun x y => x.ule y

/-- `icmpi.eq`: the compare with the sign-extended immediate (R90). -/
def execIcmpiEq (d a i : Nat) (s : State) : Host.Outcome State Fault Refusal :=
  runCmpI s d a fun x => let y := imm32 i; x = y

/-- `icmpi.ne`: the compare with the sign-extended immediate (R90). -/
def execIcmpiNe (d a i : Nat) (s : State) : Host.Outcome State Fault Refusal :=
  runCmpI s d a fun x => let y := imm32 i; x ≠ y

/-- `icmpi.lt`: the compare with the sign-extended immediate (R90). -/
def execIcmpiLt (d a i : Nat) (s : State) : Host.Outcome State Fault Refusal :=
  runCmpI s d a fun x => let y := imm32 i; x.slt y

/-- `icmpi.le`: the compare with the sign-extended immediate (R90). -/
def execIcmpiLe (d a i : Nat) (s : State) : Host.Outcome State Fault Refusal :=
  runCmpI s d a fun x => let y := imm32 i; x.sle y

/-- `icmpi.ltu`: the compare with the sign-extended immediate (R90). -/
def execIcmpiLtu (d a i : Nat) (s : State) : Host.Outcome State Fault Refusal :=
  runCmpI s d a fun x => let y := imm32 i; x.ult y

/-- `icmpi.leu`: the compare with the sign-extended immediate (R90). -/
def execIcmpiLeu (d a i : Nat) (s : State) : Host.Outcome State Fault Refusal :=
  runCmpI s d a fun x => let y := imm32 i; x.ule y

end Sys2Proof.Machine
end

