-- ==== Sys2Proof/Machine/Lane.lean ====
section
/-! DEFINITION. Convergence points (R15, R91 to R98, R224): arriving, the lane operations, votes, elections and uniform
instructions. A point executes once every live fibre of its warp (or workgroup) waits at it; when a value it reads is still
outstanding it waits, and CONVERGENCE_POINT_EXECUTE executes it later. -/

namespace Sys2Proof.Machine

/-- What a point does when it executes, given every live fibre of its scope; none while a value is outstanding (R91). -/
abbrev Fire := State → List Env → Option State

/-- The scope of a point: the warp, or for `elect` the workgroup (R15). -/
inductive Scope where
  | warp | wg
  deriving DecidableEq, Repr

/-- The live fibres of the scope of a fibre. -/
def State.scopeOf (s : State) (sc : Scope) (r : FRef) : List Fibre :=
  match sc with
  | .warp => s.warpFibres r.wref r.warp
  | .wg => s.wgFibres r.wref

/-- A fibre waits at point i at the address of fibre f, and nothing holds it there (R15). -/
def waitsAt (f : Fibre) (i : Instr) (x : Fibre) : Bool :=
  decide (x.st = .conv i) && decide (x.pc = f.pc) && decide (x.widx = f.widx) && !x.halted

/-- The launch of a fibre is being pre-empted: its waiting fibres are stopped (R302). -/
def State.preempting (s : State) (r : FRef) : Bool := ((s.launch? r.wref.launch).bind (·.preempt)).isSome

/-- Executes point i of fibre f's scope if every live fibre has arrived and its values are there. -/
def tryFire (s : State) (sc : Scope) (i : Instr) (fire : Fire) (r : FRef) : Option State :=
  match s.fibre? r with
  | none => none
  | some f =>
    let fs := s.scopeOf sc r
    if fs.all (waitsAt f i) && !s.preempting r then fire s (fs.filterMap fun x => s.env? x.ref) else none

/-- A fibre arrives at point i; the last arrival executes it when it can (R15). -/
def arriveAt (s : State) (sc : Scope) (i : Instr) (fire : Fire) : Host.Outcome State Fault Refusal :=
  withCur s fun e =>
    let t := s.setF { e.f with st := .conv i }
    match tryFire t sc i fire e.f.ref with
    | some u => .next u.ticked
    | none => .next t.ticked

/-- The contributing fibres C under guard g (R91). -/
def contributing (g : Nat) (es : List Env) : List Env := es.filter fun e => guardOn e.f (some g)

/-- Every fibre passes the word at its own clock (R91). -/
def passAll (s : State) (es : List Env) (len wt : Nat) : State := es.foldl (fun t e => t.pass t e e.f len wt) s

/-- Every fibre listed parks with the same stop. -/
def parkAll (s : State) (es : List Env) (code cause : Nat) (info : BitVec 64) : State :=
  es.foldl (fun t e => t.park e code cause info) s

/-- A result of one fibre waits. -/
def isWait : Except Stop Fibre → Bool
  | .error (.wait _) => true
  | .error (.go _) => true
  | _ => false

/-- A fibre was given a result. -/
def hasResult : Option (Except Stop Fibre) → Bool
  | some (.ok _) => true
  | _ => false

/-- One fibre of a point that has executed, or has not: it passes with its result, parks, or passes guarded off. -/
def passOne (done : Bool) (t : State) (e : Env) : Option (Except Stop Fibre) → State
  | none => if done then t.pass t e e.f 1 1 else t
  | some (.ok f) => t.pass t e f 1 1
  | some (.error (.fault c k i)) => t.park e c k i
  | some (.error _) => t

/-- The clock of a fibre would pass 2^56 - 1 at a word of weight wt, so that the word faults in it (R19). -/
def overflowStop (wt : Nat) (e : Env) (x : Except Stop Fibre) : Except Stop Fibre :=
  match x with
  | .ok f => if overflows e.f wt then .error (.fault 0x0A 0 0) else .ok f
  | y => y

/-- A point with a result per contributing fibre: a fibre that faults parks, and the others complete; when every one of C
faults the point has not executed, and the fibres guarded off wait on (R15, R19, R92). -/
def firePer (g : Nat) (res : List Env → Env → Except Stop Fibre) : Fire := fun s es =>
  let val := fun (e : Env) => if e.f.pred g then some (overflowStop 1 e (res es e)) else none
  if es.any fun e => ((val e).map isWait).getD false then none
  else
    let done := es.all (fun e => (val e).isNone) || es.any fun e => hasResult (val e)
    some (es.foldl (fun t e => passOne done t e (val e)) s)

/-- A point that writes a uniform register executes for the contributing fibres c: when the clock of every one of them overflows, it has
not executed, and otherwise the register is written once and every fibre passes (R15, R19, R94). -/
def uniDone (s : State) (es c : List Env) (len wt : Nat) (p : Warp) (upd : Warp → Warp) : State :=
  if c.all fun e => overflows e.f wt then parkAll s c 0x0A 0 0
  else passAll (s.updWarp p.wref p.j upd) es len wt

/-- A point with one uniform result: it is written once when C is not empty; a fault parks every fibre of C, and the point
has not executed (R92, R94, R97). It waits for the uniform loads before it (R42). -/
def fireUni (g : Option Nat) (len wt : Nat) (val : List Env → Warp → Except Stop (Warp → Warp)) : Fire := fun s es =>
  let c := es.filter fun e => guardOn e.f g
  match c with
  | [] => some (passAll s es len wt)
  | e :: _ =>
    if ¬ e.p.uouts.isEmpty then none
    else match val c e.p with
    | .error (.fault k x i) => some (parkAll s c k x i)
    | .error _ => none
    | .ok upd => some (uniDone s es c len wt e.p upd)

/-- Register a of a source lane, or the reader's own when the lane is not live (R92). -/
def laneRead (es : List Env) (me : Env) (lane a : Nat) : Except Stop Word :=
  let src := (es.find? fun x => x.f.ref.lane = lane).getD me
  do
    vchk src.f [a]
    vget src.f a

/-- The contributing lanes in ascending order. -/
def byLane (es : List Env) : List Env := (List.range 32).flatMap fun k => es.filter fun e => e.f.ref.lane = k

/-- Register a of every contributing fibre with its lane; the lowest lane that overflows decides the fault (R92). -/
def laneVals (c : List Env) (a : Nat) : Except Stop (List (Nat × Word)) := do
  let _ ← (byLane c).mapM fun e => vchk e.f [a]
  (byLane c).mapM fun e => do
    let x ← vget e.f a
    .ok (e.f.ref.lane, x)

/-- The election of R95 over the fibres given. -/
def electFire (d g : Nat) : Fire :=
  firePer g fun es e =>
    let c := contributing g es
    let first := c.all fun x => decide (e.f.ref.warp < x.f.ref.warp ∨ (e.f.ref.warp = x.f.ref.warp ∧ e.f.ref.lane ≤ x.f.ref.lane))
    .ok (psetPair e.f d first)

/-- `movs`: d := s_a, no convergence point (R93, R98). -/
def execMovs (d a g : Nat) (s : State) : Host.Outcome State Fault Refusal :=
  runPlain s (some g) 1 1 fun e => do
    vchk e.f [d]
    schk e.p [a]
    .ok (vset e.f d (sget e.p a))

/-- The effect of `shfl` when the point executes: d := a of lane b[4:0] (R92, R93). Where several of its registers overflow, INFO names d,
then b, then the source lane's a. DEDUCED, unsafe, log 9. -/
def fireShfl (d a b g : Nat) : Fire :=
  firePer g fun es e => do
    vchk e.f [d, b]
    let y ← vget e.f b
    let x ← laneRead es e (y.toNat % 32) a
    .ok (vset e.f d x)

/-- `shfl`: the fibre arrives at the point; the last arrival executes it. d := a of lane b[4:0] (R92, R93). -/
def execShfl (d a b g : Nat) (s : State) : Host.Outcome State Fault Refusal :=
  arriveAt s .warp (.shfl d a b g) (fireShfl d a b g)

/-- The effect of `shflx` when the point executes: d := a of lane (lane xor b[4:0]) (R92, R93). INFO as for `shfl`. DEDUCED, unsafe, log 9.
-/
def fireShflx (d a b g : Nat) : Fire :=
  firePer g fun es e => do
    vchk e.f [d, b]
    let y ← vget e.f b
    let x ← laneRead es e (e.f.ref.lane ^^^ (y.toNat % 32)) a
    .ok (vset e.f d x)

/-- `shflx`: the fibre arrives at the point; the last arrival executes it. d := a of lane (lane xor b[4:0]) (R92, R93). -/
def execShflx (d a b g : Nat) (s : State) : Host.Outcome State Fault Refusal :=
  arriveAt s .warp (.shflx d a b g) (fireShflx d a b g)

/-- The effect of `bcast` when the point executes: d := a of lane s_b[4:0] (R92, R93). -/
def fireBcast (d a b g : Nat) : Fire :=
  firePer g fun es e => do
    vchk e.f [d]
    schk e.p [b]
    let x ← laneRead es e ((sget e.p b).toNat % 32) a
    .ok (vset e.f d x)

/-- `bcast`: the fibre arrives at the point; the last arrival executes it. d := a of lane s_b[4:0] (R92, R93). -/
def execBcast (d a b g : Nat) (s : State) : Host.Outcome State Fault Refusal :=
  arriveAt s .warp (.bcast d a b g) (fireBcast d a b g)

/-- The effect of `voteany` when the point executes: the OR of predicate a over the contributing fibres, into pair d (R93). -/
def fireVoteany (d a g : Nat) : Fire :=
  firePer g fun es e => .ok (psetPair e.f d ((contributing g es).any fun x => x.f.pred a))

/-- `voteany`: the fibre arrives at the point; the last arrival executes it. the OR of predicate a over the contributing fibres, into pair d (R93). -/
def execVoteany (d a g : Nat) (s : State) : Host.Outcome State Fault Refusal :=
  arriveAt s .warp (.voteany d a g) (fireVoteany d a g)

/-- The effect of `voteall` when the point executes: the AND of predicate a over the contributing fibres, into pair d (R93). -/
def fireVoteall (d a g : Nat) : Fire :=
  firePer g fun es e => .ok (psetPair e.f d ((contributing g es).all fun x => x.f.pred a))

/-- `voteall`: the fibre arrives at the point; the last arrival executes it. the AND of predicate a over the contributing fibres, into pair d (R93). -/
def execVoteall (d a g : Nat) (s : State) : Host.Outcome State Fault Refusal :=
  arriveAt s .warp (.voteall d a g) (fireVoteall d a g)

/-- The effect of `ballot` when the point executes: s_d := the lanes whose predicate a is 1 (R93). -/
def fireBallot (d a g : Nat) : Fire :=
  fireUni (some g) 1 1 fun c _ => .ok fun p => sset p d (BitVec.ofNat 32 (c.foldl (fun r x => r + if x.f.pred a then 2 ^ x.f.ref.lane else 0) 0))

/-- `ballot`: the fibre arrives at the point; the last arrival executes it. s_d := the lanes whose predicate a is 1 (R93). -/
def execBallot (d a g : Nat) (s : State) : Host.Outcome State Fault Refusal :=
  arriveAt s .warp (.ballot d a g) (fireBallot d a g)

/-- The effect of `redadd` when the point executes: s_d := the sum of a over the contributing fibres (R93). -/
def fireRedadd (d a g : Nat) : Fire :=
  fireUni (some g) 1 1 fun c _ => do
    let xs ← laneVals c a
    .ok fun p => sset p d (xs.foldl (fun r x => r + x.2) 0)

/-- `redadd`: the fibre arrives at the point; the last arrival executes it. s_d := the sum of a over the contributing fibres (R93). -/
def execRedadd (d a g : Nat) (s : State) : Host.Outcome State Fault Refusal :=
  arriveAt s .warp (.redadd d a g) (fireRedadd d a g)

/-- The effect of `redmin` when the point executes: s_d := the signed minimum of a (R93). -/
def fireRedmin (d a g : Nat) : Fire :=
  fireUni (some g) 1 1 fun c _ => do
    let xs ← laneVals c a
    .ok fun p => sset p d (xs.foldl (fun r x => if x.2.slt r then x.2 else r) 0x7FFFFFFF#32)

/-- `redmin`: the fibre arrives at the point; the last arrival executes it. s_d := the signed minimum of a (R93). -/
def execRedmin (d a g : Nat) (s : State) : Host.Outcome State Fault Refusal :=
  arriveAt s .warp (.redmin d a g) (fireRedmin d a g)

/-- The effect of `redmax` when the point executes: s_d := the signed maximum of a (R93). -/
def fireRedmax (d a g : Nat) : Fire :=
  fireUni (some g) 1 1 fun c _ => do
    let xs ← laneVals c a
    .ok fun p => sset p d (xs.foldl (fun r x => if r.slt x.2 then x.2 else r) 0x80000000#32)

/-- `redmax`: the fibre arrives at the point; the last arrival executes it. s_d := the signed maximum of a (R93). -/
def execRedmax (d a g : Nat) (s : State) : Host.Outcome State Fault Refusal :=
  arriveAt s .warp (.redmax d a g) (fireRedmax d a g)

/-- The effect of `scanadd` when the point executes: d := the sum of a over the contributing lanes up to this one (R92, R93). -/
def fireScanadd (d a g : Nat) : Fire :=
  fun s es =>
    match laneVals (contributing g es) a with
    | .error (.wait _) => none
    | .error (.go _) => none
    | .error (.fault c k i) => some (parkAll s (contributing g es) c k i)
    | .ok xs => firePer g (fun _ e => do
        vchk e.f [d]
        .ok (vset e.f d ((xs.filter fun x => x.1 ≤ e.f.ref.lane).foldl (fun r x => r + x.2) 0))) s es

/-- `scanadd`: the fibre arrives at the point; the last arrival executes it. d := the sum of a over the contributing lanes up to this one (R92, R93). -/
def execScanadd (d a g : Nat) (s : State) : Host.Outcome State Fault Refusal :=
  arriveAt s .warp (.scanadd d a g) (fireScanadd d a g)

/-- The effect of `lid` when the point executes: d := the number of contributing lanes below this one (R93). -/
def fireLid (d g : Nat) : Fire :=
  firePer g fun es e => do
    vchk e.f [d]
    .ok (vset e.f d (BitVec.ofNat 32 ((contributing g es).filter fun x => x.f.ref.lane < e.f.ref.lane).length))

/-- `lid`: the fibre arrives at the point; the last arrival executes it. d := the number of contributing lanes below this one (R93). -/
def execLid (d g : Nat) (s : State) : Host.Outcome State Fault Refusal :=
  arriveAt s .warp (.lid d g) (fireLid d g)

/-- The effect of `electw` when the point executes: the contributing fibre of lowest lane gets pair d = (1, 0), the others (0, 1) (R95). -/
def fireElectw (d g : Nat) : Fire :=
  electFire d g

/-- `electw`: the fibre arrives at the point; the last arrival executes it. the contributing fibre of lowest lane gets pair d = (1, 0), the others (0, 1) (R95). -/
def execElectw (d g : Nat) (s : State) : Host.Outcome State Fault Refusal :=
  arriveAt s .warp (.electw d g) (fireElectw d g)

/-- The effect of `elect` when the point executes: the contributing fibre of lowest warp id and lane of the workgroup gets pair d = (1, 0), the others (0, 1) (R95). -/
def fireElect (d g : Nat) : Fire :=
  electFire d g

/-- `elect`: the fibre arrives at the point; the last arrival executes it. the contributing fibre of lowest warp id and lane of the workgroup gets pair d = (1, 0), the others (0, 1) (R95). -/
def execElect (d g : Nat) (s : State) : Host.Outcome State Fault Refusal :=
  arriveAt s .wg (.elect d g) (fireElect d g)

/-- The effect of `wsync` when the point executes: nothing but the meeting (R224). -/
def fireWsync (g : Nat) : Fire :=
  firePer g fun _ e => .ok e.f

/-- `wsync`: the fibre arrives at the point; the last arrival executes it. nothing but the meeting (R224). -/
def execWsync (g : Nat) (s : State) : Host.Outcome State Fault Refusal :=
  arriveAt s .warp (.wsync g) (fireWsync g)

/-- The effect of `uadd` when the point executes: s_d := s_a + s_b (R97). -/
def fireUadd (d a b g : Nat) : Fire :=
  fireUni (some g) 1 1 fun _ p0 => .ok fun p => sset p d (let x := sget p0 a; let y := sget p0 b; x + y)

/-- `uadd`: the fibre arrives at the point; the last arrival executes it. s_d := s_a + s_b (R97). -/
def execUadd (d a b g : Nat) (s : State) : Host.Outcome State Fault Refusal :=
  arriveAt s .warp (.uadd d a b g) (fireUadd d a b g)

/-- The effect of `usub` when the point executes: s_d := s_a - s_b (R97). -/
def fireUsub (d a b g : Nat) : Fire :=
  fireUni (some g) 1 1 fun _ p0 => .ok fun p => sset p d (let x := sget p0 a; let y := sget p0 b; x - y)

/-- `usub`: the fibre arrives at the point; the last arrival executes it. s_d := s_a - s_b (R97). -/
def execUsub (d a b g : Nat) (s : State) : Host.Outcome State Fault Refusal :=
  arriveAt s .warp (.usub d a b g) (fireUsub d a b g)

/-- The effect of `umul` when the point executes: s_d := s_a * s_b (R97). -/
def fireUmul (d a b g : Nat) : Fire :=
  fireUni (some g) 1 1 fun _ p0 => .ok fun p => sset p d (let x := sget p0 a; let y := sget p0 b; x * y)

/-- `umul`: the fibre arrives at the point; the last arrival executes it. s_d := s_a * s_b (R97). -/
def execUmul (d a b g : Nat) (s : State) : Host.Outcome State Fault Refusal :=
  arriveAt s .warp (.umul d a b g) (fireUmul d a b g)

/-- The effect of `uand` when the point executes: s_d := s_a and s_b (R97). -/
def fireUand (d a b g : Nat) : Fire :=
  fireUni (some g) 1 1 fun _ p0 => .ok fun p => sset p d (let x := sget p0 a; let y := sget p0 b; x &&& y)

/-- `uand`: the fibre arrives at the point; the last arrival executes it. s_d := s_a and s_b (R97). -/
def execUand (d a b g : Nat) (s : State) : Host.Outcome State Fault Refusal :=
  arriveAt s .warp (.uand d a b g) (fireUand d a b g)

/-- The effect of `uor` when the point executes: s_d := s_a or s_b (R97). -/
def fireUor (d a b g : Nat) : Fire :=
  fireUni (some g) 1 1 fun _ p0 => .ok fun p => sset p d (let x := sget p0 a; let y := sget p0 b; x ||| y)

/-- `uor`: the fibre arrives at the point; the last arrival executes it. s_d := s_a or s_b (R97). -/
def execUor (d a b g : Nat) (s : State) : Host.Outcome State Fault Refusal :=
  arriveAt s .warp (.uor d a b g) (fireUor d a b g)

/-- The effect of `uxor` when the point executes: s_d := s_a xor s_b (R97). -/
def fireUxor (d a b g : Nat) : Fire :=
  fireUni (some g) 1 1 fun _ p0 => .ok fun p => sset p d (let x := sget p0 a; let y := sget p0 b; x ^^^ y)

/-- `uxor`: the fibre arrives at the point; the last arrival executes it. s_d := s_a xor s_b (R97). -/
def execUxor (d a b g : Nat) (s : State) : Host.Outcome State Fault Refusal :=
  arriveAt s .warp (.uxor d a b g) (fireUxor d a b g)

/-- The effect of `ushl` when the point executes: s_d := s_a shifted left by s_b[5:0] (R97). -/
def fireUshl (d a b g : Nat) : Fire :=
  fireUni (some g) 1 1 fun _ p0 => .ok fun p => sset p d (let x := sget p0 a; let y := sget p0 b; shlW x (y.toNat % 64))

/-- `ushl`: the fibre arrives at the point; the last arrival executes it. s_d := s_a shifted left by s_b[5:0] (R97). -/
def execUshl (d a b g : Nat) (s : State) : Host.Outcome State Fault Refusal :=
  arriveAt s .warp (.ushl d a b g) (fireUshl d a b g)

/-- The effect of `ushr` when the point executes: s_d := s_a shifted right by s_b[5:0] (R97). -/
def fireUshr (d a b g : Nat) : Fire :=
  fireUni (some g) 1 1 fun _ p0 => .ok fun p => sset p d (let x := sget p0 a; let y := sget p0 b; shrW x (y.toNat % 64))

/-- `ushr`: the fibre arrives at the point; the last arrival executes it. s_d := s_a shifted right by s_b[5:0] (R97). -/
def execUshr (d a b g : Nat) (s : State) : Host.Outcome State Fault Refusal :=
  arriveAt s .warp (.ushr d a b g) (fireUshr d a b g)

/-- The effect of `uaddw` when the point executes: the pair s_d := s_a + s_b mod 2^64 (R97). -/
def fireUaddw (d a b g : Nat) : Fire :=
  fireUni (some g) 1 1 fun _ p0 => .ok fun p => sset2 p d (sget2 p0 a + sget2 p0 b)

/-- `uaddw`: the fibre arrives at the point; the last arrival executes it. the pair s_d := s_a + s_b mod 2^64 (R97). -/
def execUaddw (d a b g : Nat) (s : State) : Host.Outcome State Fault Refusal :=
  arriveAt s .warp (.uaddw d a b g) (fireUaddw d a b g)

/-- The effect of `umov` when the point executes: s_d := s_a (R97). -/
def fireUmov (d a g : Nat) : Fire :=
  fireUni (some g) 1 1 fun _ p0 => .ok fun p => sset p d (sget p0 a)

/-- `umov`: the fibre arrives at the point; the last arrival executes it. s_d := s_a (R97). -/
def execUmov (d a g : Nat) (s : State) : Host.Outcome State Fault Refusal :=
  arriveAt s .warp (.umov d a g) (fireUmov d a g)

/-- The effect of `uget` when the point executes: s_d := v a of lane s_b[4:0], 0 when that lane is not live (R92, R97). -/
def fireUget (d a b g : Nat) : Fire :=
  fun s es =>
    let c := contributing g es
    match c with
    | [] => some (passAll s es 1 1)
    | e :: _ =>
      if ¬ e.p.uouts.isEmpty then none
      else match es.find? fun x => x.f.ref.lane = (sget e.p b).toNat % 32 with
      | none => some (uniDone s es c 1 1 e.p fun p => sset p d 0)
      | some src =>
        match laneRead es src src.f.ref.lane a with
        | .error (.wait _) => none
        | .error (.go _) => none
        | .error (.fault k x i) => some (parkAll s c k x i)
        | .ok x => some (uniDone s es c 1 1 e.p fun p => sset p d x)

/-- `uget`: the fibre arrives at the point; the last arrival executes it. s_d := v a of lane s_b[4:0], 0 when that lane is not live (R92, R97). -/
def execUget (d a b g : Nat) (s : State) : Host.Outcome State Fault Refusal :=
  arriveAt s .warp (.uget d a b g) (fireUget d a b g)

/-- The effect of `uaddi` when the point executes: s_d := s_a + sext(imm), under the clause guard (R97). -/
def fireUaddi (d a i : Nat) : Fire :=
  fireUni none 1 1 fun _ p0 => .ok fun p => sset p d (sget p0 a + imm32 i)

/-- `uaddi`: the fibre arrives at the point; the last arrival executes it. s_d := s_a + sext(imm), under the clause guard (R97). -/
def execUaddi (d a i : Nat) (s : State) : Host.Outcome State Fault Refusal :=
  arriveAt s .warp (.uaddi d a i) (fireUaddi d a i)

/-- The effect of `uli` when the point executes: s_d := the literal (R97). -/
def fireUli (d g : Nat) (lit : Word) : Fire :=
  fireUni (some g) 2 2 fun _ _ => .ok fun p => sset p d lit

/-- `uli`: the fibre arrives at the point; the last arrival executes it. Two words of weight 2 (R97). -/
def execUli (d g : Nat) (lit : Word) (s : State) : Host.Outcome State Fault Refusal :=
  arriveAt s .warp (.uli d g lit) (fireUli d g lit)

end Sys2Proof.Machine
end

