-- ==== Sys2Proof/Machine/Memory.lean ====
section
/-! DEFINITION. L-class instructions (R157 to R170): loads, stores, their indexed and uniform forms, prefetch and pinning,
atomics, and `turn`. -/

namespace Sys2Proof.Machine

/-- A plain load of size bytes into v d: address pair v a plus the immediate, clause guard (R157, R161). -/
def runLoad (s : State) (d a i size : Nat) (sext : Bool) : Host.Outcome State Fault Refusal :=
  runPlain s none 1 1 fun e => do
    vchk e.f ((List.range (max 1 (size / 4))).map (d + ·) ++ [a, a + 1])
    let x ← vget2 e.f a
    s.load e e.f d size sext (x + imm64 i)

/-- A plain store of size bytes from v d (R157, R162). -/
def runStore (s : State) (d a i size : Nat) : Host.Outcome State Fault Refusal :=
  runWord s none 1 1 fun e => do
    vchk e.f ((List.range (max 1 (size / 4))).map (d + ·) ++ [a, a + 1])
    let x ← vget2 e.f a
    let ws ← vgets e.f d (max 1 (size / 4))
    s.store e (x + imm64 i) ((ws.flatMap wordBytes).take size)

/-- An indexed load: the pair s a plus the index v b times the size (R157, R163). -/
def runLoadX (s : State) (d a b g size : Nat) : Host.Outcome State Fault Refusal :=
  runPlain s (some g) 1 1 fun e => do
    vchk e.f ((List.range (max 1 (size / 4))).map (d + ·) ++ [b])
    schk e.p [a, a + 1]
    let n ← vget e.f b
    s.load e e.f d size false (sget2 e.p a + BitVec.ofNat 64 (n.toNat * size))

/-- An indexed store (R157, R163). -/
def runStoreX (s : State) (d a b g size : Nat) : Host.Outcome State Fault Refusal :=
  runWord s (some g) 1 1 fun e => do
    vchk e.f ((List.range (max 1 (size / 4))).map (d + ·) ++ [b])
    schk e.p [a, a + 1]
    let n ← vget e.f b
    let ws ← vgets e.f d (max 1 (size / 4))
    s.store e (sget2 e.p a + BitVec.ofNat 64 (n.toNat * size)) ((ws.flatMap wordBytes).take size)

/-- `ldb`: one byte, zero-extended (R161). -/
def execLdb (d a i : Nat) (s : State) : Host.Outcome State Fault Refusal := runLoad s d a i 1 false
/-- `ldsb`: one byte, sign-extended (R161). -/
def execLdsb (d a i : Nat) (s : State) : Host.Outcome State Fault Refusal := runLoad s d a i 1 true
/-- `ldh`: a half, zero-extended (R161). -/
def execLdh (d a i : Nat) (s : State) : Host.Outcome State Fault Refusal := runLoad s d a i 2 false
/-- `ldsh`: a half, sign-extended (R161). -/
def execLdsh (d a i : Nat) (s : State) : Host.Outcome State Fault Refusal := runLoad s d a i 2 true
/-- `ldw`: a word (R161). -/
def execLdw (d a i : Nat) (s : State) : Host.Outcome State Fault Refusal := runLoad s d a i 4 false
/-- `ldd`: a double word into a pair (R161). -/
def execLdd (d a i : Nat) (s : State) : Host.Outcome State Fault Refusal := runLoad s d a i 8 false
/-- `ldq`: 16 bytes into a group of four (R161). -/
def execLdq (d a i : Nat) (s : State) : Host.Outcome State Fault Refusal := runLoad s d a i 16 false
/-- `stb`: bits [7:0] (R162). -/
def execStb (d a i : Nat) (s : State) : Host.Outcome State Fault Refusal := runStore s d a i 1
/-- `sth`: bits [15:0] (R162). -/
def execSth (d a i : Nat) (s : State) : Host.Outcome State Fault Refusal := runStore s d a i 2
/-- `stw`: the word (R162). -/
def execStw (d a i : Nat) (s : State) : Host.Outcome State Fault Refusal := runStore s d a i 4
/-- `std`: the pair, low word first (R162). -/
def execStd (d a i : Nat) (s : State) : Host.Outcome State Fault Refusal := runStore s d a i 8
/-- `stq`: the group of four, the first register first (R162). -/
def execStq (d a i : Nat) (s : State) : Host.Outcome State Fault Refusal := runStore s d a i 16
/-- `ldbx`: as `ldb`, indexed (R163). -/
def execLdbx (d a b g : Nat) (s : State) : Host.Outcome State Fault Refusal := runLoadX s d a b g 1
/-- `ldhx`: as `ldh`, indexed (R163). -/
def execLdhx (d a b g : Nat) (s : State) : Host.Outcome State Fault Refusal := runLoadX s d a b g 2
/-- `ldwx`: as `ldw`, indexed (R163). -/
def execLdwx (d a b g : Nat) (s : State) : Host.Outcome State Fault Refusal := runLoadX s d a b g 4
/-- `lddx`: as `ldd`, indexed (R163). -/
def execLddx (d a b g : Nat) (s : State) : Host.Outcome State Fault Refusal := runLoadX s d a b g 8
/-- `stbx`: as `stb`, indexed (R163). -/
def execStbx (d a b g : Nat) (s : State) : Host.Outcome State Fault Refusal := runStoreX s d a b g 1
/-- `sthx`: as `sth`, indexed (R163). -/
def execSthx (d a b g : Nat) (s : State) : Host.Outcome State Fault Refusal := runStoreX s d a b g 2
/-- `stwx`: as `stw`, indexed (R163). -/
def execStwx (d a b g : Nat) (s : State) : Host.Outcome State Fault Refusal := runStoreX s d a b g 4
/-- `stdx`: as `std`, indexed (R163). -/
def execStdx (d a b g : Nat) (s : State) : Host.Outcome State Fault Refusal := runStoreX s d a b g 8

/-! ## Uniform loads (R164) -/

/-- The bytes of a uniform load: a Constant global page or the argument window; any other place is a class fault of cause 3 (R164).
DEDUCED, safe, log 21. -/
def uloadBytes (s : State) (e : Env) (ea : BitVec 64) (size : Nat) : Except Stop (List Byte) :=
  match regionOf ea with
  | none => .error (.fault 0x02 0 ea)
  | some r =>
    if ea.toNat % size ≠ 0 then .error (.fault 0x03 0 ea)
    else match r with
      | .own _ => .error (.fault 0x06 3 ea)
      | .peer _ _ => .error (.fault 0x06 3 ea)
      | .glob va =>
        if (classOf e.l va).1 ≠ .constant then .error (.fault 0x06 3 ea)
        else if inArgs va then .ok ((List.range size).map fun n => argByte e.l (va - argBase + n))
        else match s.translate e.l va .read with
          | .error c => .error (.fault 0x01 c ea)
          | .ok pa => .ok (memBytes s.mem pa size)

/-- The locations that a uniform load reads, none in the argument window (R22, R164). -/
def uloadLocs (s : State) (e : Env) (ea : BitVec 64) (size : Nat) : List Loc :=
  match regionOf ea with
  | some (.own o) => spadLocs e.w.ref.wg o size
  | some (.glob va) => if inArgs va then [] else match s.translate e.l va .read with
    | .ok pa => physLocs pa size
    | .error _ => []
  | _ => []

/-- A uniform load when its point executes: one read for the warp, a fault in every contributing fibre; the result is outstanding in each
of them under its clause's token, and the uniform registers of `regs` wait for it (R94, R97, R160, R164). DEDUCED, safe, log 21. -/
def fireUload (a i size : Nat) (regs : List Nat) : Fire := fun s es =>
  let c := es.filter fun e => guardOn e.f none
  match c with
  | [] => some (passAll s es 1 1)
  | e :: _ =>
    if !e.p.uouts.isEmpty || c.any (fun x => decide (63 ≤ x.f.outCount)) then none
    else match uloadBytes s e (sget2 e.p a + imm64 i) size with
    | .error (.fault k x y) => some (parkAll s c k x y)
    | .error _ => none
    | .ok bs =>
      if c.all fun x => overflows x.f 1 then some (parkAll s c 0x0A 0 0)
      else some (es.foldl (fun t x => t.pass t x (if guardOn x.f none then x.f.withUload (sget2 e.p a + imm64 i) x.key regs
        (loadWords size false bs) (uloadLocs s e (sget2 e.p a + imm64 i) size) else x.f.uLanded) 1 1) (s.updWarp e.p.wref e.p.j fun p => { p with uouts := regs }))

/-- The effect of `uldw` when the point executes (R97, R164). DEDUCED, safe, log 21. -/
def fireUldw (d a i : Nat) : Fire := fireUload a i 4 [d]

/-- `uldw`: s d := the word at the pair s a plus the immediate, a convergence point (R164). -/
def execUldw (d a i : Nat) (s : State) : Host.Outcome State Fault Refusal := arriveAt s .warp (.uldw d a i) (fireUldw d a i)

/-- The effect of `uldd` when the point executes (R97, R164). DEDUCED, safe, log 21. -/
def fireUldd (d a i : Nat) : Fire := fireUload a i 8 [d, d + 1]

/-- `uldd`: the pair s d := the double word at the pair s a plus the immediate, a convergence point (R164). -/
def execUldd (d a i : Nat) (s : State) : Host.Outcome State Fault Refusal := arriveAt s .warp (.uldd d a i) (fireUldd d a i)

/-! ## Prefetch and pinning (R165, R166, R284) -/

/-- `pf`: the address, bound, peer-window and class checks of R158 without alignment; a page that does not translate is no
fault, and nothing changes (R165). The spec gives `pf` no size: the bound of the scratchpad is checked for one byte. DESIGN CHOICE, unsafe, log 22. -/
def execPf (a i : Nat) (s : State) : Host.Outcome State Fault Refusal :=
  runPlain s none 1 1 fun e => do
    vchk e.f [a, a + 1]
    let x ← vget2 e.f a
    match s.access e (x + imm64 i) 1 1 .prefetch with
    | .ok _ => .ok e.f
    | .error (.fault c k y) => if c = 0x01 then .ok e.f else .error (.fault c k y)
    | .error y => .error y

/-- The 512-byte superblocks of a range that lie in global memory and translate to HBM, which the cache-mode vaults may hold: each by its
virtual and its physical number (R166). DEDUCED, safe, log 22. -/
def pinBlocks (s : State) (l : Launch) (base len : Nat) : List (Nat × Nat) :=
  if len = 0 then []
  else ((List.range ((base + len - 1) / 512 - base / 512 + 1)).map (base / 512 + ·)).filterMap fun b =>
    match regionOf (BitVec.ofNat 64 (b * 512)) with
    | some (.glob va) => if inArgs va then none else match s.translate l va .read with
      | .ok pa => if pa < 2 ^ 52 then some (b, pa / 512) else none
      | .error _ => none
    | _ => none

/-- The vault, by its physical quad, and the set in which a partition caches a superblock of HBM (R21, R284). -/
def cacheSet (p : Partition) (phys : Nat) : Nat × Nat :=
  (p.quads.getD ((Config.cachePlace phys).1 % p.quads.length) 0, (Config.cachePlace phys).2 % 32768)

/-- The vault bank, as a unit id, that holds a set: sixteen banks take a vault's sets in turn (R284, R309). DEDUCED, safe, log 22. -/
def cacheBank (p : Partition) (phys : Nat) : Nat := 16 * (cacheSet p phys).1 + (cacheSet p phys).2 / 2048

/-- A launch has a stream open or draining on physical quad q (R200, R283). -/
def State.harpOn (s : State) (p : Partition) (q : Nat) : Bool :=
  s.wgs.any fun w => (w.harp.any fun h => h.st ≠ .closed) && match s.launch? w.ref.launch, w.core with
    | some l, some k => decide (l.part = p.id ∧ p.quads.getD (k / 4) 0 = q)
    | _, _ => false

/-- The bytes of the vault under physical quad q that serve as cache: all but the extents, the journal, the Harp's table and its fenced
banks (R200, R283). DEDUCED, safe, log 22. -/
def State.cacheBytes (s : State) (p : Partition) (q : Nat) : Nat :=
  let ext := (p.ctxs.flatMap fun c => c.extents.flatMap fun x => (List.range x.2).filter fun k =>
    decide (p.quads.getD ((x.1 + k) / 128) 0 = q)).length
  2 ^ 28 - ext * 2 ^ 21 - 2 ^ 22 - (if s.harpOn p q then 2 ^ 24 else 0)
    - ((List.range 16).filter fun k => s.fenced.any fun u => u.utype = 1 && u.unit = 16 * q + k).length * 2 ^ 24

/-- A unit of a kind and id is fenced (R317). -/
def State.isFenced (s : State) (t u : Nat) : Bool := s.fenced.any fun x => decide (x.utype = t ∧ x.unit = u)

/-- A pin of one more superblock keeps the limits: its bank is not fenced, and it stays within the context's quota, 15 of the 16 ways of its set,
and 15/16 of its vault's cache over all contexts (R166, R284). DEDUCED, safe, log 22. -/
def State.pinFits (s : State) (p : Partition) (c : Context) (phys : Nat) : Bool :=
  let all := ((p.ctxs.filter fun x => x.id ≠ c.id).flatMap (·.pins) ++ c.pins).map (·.phys) |>.eraseDups
  !s.isFenced 1 (cacheBank p phys) && decide ((c.pins.map (·.block)).eraseDups.length < c.quota)
    && decide ((all.filter fun x => cacheSet p x = cacheSet p phys).length < 15)
    && decide (16 * 512 * ((all.filter fun x => (cacheSet p x).1 = (cacheSet p phys).1).length + 1) ≤ 15 * s.cacheBytes p (cacheSet p phys).1)

/-- Pins superblocks one after another for a launch, those within the limits; the second part counts the demotions (R166, R284). A
superblock that another launch of the context has pinned is held for both. DEDUCED, safe, log 22. -/
def State.pinAll (s : State) (p : Partition) (c : Context) (l : LRef) : List (Nat × Nat) → Context × Nat
  | [] => (c, 0)
  | b :: r =>
    if c.pins.contains ⟨b.1, b.2, l⟩ then s.pinAll p c l r
    else if (c.pins.any fun x => x.block = b.1 && x.phys = b.2) || s.pinFits p c b.2 then
      s.pinAll p { c with pins := ⟨b.1, b.2, l⟩ :: c.pins } l r
    else let x := s.pinAll p c l r; (x.1, x.2 + 1)

/-- The pins of a context that still keep the limits, taken up again one after another, and how many do not (R284). DEDUCED, safe, log 22. -/
def State.keepPins (s : State) (p : Partition) (c : Context) : List Pinned → Context × Nat
  | [] => (c, 0)
  | x :: r =>
    if (c.pins.any fun y => y.block = x.block && y.phys = x.phys) || s.pinFits p c x.phys then s.keepPins p { c with pins := x :: c.pins } r
    else let y := s.keepPins p c r; (y.1, y.2 + 1)

/-- After a partition's cache or a quota has shrunk, the pins beyond the limits are demoted and counted: the spec does not say which; the contexts
keep theirs in their order, the oldest first (R284). DEDUCED, safe, log 22. -/
def State.refitPins (s : State) (n : Nat) : State :=
  match s.part? n with
  | none => s
  | some p =>
    let bare := { p with ctxs := p.ctxs.map fun c => { c with pins := [] } }
    let r := p.ctxs.foldl (fun (r : Partition × Nat) c =>
      let x := s.keepPins r.1 { c with pins := [] } c.pins.reverse
      (r.1.updC c.id fun _ => x.1, r.2 + x.2)) (bare, 0)
    (s.updP n fun _ => r.1).count n 15 r.2

/-- `pin`: asks that the superblocks of the range stay resident; it changes no value and never faults (R166). DEDUCED, safe, log 22. -/
def execPin (a b g : Nat) (s : State) : Host.Outcome State Fault Refusal :=
  runWord s (some g) 1 1 fun e => do
    schk e.p [a, a + 1, b]
    match s.part? e.l.part, s.ctxOf? e.l with
    | some p, some c =>
      let x := s.pinAll p c e.l.ref (pinBlocks s e.l (sget2 e.p a).toNat (sget e.p b).toNat)
      .ok ((s.updP e.l.part fun p => p.updC e.l.ctx fun _ => x.1).count e.l.part 15 x.2, e.f)
    | _, _ => .ok (s, e.f)

/-- `unpin`: releases the context's pins in the range (R166). DEDUCED, safe, log 22. -/
def execUnpin (a b g : Nat) (s : State) : Host.Outcome State Fault Refusal :=
  runWord s (some g) 1 1 fun e => do
    schk e.p [a, a + 1, b]
    let bs := (pinBlocks s e.l (sget2 e.p a).toNat (sget e.p b).toNat).map (·.1)
    .ok (s.updP e.l.part fun p => p.updC e.l.ctx fun c => { c with pins := c.pins.filter fun x => !bs.contains x.block }, e.f)

/-! ## Atomics and `turn` (R167 to R170) -/

/-- An atomic at the fibre's clock c: its checks, then its turn; it performs once the turn has completed (R139, R167).
n is the number of registers of D, m those of B. -/
def runAtomic (s : State) (op : AOp) (d a b g n m : Nat) : Host.Outcome State Fault Refusal :=
  runSync s (some g) fun e => do
    vchk e.f ((List.range n).map (d + ·) ++ [a, a + 1] ++ (List.range m).map (b + ·))
    let x ← vget2 e.f a
    let ys ← vgets e.f b m
    if 63 ≤ e.f.outCount then .error (.wait 6)
    else do
      let acc ← s.access e x (4 * n) (4 * n) .atomic
      let r : AtomReq := { op := op, addr := x.toNat, locs := acc.locs, direct := decide (acc.cls = .exclusive), b0 := ys.getD 0 0, b1 := ys.getD 1 0,
                           dst := (List.range n).map (e.f.phys d + ·) }
      .ok (s.turnAt e.l e.f e.f.clk (.atom r))

/-- `amoadd`: old + b (R168). -/
def execAmoadd (d a b g : Nat) (s : State) : Host.Outcome State Fault Refusal := runAtomic s .add d a b g 1 1
/-- `amomin`: the signed minimum (R168). -/
def execAmomin (d a b g : Nat) (s : State) : Host.Outcome State Fault Refusal := runAtomic s .min d a b g 1 1
/-- `amomax`: the signed maximum (R168). -/
def execAmomax (d a b g : Nat) (s : State) : Host.Outcome State Fault Refusal := runAtomic s .max d a b g 1 1
/-- `amominu`: the unsigned minimum (R168). -/
def execAmominu (d a b g : Nat) (s : State) : Host.Outcome State Fault Refusal := runAtomic s .minu d a b g 1 1
/-- `amomaxu`: the unsigned maximum (R168). -/
def execAmomaxu (d a b g : Nat) (s : State) : Host.Outcome State Fault Refusal := runAtomic s .maxu d a b g 1 1
/-- `amoand`: old and b (R168). -/
def execAmoand (d a b g : Nat) (s : State) : Host.Outcome State Fault Refusal := runAtomic s .and d a b g 1 1
/-- `amoor`: old or b (R168). -/
def execAmoor (d a b g : Nat) (s : State) : Host.Outcome State Fault Refusal := runAtomic s .or d a b g 1 1
/-- `amoxor`: old xor b (R168). -/
def execAmoxor (d a b g : Nat) (s : State) : Host.Outcome State Fault Refusal := runAtomic s .xor d a b g 1 1
/-- `amoxchg`: b (R168). -/
def execAmoxchg (d a b g : Nat) (s : State) : Host.Outcome State Fault Refusal := runAtomic s .xchg d a b g 1 1
/-- `amocas`: the odd register of pair b if old equals the even one, else old (R168). -/
def execAmocas (d a b g : Nat) (s : State) : Host.Outcome State Fault Refusal := runAtomic s .cas d a b g 1 2
/-- `amofadd`: old + b in binary32, RNE (R169). -/
def execAmofadd (d a b g : Nat) (s : State) : Host.Outcome State Fault Refusal := runAtomic s .fadd d a b g 1 1
/-- `amofmin`: the floating minimum (R169). -/
def execAmofmin (d a b g : Nat) (s : State) : Host.Outcome State Fault Refusal := runAtomic s .fmin d a b g 1 1
/-- `amofmax`: the floating maximum (R169). -/
def execAmofmax (d a b g : Nat) (s : State) : Host.Outcome State Fault Refusal := runAtomic s .fmax d a b g 1 1
/-- `amoaddw`: the 64-bit sum (R168). -/
def execAmoaddw (d a b g : Nat) (s : State) : Host.Outcome State Fault Refusal := runAtomic s .addw d a b g 2 2

/-- The new value of an atomic's location, 32 bits (64 for `amoaddw`) (R168, R169). -/
def atomValue (op : AOp) (old : Nat) (b0 b1 : Word) : Nat :=
  let o : Word := BitVec.ofNat 32 old
  match op with
  | .add => (o + b0).toNat
  | .min => (if b0.slt o then b0 else o).toNat
  | .max => (if o.slt b0 then b0 else o).toNat
  | .minu => min old b0.toNat
  | .maxu => max old b0.toNat
  | .and => (o &&& b0).toNat
  | .or => (o ||| b0).toNat
  | .xor => (o ^^^ b0).toNat
  | .xchg => b0.toNat
  | .cas => if o = b0 then b1.toNat else old
  | .fadd => (fp32.addF rneRnd (fp32.value old) (fp32.value b0.toNat)).bits
  | .fmin => (fp32.minmax false old b0.toNat).bits
  | .fmax => (fp32.minmax true old b0.toNat).bits
  | .addw => (old + (pair64 b0 b1).toNat) % 2 ^ 64

/-- `turn`: the fibre turns at its clock, and leaves the word once the turn has completed (R133, R170). -/
def execTurn (g : Nat) (s : State) : Host.Outcome State Fault Refusal :=
  runSync s (some g) fun e => .ok (s.turnAt e.l e.f e.f.clk (.leave (e.f.clk + 1)))

end Sys2Proof.Machine
end

