-- ==== Sys2Proof/Machine/Crypto.lean ====
section
/-! DEFINITION. The two outside standards whose values the device's own rules fix: SHAKE256 (FIPS 202), which names tables, digests and
measurements (R50, R262, R286, R287, R321, R324), and AES-256 in XTS mode (FIPS 197, IEEE 1619), with which snapshot shards leave the
package (R279, R280). -/

namespace Sys2Proof.Machine

/-! ## SHAKE256 -/

/-- Lane (x, y) of a Keccak state, numbered x + 5 y, coordinates modulo 5. -/
def laneAt (a : List (BitVec 64)) (x y : Nat) : BitVec 64 := a.getD (x % 5 + 5 * (y % 5)) 0

/-- A Keccak state from its lanes. -/
def lanes (g : Nat → Nat → BitVec 64) : List (BitVec 64) := (List.range 25).map fun n => g (n % 5) (n / 5)

/-- The rotations of the lanes, by x + 5 y. -/
def keccakRot : List Nat := [0, 1, 62, 28, 27, 36, 44, 6, 55, 20, 3, 10, 43, 25, 39, 41, 45, 15, 21, 8, 18, 2, 61, 56, 14]

/-- The round constants. -/
def keccakRc : List Nat :=
  [0x1, 0x8082, 0x800000000000808A, 0x8000000080008000, 0x808B, 0x80000001,
   0x8000000080008081, 0x8000000000008009, 0x8A, 0x88, 0x80008009, 0x8000000A,
   0x8000808B, 0x800000000000008B, 0x8000000000008089, 0x8000000000008003, 0x8000000000008002, 0x8000000000000080,
   0x800A, 0x800000008000000A, 0x8000000080008081, 0x8000000000008080, 0x80000001, 0x8000000080008008]

/-- One round. -/
def keccakRound (a : List (BitVec 64)) (rc : Nat) : List (BitVec 64) :=
  let c := (List.range 5).map fun x => (List.range 5).foldl (fun r y => r ^^^ laneAt a x y) 0
  let d := fun (x : Nat) => c.getD ((x + 4) % 5) 0 ^^^ (c.getD ((x + 1) % 5) 0).rotateLeft 1
  let t := lanes fun x y => laneAt a x y ^^^ d x
  -- the lane that moves to (x, y) comes from (x + 3 y, x)
  let b := lanes fun x y => (laneAt t (x + 3 * y) x).rotateLeft (keccakRot.getD ((x + 3 * y) % 5 + 5 * x) 0)
  let e := lanes fun x y => laneAt b x y ^^^ (~~~(laneAt b (x + 1) y) &&& laneAt b (x + 2) y)
  setAt e 0 (laneAt e 0 0 ^^^ BitVec.ofNat 64 rc)

/-- The permutation. -/
def keccak (a : List (BitVec 64)) : List (BitVec 64) := keccakRc.foldl keccakRound a

/-- Absorbs a block of 136 bytes. -/
def absorb (a : List (BitVec 64)) (bs : List Byte) : List (BitVec 64) :=
  keccak (((List.range 25).zip a).map fun x => x.2 ^^^ BitVec.ofNat 64 (ofBytes ((bs.drop (8 * x.1)).take 8)))

/-- The last block, which holds fewer than 136 bytes, with its padding. -/
def shakePad (bs : List Byte) : List Byte :=
  if bs.length = 135 then bs ++ [0x9F] else bs ++ [0x1F] ++ List.replicate (134 - bs.length) 0 ++ [0x80]

/-- Absorbs bytes block by block; n is a bound on the number of whole blocks. -/
def absorbAll : Nat → List (BitVec 64) → List Byte → List (BitVec 64)
  | 0, a, bs => absorb a (shakePad (bs.take 135))
  | n + 1, a, bs => if bs.length < 136 then absorb a (shakePad bs) else absorbAll n (absorb a (bs.take 136)) (bs.drop 136)

/-- SHAKE256 with 32 bytes of output. -/
def shake256 (bs : List Byte) : List Byte :=
  ((absorbAll (bs.length / 136) (List.replicate 25 0) bs).take 4).flatMap fun x => toBytes 8 x.toNat

/-! ## AES-256 -/

/-- The S-box, 32 entries to a number, entry 0 lowest. -/
def aesBox : List Nat :=
  [0xc072a49cafa2d4adf04759fa7dc982ca76abd7fe2b670130c56f6bf27b777c63,
   0x75b227ebe28012079a059618c323c7041531d871f1e5a534ccf73f362693fdb7,
   0xcf584c4a39becb6a5bb1fc20ed00d153842fe329b3d63b52a05a6e1b1a2c8309,
   0xd2f3ff1021dab6bcf5389d928f40a351a89f3c507f02f94585334d43fbaaefd0,
   0xdb0b5ede14b8ee4688902a22dc4f816073195d643d7ea7c41744975fec130ccd,
   0x08ae7a65eaf4566ca94ed58d6d37c8e779e4959162acd3c25c2406490a3a32e0,
   0x9e1dc186b95735610ef6034866b53e708a8bbd4b1f74dde8c6b4a61c2e2578ba,
   0x16bb54b00f2d99416842e6bf0d89a18cdf2855cee9871e9b948ed9691198f8e1]

/-- The inverse S-box. -/
def aesBoxInv : List Nat :=
  [0xcbe9dec444438e3487ff2f9b8239e37cfbd7f3819ea340bf38a53630d56a0952,
   0x25d18b6d49a25b76b224d92866a12e084ec3fa420b954cee3d23c2a632947b54,
   0x849d8da75746155edab9edfd5048706c92b6655dcc5ca4d41698688664f6f872,
   0x6b8a130103bdafc1020f3fca8f1e2cd00645b3b80558e4f70ad3bc8c00abd890,
   0x6edf751ce837f9e28535ade72274ac9673e6b4f0cecff297eadc674f4111913a,
   0xf45acd78fec0db9a2079d2c64b3e56fc1bbe18aa0e62b76f89c5291d711af147,
   0xef9cc9939f7ae52d0d4ab519a97f51605fec8027591012b131c7078833a8dd1f,
   0x7d0c2155631469e126d677ba7e042b17619953833cbbebc8b0f52aae4d3be0a0]

/-- Entry x of a table of bytes, 32 to a number. -/
def boxAtByte (t : List Nat) (x : Byte) : Byte := BitVec.ofNat 8 (t.getD (x.toNat / 32) 0 / 2 ^ (8 * (x.toNat % 32)))

/-- Multiplication by x in the field of 256 elements. -/
def xtime (b : Byte) : Byte := (b <<< 1) ^^^ (if b.msb then 0x1B else 0)

/-- The product of a field element with a number below 16. -/
def fieldMul (n : Nat) (b : Byte) : Byte :=
  (if n.testBit 0 then b else 0) ^^^ (if n.testBit 1 then xtime b else 0) ^^^ (if n.testBit 2 then xtime (xtime b) else 0)
    ^^^ (if n.testBit 3 then xtime (xtime (xtime b)) else 0)

/-- The bytewise sum of two byte lists. -/
def xorBytes (a b : List Byte) : List Byte := (a.zip b).map fun x => x.1 ^^^ x.2

/-- The next word of a key schedule whose words w are listed latest first; i is its number. -/
def nextKeyWord (w : List (List Byte)) (i : Nat) : List Byte :=
  let t := w.getD 0 []
  let sub := fun (x : List Byte) => x.map (boxAtByte aesBox)
  let g := if i % 8 = 0 then xorBytes (sub (t.drop 1 ++ t.take 1)) [BitVec.ofNat 8 (2 ^ (i / 8 - 1)), 0, 0, 0]
    else if i % 8 = 4 then sub t else t
  xorBytes (w.getD 7 []) g

/-- The fifteen round keys of a 32-byte key. -/
def roundKeys (key : List Byte) : List (List Byte) :=
  let first := ((List.range 8).map fun i => (key.drop (4 * i)).take 4).reverse
  let w := ((List.range 52).foldl (fun w i => nextKeyWord w (i + 8) :: w) first).reverse
  (List.range 15).map fun r => ((w.drop (4 * r)).take 4).flatten

/-- A block whose byte n is the byte of s that g gives. -/
def permBytes (s : List Byte) (g : Nat → Nat) : List Byte := (List.range 16).map fun n => s.getD (g n) 0

/-- Each column of a block times a circulant matrix with the first row given. -/
def mixColumns (row : List Nat) (s : List Byte) : List Byte :=
  (List.range 16).map fun n => (List.range 4).foldl (fun r k => r ^^^ fieldMul (row.getD ((k + 4 - n % 4) % 4) 0) (s.getD (n / 4 * 4 + k) 0)) 0

/-- One round of encryption; the last has no column mixing. -/
def aesRound (mix : Bool) (s k : List Byte) : List Byte :=
  let t := permBytes (s.map (boxAtByte aesBox)) fun n => (n + 4 * (n % 4)) % 16
  xorBytes (if mix then mixColumns [2, 3, 1, 1] t else t) k

/-- Encrypts a block of 16 bytes. -/
def aesEncrypt (key s : List Byte) : List Byte :=
  match roundKeys key with
  | [] => s
  | k0 :: ks => aesRound false ((ks.take 13).foldl (aesRound true) (xorBytes s k0)) (ks.getD 13 [])

/-- One round of decryption, the inverse of `aesRound`. -/
def aesRoundInv (mix : Bool) (s k : List Byte) : List Byte :=
  let t := xorBytes s k
  (permBytes (if mix then mixColumns [14, 11, 13, 9] t else t) fun n => (n + 12 * (n % 4)) % 16).map (boxAtByte aesBoxInv)

/-- Decrypts a block of 16 bytes. -/
def aesDecrypt (key s : List Byte) : List Byte :=
  match roundKeys key with
  | [] => s
  | k0 :: ks => xorBytes ((ks.take 13).reverse.foldl (aesRoundInv true) (aesRoundInv false s (ks.getD 13 []))) k0

/-! ## XTS (R279) -/

/-- The tweak of the next block of a data unit. -/
def nextTweak (t : Nat) : Nat := (t * 2 % 2 ^ 128) ^^^ (if t.testBit 127 then 0x87 else 0)

/-- The blocks of a data unit under a cipher, from a tweak on. -/
def xtsFrom (f : List Byte → List Byte) : Nat → Nat → List Byte → List Byte
  | 0, _, _ => []
  | n + 1, t, bs => xorBytes (f (xorBytes (bs.take 16) (toBytes 16 t))) (toBytes 16 t) ++ xtsFrom f n (nextTweak t) (bs.drop 16)

/-- A line of 128 bytes under a key pair, its tweak a number of 16 bytes; dec decrypts (R279). -/
def xtsLine (dec : Bool) (pair : List Byte) (tweak : Nat) (bs : List Byte) : List Byte :=
  let k1 := pair.take 32
  xtsFrom (if dec then aesDecrypt k1 else aesEncrypt k1) 8 (ofBytes (aesEncrypt (pair.drop 32) (toBytes 16 tweak))) bs

/-- Lines of 128 bytes with tweaks from one on; the last is filled up with zeros (R279). -/
def xtsLines (dec : Bool) (pair : List Byte) (tweak : Nat) (bs : List Byte) : List Byte :=
  (List.range ((bs.length + 127) / 128)).flatMap fun i =>
    let x := (bs.drop (128 * i)).take 128
    xtsLine dec pair (tweak + i) (x ++ List.replicate (128 - x.length) 0)

end Sys2Proof.Machine
end

