-- ==== Sys2Proof/Machine/Tensor.lean ====
section
/-! DEFINITION. Tensor descriptors and the placing of elements (R57, R61, R62, R75 to R79), and the reading of one element as
an engine or matrix command reads it (R115, R153). -/

namespace Sys2Proof.Machine

/-- Element width in bits by format code (R57). -/
def fmtBits (t : Nat) : Nat := [32, 16, 16, 8, 8, 4, 8, 8, 32, 2].getD t 0

/-- A descriptor from its 512 bits (R75). -/
def descOf (x : Nat) : Desc :=
  { base := BitVec.ofNat 64 x, fmt := bits x 67 64, rank := bits x 69 68 + 1, swz := bits x 73 70, ch := bits x 75 74,
    sfmt := bits x 77 76, resv := bits x 95 78, pad := BitVec.ofNat 32 (bits x 127 96),
    dims := [bits x 159 128, bits x 191 160, bits x 223 192, bits x 255 224],
    boxes := [bits x 271 256, bits x 287 272, bits x 303 288, bits x 319 304],
    soff := sx 48 (bits x 367 320),
    strides := [sx 48 (bits x 415 368), sx 48 (bits x 463 416), sx 48 (bits x 511 464)] }

def Desc.dim (d : Desc) (n : Nat) : Nat := d.dims.getD n 0
def Desc.box (d : Desc) (n : Nat) : Nat := d.boxes.getD n 0
/-- Stride of dimension n, 1 to 3. -/
def Desc.stride (d : Desc) (n : Nat) : Int := d.strides.getD (n - 1) 0

/-- The byte alignment of elements: their size, or 4 for the formats of blocks (R76). -/
def Desc.align (d : Desc) : Nat := if d.fmt = 5 ∨ d.fmt = 9 then 4 else fmtBits d.fmt / 8

/-- The scale format a format requires (R76). -/
def sfmtFor (t : Nat) : Nat := if t = 5 then 1 else if t = 9 then 2 else 0

/-- A valid descriptor (R76). -/
def Desc.valid (d : Desc) : Bool :=
  decide (d.fmt < 10) && decide (d.sfmt = sfmtFor d.fmt) && decide (d.resv = 0) && decide (d.swz < 4)
    && ((List.range 4).all fun n => if n < d.rank then decide (d.dim n ≠ 0 ∧ d.box n ≠ 0) else decide (d.dim n = 0 ∧ d.box n = 0))
    && decide (d.pad.toNat < 2 ^ fmtBits d.fmt)
    && decide (d.base.toNat / 2 ^ 56 = 0 ∨ d.base.toNat / 2 ^ 56 = 0xFF) && decide (d.base.toNat % d.align = 0)
    && ([1, 2, 3].all fun n => if n < d.rank then decide (d.stride n % d.align = 0) else decide (d.stride n = 0))
    && (decide (d.sfmt ≠ 0) || decide (d.soff = 0)) && (decide (d.sfmt ≠ 2) || decide (d.soff % 2 = 0))

/-- Coordinates, those at or above the rank taken as 0 (R77). -/
def Desc.coords (d : Desc) (c : List Int) : List Int := (List.range 4).map fun n => if n < d.rank then c.getD n 0 else 0

/-- The coordinates lie in the tensor (R178). -/
def Desc.inside (d : Desc) (c : List Int) : Bool :=
  (List.range 4).all fun n => decide (d.rank ≤ n) || decide (0 ≤ c.getD n 0 ∧ c.getD n 0 < d.dim n)

/-- A number fits in 64 signed bits. -/
def fits64 (x : Int) : Bool := decide (-(2 ^ 63) ≤ x ∧ x < 2 ^ 63)

/-- The byte offset of an element, none when the 64-bit computation overflows (R77, R178). -/
def Desc.offset (d : Desc) (c : List Int) : Option Int :=
  let c := d.coords c
  let t0 := c.getD 0 0 * fmtBits d.fmt / 8
  let t1 := c.getD 1 0 * d.stride 1
  let t2 := c.getD 2 0 * d.stride 2
  let t3 := c.getD 3 0 * d.stride 3
  if [t0, t1, t2, t3, t0 + t1, t0 + t1 + t2, t0 + t1 + t2 + t3].all fits64 then some (t0 + t1 + t2 + t3) else none

/-- The bounds [lo, hi) of the region that a base lies in (R20, R178). -/
def regionBounds (a : Nat) : Nat × Nat :=
  match regionOf (BitVec.ofNat 64 a) with
  | none => (0, 0)
  | some (.own _) => (0, 0x100000)
  | some (.peer k _) => (0x1000000 + k * 0x100000, 0x1000000 + (k + 1) * 0x100000)
  | some (.glob _) => if a < 2 ^ 56 then (0x100000000, 2 ^ 56) else (0xFF00000000000000, 2 ^ 64)

/-- The base lies in the own window or a peer window, so the swizzle applies (R78). -/
def Desc.inPad (d : Desc) : Bool :=
  match regionOf d.base with
  | some (.glob _) => false
  | some _ => true
  | none => false

/-- The stored offset of the byte at offset o from the base (R78). -/
def Desc.swizzle (d : Desc) (o : Int) : Int :=
  if d.swz = 0 ∨ ¬ d.inPad then o
  else
    let low := (o % 128).toNat
    o - low + (low ^^^ ((o / 128 % 2 ^ d.swz).toNat * 16) : Nat)

/-- The address of the byte at offset o from the base, none when it leaves the region of the base (R178). -/
def Desc.byteAddr (d : Desc) (o : Int) : Option Nat :=
  let a : Int := d.base.toNat + d.swizzle o
  let r := regionBounds d.base.toNat
  if (r.1 : Int) ≤ a ∧ a < r.2 then some a.toNat else none

/-- The address of an in-tensor element's first byte, none when the command is cancelled for it (R77, R78, R178). -/
def Desc.addrOf (d : Desc) (c : List Int) : Option Nat :=
  match d.offset c with
  | none => none
  | some o => d.byteAddr o

/-- Size of an element in bytes, 1 for those smaller than a byte. -/
def Desc.size (d : Desc) : Nat := max 1 (fmtBits d.fmt / 8)

/-- The first bit of a sub-byte element within its byte (R62). -/
def Desc.bitOf (d : Desc) (c : List Int) : Nat :=
  if fmtBits d.fmt < 8 then (c.getD 0 0 * fmtBits d.fmt % 8).toNat else 0

/-- The location of a byte address for workgroup w, or the cause of its translation fault (R20, R180). -/
def State.locAt (s : State) (l : Launch) (w a : Nat) (k : WKind) : Except Nat Loc :=
  match regionOf (BitVec.ofNat 64 a) with
  | none => .error 0
  | some (.own o) => .ok (.spad w o)
  | some (.peer m o) => .ok (.spad (memberIdx w m) o)
  | some (.glob va) => match s.translate l va k with
    | .ok pa => .ok (.phys pa)
    | .error c => .error c

/-- One byte as a command with a recorded read context reads it (R115, R153). -/
def State.readAt (s : State) (l : Launch) (w : Nat) (rd : Rd) (a : Nat) : Except Nat Byte :=
  if inArgs a then .ok (argByte l (a - argBase))
  else match s.locAt l w a .read with
    | .ok x => .ok (s.readRd l rd x)
    | .error c => .error c

/-- The pattern of the element at in-tensor coordinates, or the cause of a translation fault. -/
def State.readElem (s : State) (l : Launch) (w : Nat) (rd : Rd) (d : Desc) (c : List Int) : Except Nat Nat :=
  match d.addrOf c with
  | none => .ok 0
  | some a => do
    let bs ← (List.range d.size).mapM fun k => s.readAt l w rd (a + k)
    .ok (ofBytes bs / 2 ^ d.bitOf c % 2 ^ fmtBits d.fmt)

/-- The pattern read at any coordinates: the pad value outside the tensor (R122, R178). -/
def State.readPad (s : State) (l : Launch) (w : Nat) (rd : Rd) (d : Desc) (c : List Int) : Except Nat Nat :=
  if d.inside (d.coords c) then s.readElem l w rd d (d.coords c) else .ok d.pad.toNat

/-- The offset of the scale of an element from the base (R79). -/
def Desc.scaleOff (d : Desc) (c : List Int) : Int :=
  let nb : Int := ((d.dim 0 + 255) / 256 : Nat)
  let dimOr (n : Nat) : Int := if n < d.rank then d.dim n else 1
  let c := d.coords c
  let index := c.getD 0 0 / 256 + nb * (c.getD 1 0 + dimOr 1 * (c.getD 2 0 + dimOr 2 * c.getD 3 0))
  d.soff + index * (if d.sfmt = 1 then 1 else 2)

/-- Size of a scale in bytes (R79). -/
def Desc.scaleSize (d : Desc) : Nat := if d.sfmt = 1 then 1 else 2

/-- The pattern of an in-tensor element's scale (R79). -/
def State.readScale (s : State) (l : Launch) (w : Nat) (rd : Rd) (d : Desc) (c : List Int) : Nat :=
  ofBytes ((List.range d.scaleSize).map fun (k : Nat) => match d.byteAddr (d.scaleOff c + (k : Int)) with
    | none => 0
    | some a => match s.readAt l w rd a with
      | .ok b => b
      | .error _ => 0)

/-- The value of a floating element pattern (R58). -/
def fmtValue (t x : Nat) : FV :=
  match t with
  | 0 => fp32.value x
  | 1 => fp16.value x
  | 2 => bf16.value x
  | 3 => e4m3.value x
  | 4 => e5m2.value x
  | _ => e2m1.value x

/-- Entry n of the descriptor table as the fibre reads it at its key (R191). -/
def State.descEntry (s : State) (e : Env) (n : Nat) : Desc :=
  descOf (ofBytes ((List.range 64).map fun k => s.readRd e.l e.rd (.desc e.w.ref.wg (n * 64 + k))))

/-- The coordinates of a box in element order, dimension 0 fastest (R174). -/
def boxCoords (b : List Nat) : List (List Int) :=
  (List.range (max 1 (b.getD 3 0))).flatMap fun (x3 : Nat) => (List.range (max 1 (b.getD 2 0))).flatMap fun (x2 : Nat) =>
    (List.range (max 1 (b.getD 1 0))).flatMap fun (x1 : Nat) => (List.range (b.getD 0 0)).map fun (x0 : Nat) =>
      [(x0 : Int), (x1 : Int), (x2 : Int), (x3 : Int)]

/-- Coordinates added (R174). -/
def addCoords (a b : List Int) : List Int := (List.range 4).map fun n => a.getD n 0 + b.getD n 0

end Sys2Proof.Machine
end

