-- ==== Sys2Proof/Machine/Engine.lean ====
section
/-! DEFINITION. The asynchronous engines and stage barriers (R152 to R154, R171 to R194): when a fibre can no longer act
below a key, the element moves of the copy commands, their checks at issue, the acts on stage barriers, and the work
distributor's requests. -/

namespace Sys2Proof.Machine

/-! ## Element moves (R174 to R178) -/

/-- A move of one element: source and destination coordinates. -/
structure Move where
  src : List Int
  dst : List Int
  deriving DecidableEq, Repr

/-- The mode field of a copy command. -/
def ecMode : Instr → Nat
  | .cpy _ _ m _ _ _ _ _ => m
  | .cpyr _ _ m _ _ _ _ _ => m
  | .gath _ _ m _ _ _ _ _ => m
  | .scat _ _ m _ _ _ _ _ => m
  | _ => 0

/-- The kind of a copy command: 0 copy, 1 reducing copy, 2 gather, 3 scatter. -/
def ecKind : Instr → Nat
  | .cpy _ _ _ _ _ _ _ _ => 0
  | .cpyr _ _ _ _ _ _ _ _ => 1
  | .gath _ _ _ _ _ _ _ _ => 2
  | _ => 3

/-- The moves of a command in their order: for copies the box, dimension 0 fastest; for gathers and scatters ascending row,
then element, skipped rows left out (R174, R176, R177). -/
def movesOf (i : Instr) (da : Desc) (c : List Int) (idx : List Nat) : List Move :=
  if ecKind i < 2 then
    (boxCoords (da.boxes)).map fun x => if ecMode i % 2 = 0 then ⟨addCoords c x, x⟩ else ⟨x, addCoords c x⟩
  else
    (idx.zip (List.range idx.length)).flatMap fun (r : Nat × Nat) =>
      if r.1 = 0xFFFFFFFF then []
      else (List.range (da.box 0)).map fun (e : Nat) =>
        let picked : List Int := [c.getD 0 0 + e, r.1, c.getD 2 0, c.getD 3 0]
        let packed : List Int := [e, r.2, 0, 0]
        if ecKind i = 2 then ⟨picked, packed⟩ else ⟨packed, picked⟩

/-- The moves of an issued command. -/
def ECmd.moves (c : ECmd) : List Move := movesOf c.i c.da c.coords c.idx

/-- An index was out of range, so the phase's `STAT` is set (R176, R177). -/
def ecStat (i : Instr) (da db : Desc) (idx : List Nat) : Bool :=
  decide (2 ≤ ecKind i) && idx.any fun x => decide (x ≠ 0xFFFFFFFF ∧ (if ecKind i = 2 then da.dim 1 else db.dim 1) ≤ x)

/-- Byte addresses of an in-tensor element. -/
def Desc.elemAddrs (d : Desc) (c : List Int) : List Nat :=
  if d.inside (d.coords c) then
    match d.addrOf (d.coords c) with
    | none => []
    | some a => (List.range d.size).map (a + ·)
  else []

/-- The locations of addresses that translate. -/
def State.locsOf (s : State) (l : Launch) (w : Nat) (k : WKind) (as : List Nat) : List Loc :=
  as.filterMap fun a => match s.locAt l w a k with
    | .ok x => some x
    | .error _ => none

/-- The locations a copy command writes. -/
def State.ecDst (s : State) (l : Launch) (c : ECmd) : List Loc :=
  if c.cancelled then [] else s.locsOf l c.wref.wg .write (c.moves.flatMap fun m => c.db.elemAddrs m.dst)

/-- The locations a copy command reads. -/
def State.ecSrc (s : State) (l : Launch) (c : ECmd) : List Loc :=
  if c.cancelled then [] else s.locsOf l c.wref.wg .read ((c.moves.flatMap fun m => c.da.elemAddrs m.src).filter fun a => !inArgs a)

/-- The locations an `mst` writes (R126). -/
def State.mcDst (s : State) (l : Launch) (w : Nat) (c : MCmd) : List Loc :=
  match c.i with
  | .mst _ _ _ => s.locsOf l w .write ((boxCoords [c.da.box 0, c.da.box 1, 1, 1]).flatMap fun x =>
      c.da.elemAddrs (addCoords [c.o0.toInt, c.o1.toInt, 0, 0] x))
  | _ => []

/-- Some engine write to one of the locations, of a command with a key that p accepts, has not landed (R147, R152). DEDUCED, unsafe, log
19. -/
def State.pendingWrite (s : State) (l : Launch) (p : Key → Bool) (xs : List Loc) : Bool :=
  l.ecmds.any (fun c => !c.done && p c.key && (s.ecDst l c).any xs.contains)
    || (s.wgs.any fun w => decide (w.ref.launch = l.ref) && w.mcmds.any fun c =>
        !c.done && p c.key && (s.mcDst l w.ref.wg c).any xs.contains)
    || l.wdqs.any (fun r => !r.done && p r.key && (spadLocs r.wref.wg r.ans 4).any xs.contains)

/-- Every engine write to the locations with a clock below view v has landed (R152). -/
def State.landed (s : State) (l : Launch) (v : Nat) (xs : List Loc) : Bool :=
  !s.pendingWrite l (fun k => decide (k.clk < v)) xs

/-! ## Issue (R171 to R179, R369) -/

/-- The conditions of R173 and R77 on one descriptor of a copy command, besides validity; org is true on the side that the
coordinates move. -/
def descOk (i : Instr) (d : Desc) (c : List Int) (org : Bool) : Bool :=
  (decide (ecKind i < 2) || decide (2 ≤ d.rank))
    && (decide (d.fmt ≠ 5 ∧ d.fmt ≠ 9) || (decide (d.box 0 % 8 = 0) && (!org || decide (c.getD 0 0 % 8 = 0))))
    && ((ecKind i ≠ 1 && !(decide (ecKind i = 3) && decide (ecMode i % 2 = 1))) || [0, 1, 2, 8].contains d.fmt)

/-- The conditions on the pair (R173). -/
def descPairOk (i : Instr) (da db : Desc) : Bool :=
  decide (da.fmt = db.fmt) &&
    (if ecKind i < 2 then decide (da.rank = db.rank) && decide (da.boxes = db.boxes) else decide (da.box 0 = db.box 0))

/-- The A side is the one the coordinates move. -/
def orgOnA (i : Instr) : Bool := if ecKind i < 2 then ecMode i % 2 = 0 else ecKind i = 2

/-- The peer-window checks for a side as a whole (R173, R369 step 4). -/
def State.peerSide (s : State) (e : Env) (d : Desc) : Except Stop Unit :=
  match regionOf d.base with
  | some (.peer m _) =>
    if ¬ e.l.gang then .error (.fault 0x02 0 d.base)
    else if memberIdx e.w.ref.wg m = e.w.ref.wg then .ok ()
    else if ¬ e.f.peers.contains m then .error (.go (s.setF { e.f with st := .peer m }))
    else if s.peerGone e.l (memberIdx e.w.ref.wg m) e.key then .error (.fault 0x05 0 d.base)
    else .ok ()
  | _ => .ok ()

/-- An in-tensor element whose address cannot be formed cancels the command (R178). -/
def cancels (d : Desc) (c : List Int) : Bool := d.inside (d.coords c) && (d.addrOf (d.coords c)).isNone

/-- The check of one element: scratchpad bound or class (R178, R369 step 6). red is a reducing destination. -/
def elemCheck (e : Env) (d : Desc) (c : List Int) (k : AKind) : Except Stop Unit :=
  match d.elemAddrs c with
  | [] => .ok ()
  | a :: r =>
    match regionOf (BitVec.ofNat 64 a) with
    | none => .ok ()
    | some (.own o) => if e.l.spadLen < o + (r.length + 1) then .error (.fault 0x04 0 (BitVec.ofNat 64 a)) else .ok ()
    | some (.peer _ o) => if e.l.spadLen < o + (r.length + 1) then .error (.fault 0x04 0 (BitVec.ofNat 64 a)) else .ok ()
    | some (.glob va) => match classFault e k va with
      | some x => .error (.fault 0x06 x (BitVec.ofNat 64 a))
      | none => .ok ()

/-- The checks of every element in order, source before destination (R369 step 6). -/
def elemChecks (e : Env) (i : Instr) (da db : Desc) : List Move → Except Stop Unit
  | [] => .ok ()
  | m :: r => do
    elemCheck e da m.src .load
    elemCheck e db m.dst (if ecKind i = 1 then .atomic else .store)
    elemChecks e i da db r

/-- The barrier operand of an act: a live barrier at the act's key, else a barrier-object fault (R179, R187). While a lower `sbinit` may
still come, the word waits. DEDUCED, unsafe, log 14. -/
def State.liveBar (s : State) (e : Env) (a : Nat) : Except Stop StageBar :=
  let bad : Except Stop StageBar := .error (.fault 0x14 0 (BitVec.ofNat 64 a))
  if a % 64 ≠ 0 ∨ e.l.spadLen < a + 64 then bad
  else match e.w.bar? a with
    | some b => if keyLt b.made e.key then .ok b else bad
    | none => if s.sbinitPending e then .error (s.waitKeyed e) else bad

/-- Inserts an act in key order (R183). -/
def insertAct (x : SbAct) : List SbAct → List SbAct
  | [] => [x]
  | y :: r => if keyLt x.key y.key then x :: y :: r else y :: insertAct x r

/-- Queues an act on a barrier; it is applied in key order later (R183). -/
def State.queueAct (s : State) (e : Env) (a : Nat) (k : SbKind) : State :=
  s.updW e.w.ref fun w => w.updBar a fun b => { b with acts := insertAct ⟨e.key, k⟩ b.acts }

/-- The bytes a command registers (R179). -/
def ecBytes (i : Instr) (da : Desc) (idx : List Nat) : Nat :=
  if ecKind i < 2 then ((List.range da.rank).foldl (fun n k => n * da.box k) 1) * fmtBits da.fmt / 8
  else idx.length * da.box 0 * fmtBits da.fmt / 8

/-- Counter of the engine bytes landed (R341). -/
def ctrLanded : Nat := 10

/-- The index list of a gather or scatter, after its checks; it is read once the stage barriers live at the key are known (R176, R182, R369 step
3). DEDUCED, unsafe, log 62. -/
def State.indexList (s : State) (e : Env) (i : Instr) (aux count : Nat) : Except Stop (List Nat) :=
  if ecKind i < 2 then .ok []
  else do
    let x ← vget e.f aux
    let a := x.toNat
    let info := BitVec.ofNat 64 a
    if 0x100000 ≤ a then .error (.fault 0x02 0 info)
    else if a % 4 ≠ 0 then .error (.fault 0x03 0 info)
    else if e.l.spadLen < a + 4 * count then .error (.fault 0x04 0 info)
    else if s.sbinitComing e then .error (s.waitKeyed e)
    else if ¬ s.landed e.l e.f.view (spadLocs e.w.ref.wg a (4 * count)) then .error (.wait 5)
    else .ok ((List.range count).map fun k =>
      ofBytes ((spadLocs e.w.ref.wg (a + 4 * k) 4).map (s.readRd e.l e.rd)))

/-- Issues a copy command (R171, R369): checks in their order, the registration queued on the barrier, the command added. -/
def runCopy (s : State) (i : Instr) (crb da g db sba aux flags : Nat) : Host.Outcome State Fault Refusal :=
  runWord s (some g) 2 2 fun e => do
    vchk e.f ([crb, crb + 1, crb + 2, crb + 3, sba] ++ (if 2 ≤ ecKind i then [aux] else []))
    let cs ← vgets e.f crb 4
    let bar ← vget e.f sba
    let c := cs.map fun x => x.toInt
    let a := s.descEntry e da
    let b := s.descEntry e db
    let bad := fun (n : Nat) => (Except.error (.fault 0x12 0 (BitVec.ofNat 64 n)) : Except Stop (State × Fibre))
    if ¬ a.valid then bad da
    else if ¬ b.valid then bad db
    else if ¬ descOk i a c (orgOnA i) then bad da
    else if ¬ descOk i b c (!orgOnA i) then bad db
    else if ¬ descPairOk i a b then bad da
    else do
      let idx ← s.indexList e i aux (flags % 2 ^ 11)
      s.peerSide e a
      s.peerSide e b
      let ms := movesOf i a c idx
      let cancelled := ms.any fun m => cancels a m.src || cancels b m.dst
      if cancelled then .ok () else elemChecks e i a b ms
      let sb ← s.liveBar e bar.toNat
      let n := e.l.fresh
      let cmd : ECmd := { n := n, i := i, key := e.key, wref := e.w.ref, addr := e.f.pc, da := a, db := b,
                           coords := c, idx := idx,
                           bar := sb.addr, phase := none, bytes := ecBytes i a idx, cancelled := cancelled,
                           cause := if cancelled then 3 else 0, rd := e.rd,
                           waiting := false, skip := false, done := cancelled, widx := e.f.widx }
      .ok ((s.updL e.l.ref fun l => { l with fresh := n + 1, ecmds := l.ecmds ++ [cmd] }).queueAct e sb.addr (.reg n cmd.bytes), e.f)

/-- `cpy`: copies one box from A to B (R172, R174). -/
def execCpy (crb da mode g db sba aux flags : Nat) (s : State) : Host.Outcome State Fault Refusal :=
  runCopy s (.cpy crb da mode g db sba aux flags) crb da g db sba aux flags

/-- `cpyr`: combines one box of A into B (R172, R175). -/
def execCpyr (crb da mode g db sba aux flags : Nat) (s : State) : Host.Outcome State Fault Refusal :=
  runCopy s (.cpyr crb da mode g db sba aux flags) crb da g db sba aux flags

/-- `gath`: gathers the rows of A that an index list picks (R172, R176). -/
def execGath (crb da mode g db sba aux flags : Nat) (s : State) : Host.Outcome State Fault Refusal :=
  runCopy s (.gath crb da mode g db sba aux flags) crb da g db sba aux flags

/-- `scat`: scatters rows to the rows of B that an index list picks (R172, R177). -/
def execScat (crb da mode g db sba aux flags : Nat) (s : State) : Host.Outcome State Fault Refusal :=
  runCopy s (.scat crb da mode g db sba aux flags) crb da g db sba aux flags

/-! ## Stage-barrier words (R182, R187 to R189) -/

/-- A barrier in its reset state (R182, R187). -/
def newBar (a arrive : Nat) (k : Key) : StageBar :=
  { addr := a, made := k, arrive := arrive, phase := 0, pend := arrive, oexp := 0, oreg := 0, oland := 0, op := 0, ocause := 0,
    ocauseKey := none, ostat := false, cp := 0, cdone := true, cstat := false, ccause := 0, ccauseKey := none, creg := 0,
    cland := 0, acts := [] }

/-- `sbinit`: creates a barrier with b arrivals per phase; its bytes read 0 while it is live. It acts in key order, once no other fibre of
the workgroup can execute an `sbinit` of a lower key (R182, R183, R187). DEDUCED, unsafe, log 14; DEDUCED, unsafe, log 15. -/
def execSbinit (a b g : Nat) (s : State) : Host.Outcome State Fault Refusal :=
  runWord s (some g) 1 1 fun e => do
    vchk e.f [a, b]
    let x ← vget e.f a
    let y ← vget e.f b
    let n := x.toNat
    if n % 64 = 0 ∧ n + 64 ≤ e.l.spadLen ∧ (e.w.bar? n).isNone ∧ e.w.sbars.length < 64 ∧ s.sbinitPending e then .error (s.waitKeyed e)
    else if n % 64 ≠ 0 ∨ e.l.spadLen < n + 64 ∨ (e.w.bar? n).isSome ∨ 64 ≤ e.w.sbars.length then .error (.fault 0x14 0 (x.setWidth 64))
    else if y.toNat = 0 ∨ 65535 < y.toNat then .error (.fault 0x0B 0 (y.setWidth 64))
    else .ok (s.updW e.w.ref fun w => { w with sbars := w.sbars ++ [newBar n y.toNat e.key] }, e.f)

/-- `sbexp`: b more bytes expected (R187). -/
def execSbexp (a b g : Nat) (s : State) : Host.Outcome State Fault Refusal :=
  runWord s (some g) 1 1 fun e => do
    vchk e.f [a, b]
    let x ← vget e.f a
    let y ← vget e.f b
    let sb ← s.liveBar e x.toNat
    .ok (s.queueAct e sb.addr (.exp y.toNat), e.f)

/-- `sbarv`: b arrivals (R187). -/
def execSbarv (a b g : Nat) (s : State) : Host.Outcome State Fault Refusal :=
  runWord s (some g) 1 1 fun e => do
    vchk e.f [a, b]
    let x ← vget e.f a
    let y ← vget e.f b
    let sb ← s.liveBar e x.toNat
    if y.toNat = 0 ∨ 65535 < y.toNat then .error (.fault 0x0B 0 (y.setWidth 64))
    else .ok (s.queueAct e sb.addr (.arv y.toNat), e.f)

/-- `sbwait`: turns at its clock, then waits for the phase named by b (R188). -/
def execSbwait (a b g : Nat) (s : State) : Host.Outcome State Fault Refusal :=
  runSync s (some g) fun e => do
    vchk e.f [a, b]
    let x ← vget e.f a
    let y ← vget e.f b
    let sb ← s.liveBar e x.toNat
    if y.msb then .error (.fault 0x0B 0 (y.setWidth 64))
    else .ok (s.turnAt e.l e.f e.f.clk (.sbwait sb.addr y.toNat e.f.clk none))

/-- Which phase an operand names when phase n is open (R188): a phase number plus 1, so that the phase before phase 0 has a number too, or
none for a retired one. -/
def namedPhase (n b : Nat) : Option Nat :=
  let d := (b + 2 ^ 31 - n % 2 ^ 31) % 2 ^ 31
  if d < 2 ^ 30 then some (n + d + 1)
  else if d = 2 ^ 31 - 1 then some n
  else none

/-- A fibre that waits in `sbwait` on barrier b does not hold back its act of key K (R183): the phase it waits for is still open, or has
closed so high that the fibre goes on above K. DEDUCED, unsafe, log 15. -/
def sbExempt (b : StageBar) (k : Key) (g : Fibre) : Bool :=
  match sbOf g with
  | none => false
  | some (a, n) => decide (a = b.addr) && (match n with
    | none => true
    | some n => decide (b.phase < n) || decide (k.clk ≤ b.cp))

/-- Every act on the barrier with a key below K has been applied (R183, R188). DEDUCED, unsafe, log 15. -/
def State.actsBelowDone (s : State) (l : Launch) (w : Workgroup) (b : StageBar) (k : Key) (self : FRef) : Bool :=
  b.acts.all (fun x => !keyLt x.key k) &&
    (s.wgFibres w.ref).all fun g => decide (g.ref = self) || s.actPast l k g || sbExempt b k g

/-- `sbtest`: whether the named phase has closed at this key with P below the view, or its `STAT` bit (R189). -/
def execSbtest (d a b g : Nat) (s : State) : Host.Outcome State Fault Refusal :=
  runPlain s (some g) 1 1 fun e => do
    vchk e.f [a, b]
    let x ← vget e.f a
    let y ← vget e.f b
    let sb ← s.liveBar e x.toNat
    if ¬ s.actsBelowDone e.l e.w sb e.key e.f.ref then .error (.wait 14)
    else match namedPhase sb.phase (y.toNat % 2 ^ 31) with
      | none => .error (.fault 0x15 0x80 (x.setWidth 64))
      | some n =>
        if n = sb.phase ∧ sb.cp < e.f.view then
          if ¬ sb.cdone then .error (.wait 14)
          else
            let r := if y.msb then sb.cstat else true
            if r ∧ sb.ccause ≠ 0 then .error (.fault 0x15 sb.ccause (x.setWidth 64)) else .ok (psetPair e.f d r)
        else .ok (psetPair e.f d false)

/-! ## Descriptor loading and the work distributor (R191 to R193) -/

/-- The locations of entry n of a workgroup's descriptor table. -/
def descLocs (w n : Nat) : List Loc := (List.range 64).map fun k => .desc w (n * 64 + k)

/-- The bytes of a checked access as a load of the fibre reads them, waiting for landings (R138, R152). -/
def State.accBytes (s : State) (e : Env) (acc : Acc) : Except Stop (List Byte) :=
  match acc.args with
  | some bs => .ok bs
  | none =>
    if acc.cls ≠ .ordered then .ok (acc.locs.map (s.baseByte e.l.ref))
    else if s.landed e.l e.f.view (acc.locs.filter fun x => (e.rd.own.find? fun y => y.1 = x).isNone) then
      .ok (acc.locs.map (s.readRd e.l e.rd))
    else .error (.wait 5)

/-- `dset`: 64 bytes become entry n of the workgroup's descriptor table, pending until the next turn (R191). -/
def execDset (a i : Nat) (s : State) : Host.Outcome State Fault Refusal :=
  runPlain s none 1 1 fun e => do
    vchk e.f [a, a + 1]
    let x ← vget2 e.f a
    let acc ← s.access e x 64 64 .load
    let n := i % 256
    let _ ← s.pendBytesAt e (descLocs e.w.ref.wg n) (2 ^ 63 + n * 64) (List.replicate 64 0)
    let bs ← s.accBytes e acc
    s.pendBytesAt e (descLocs e.w.ref.wg n) (2 ^ 63 + n * 64) bs

/-- `wdset`: configures the launch's distributor at its key (R192). -/
def execWdset (a g : Nat) (s : State) : Host.Outcome State Fault Refusal :=
  runWord s (some g) 1 1 fun e => do
    vchk e.f [a, a + 1]
    let x ← vget2 e.f a
    let acc ← s.access e x 16 16 .load
    let bs ← s.accBytes e acc
    let v := ofBytes bs
    if v / 2 ^ 64 ≠ 0 ∨ 0xFFFFFFFF < v % 2 ^ 32 + bits v 63 32 then .error (.fault 0x0B 0 x)
    else .ok (s.updL e.l.ref fun l => { l with dist := l.dist ++ [(e.key, bits v 63 32, v % 2 ^ 32)] }, e.f)

/-- `wdq`: asks the distributor for an item, registering 4 bytes and one arrival on a barrier; a turn (R193). -/
def execWdq (a b g : Nat) (s : State) : Host.Outcome State Fault Refusal :=
  runSync s (some g) fun e => do
    vchk e.f [a, b]
    let x ← vget e.f a
    let y ← vget e.f b
    let o := x.toNat
    let info := x.setWidth 64
    if 0x100000 ≤ o then .error (.fault 0x02 0 info)
    else if o % 4 ≠ 0 then .error (.fault 0x03 0 info)
    else if e.l.spadLen < o + 4 then .error (.fault 0x04 0 info)
    else if (s.hitsBarrier e e.w.ref.wg o 4).isSome then .error (.fault 0x14 0 info)
    else if s.sbinitPending e then .error (s.waitKeyed e)
    else do
      let sb ← s.liveBar e y.toNat
      let n := e.l.fresh
      let t := (s.updL e.l.ref fun l => { l with fresh := n + 1, wdqs := l.wdqs ++ [⟨n, e.key, e.w.ref, o, sb.addr, none, false, (e.f.pc, e.f.widx)⟩] }).queueAct e
        sb.addr (.wdq n)
      .ok (t.turnAt e.l e.f e.f.clk (.leave (e.f.clk + 1)))

end Sys2Proof.Machine
end

