-- ==== Sys2Proof/Machine/Rings.lean ====
section
/-! DEFINITION. The rings of the partition page (R343, R349), and the samples and counts that accesses leave (R340, R341). -/

namespace Sys2Proof.Machine

/-! ## Rings (R343, R349) -/

/-- The physical address of a window offset in the granted granules (R343). -/
def windowAddr (p : Partition) (o : Nat) : Option Nat :=
  if o < 2 ^ 40 - 2 ^ 16 then (p.granules[o / 2 ^ 30]?).map fun g => g * 2 ^ 30 + o % 2 ^ 30 else none

/-- A ring at its reset values (R349). -/
def Ring.reset : Ring := { base := 0, en := false, logn := 0, drop := 0, tail := 0, head := 0 }

/-- Ring i of a partition. -/
def Partition.ring (p : Partition) (i : Nat) : Ring := p.rings.getD i Ring.reset

/-- A ring is full (R349). -/
def Ring.full (r : Ring) : Bool := decide ((r.head - r.tail).toNat = 2 ^ r.logn)

/-- A ring can take an entry. -/
def Ring.room (r : Ring) : Bool := r.en && !r.full

/-- Writes an entry of ring i, untranslated, and advances `HEAD` (R349). -/
def State.ringPut (s : State) (p : Partition) (i : Nat) (bs : List Byte) : State :=
  let r := p.ring i
  let o := r.base.toNat + bs.length * (r.head.toNat % 2 ^ r.logn)
  let t := match windowAddr p o with
    | some a => { s with mem := memPut s.mem a bs }
    | none => s
  t.updP p.id fun q => { q with rings := setAt q.rings i { r with head := r.head + 1 } }

/-- A record for sample ring i: written when there is room, else dropped, with `DROP` and counter 23 raised, where the ring is full or disabled;
the trace of bank conflicts is armed by its ring, and makes no record while that is disabled (R340, R349). DEDUCED, safe, log 46. -/
def State.sample (s : State) (n i : Nat) (bs : List Byte) : State :=
  match s.part? n with
  | none => s
  | some p =>
    let r := p.ring i
    if r.room then s.ringPut p i bs
    else if r.en || decide (i ≠ 4) then (s.updP n fun q => { q with rings := setAt q.rings i { r with drop := r.drop + 1 } }).count n 23 1
    else s

/-- The fields of a sample that name a place and a key: clock, clause, word, warp, lane (R340). -/
def sampleHead (clk : Nat) (oaddr : BitVec 57) (widx warp lane : Nat) : Nat :=
  lane * 2 ^ 108 + warp * 2 ^ 113 + widx * 2 ^ 139 + oaddr.toNat * 2 ^ 143 + clk * 2 ^ 200

/-- The scratchpad offset of a location. -/
def Loc.padOff? : Loc → Option Nat
  | .spad _ o => some o
  | _ => none

/-- The bank of a scratchpad byte address (R21). -/
def bankOf (a : Nat) : Nat := a / 8 % 64

/-- The 8-byte words of an access in turn, from the offsets of its bytes. -/
def wordsIn (offs : List Nat) : List Nat :=
  (offs.foldl (fun (r : List Nat) o => if r.head? = some (o / 8) then r else o / 8 :: r) []).reverse

/-- A bank-conflict record of a scratchpad access to 8-byte word n, the i-th of its act, where other accesses to its bank fall into its cycle; which do,
and how many words they name, is timing (R21, R340). DEDUCED, safe, log 46. -/
def State.sampleBank (s : State) (p i n : Nat) (oaddr : BitVec 57) (widx warp : Nat) : State :=
  if Config.serialises s.tick i then
    (s.sample p 4 (toBytes 16 (Config.localCycle s.tick i % 2 ^ 29 + (2 + Config.bankWords s.tick i % 31) * 2 ^ 29 + bankOf (8 * n) * 2 ^ 35
      + warp * 2 ^ 41 + widx * 2 ^ 67 + oaddr.toNat * 2 ^ 71))).count p 11 1
  else s

/-- What an access of the instruction at a clause and word leaves: a bank-conflict record for each 8-byte word of scratchpad whose cycle serialises,
and the cache counters where it goes to global memory (R21, R340, R341). DEDUCED, safe, log 46. -/
def State.noteAccess (s : State) (p : Nat) (xs : List Loc) (src : BitVec 57 × Nat) (warp : Nat) : State :=
  let ws := wordsIn (xs.filterMap Loc.padOff?)
  let t := ((List.range ws.length).zip ws).foldl (fun t x => t.sampleBank p x.1 x.2 src.1 src.2 warp) s
  if xs.any fun x => match x with
      | .phys _ => true
      | _ => false then t.countCache p else t

/-- The latency class of a load by its source: 0 the own scratchpad, 1 a peer's (at most 3 across quads), 2 the own quad's vault, 3 another
vault, 4 HBM. A page of HBM whose line is cached, which is timing, counts as the vault that caches it (R22, R242). DEDUCED, safe, log 46. -/
def loadClass (p : Partition) (w : Workgroup) (peerCore : Option Nat) (hit : Bool) (free : Nat) : Loc → Nat
  | .phys a =>
    let own := p.quads.getD (w.core.getD 0 / 4) 0
    let cls := fun (q : Nat) => if q = own then 2 else 3
    if 2 ^ 52 ≤ a then cls ((a - 2 ^ 52) / 2 ^ 28)
    else if hit then cls (p.quads.getD ((Config.cachePlace (a / 512)).1 % p.quads.length) 0) else 4
  | .spad n _ => if n = w.ref.wg then 0 else match peerCore, w.core with
    | some k, some c => if k / 4 = c / 4 then 1 else 1 + free % 3
    | _, _ => 1 + free % 3
  | .desc _ _ => 0

/-- The class of an outstanding load; that of a load of the argument window, whose source the spec does not name, is free (R22, R239).
DEDUCED, safe, log 46. -/
def State.classOfLoad (s : State) (p : Partition) (w : Workgroup) (o : Outst) : Nat :=
  match o.locs with
  | [] => 1 + Config.latencyClass s.tick % 4
  | x :: _ =>
    let peer := match x with
      | .spad n _ => (s.wg? { w.ref with wg := n }).bind (·.core)
      | _ => none
    loadClass p w peer (decide (0 < (Config.cacheEvents s.tick).1)) (Config.latencyClass s.tick) x

/-- What the arrival of a load's result adds to the counters and the sample rings (R340, R341). DEDUCED, safe, log 46. -/
def State.sampleLoad (s : State) (n : Nat) (w : Workgroup) (o : Outst) : State :=
  let t := s.noteAccess n o.locs (o.oaddr, o.widx) o.key.warp
  match s.part? n with
  | some p =>
    if Config.tagged s.tick then
      t.sample n 3 (toBytes 32 ((Config.latencyStages s.tick).toNat + s.classOfLoad p w o * 2 ^ 105
        + sampleHead o.key.clk o.oaddr o.widx o.key.warp o.key.lane))
    else t
  | none => t

end Sys2Proof.Machine
end

