-- ==== Sys2Proof/Machine/Matrix.lean ====
section
/-! DEFINITION. Matrix commands and tile accesses (R70 to R74, R111 to R130): the checks and the issue of commands, batches,
the arithmetic of a command's effect, and `mrd`, `mwr`, `mcommit` and `mwait`. -/

namespace Sys2Proof.Machine

/-! ## Tiles -/

/-- Element i of a tile; an element not listed is +0.0 (R17). -/
def elemGet : List (Nat × Word) → Nat → Word
  | [], _ => 0
  | (a, b) :: r, x => if a = x then b else if x < a then 0 else elemGet r x

/-- Writes element i of a tile, keeping the list ascending and without zeros. -/
def elemSet : List (Nat × Word) → Nat → Word → List (Nat × Word)
  | [], x, v => if v = 0 then [] else [(x, v)]
  | (a, b) :: r, x, v =>
    if x < a then (if v = 0 then (a, b) :: r else (x, v) :: (a, b) :: r)
    else if a = x then (if v = 0 then r else (x, v) :: r)
    else (a, b) :: elemSet r x v

/-- A tile of a workgroup. -/
def Workgroup.tile (w : Workgroup) (t : Nat) : Tile := w.tiles.getD t ⟨[], 0⟩

/-! ## Issue -/

/-- The box of one descriptor as origins and extents in dimensions 0 and 1. -/
def boxAt (c0 c1 : Int) (n0 n1 : Nat) : List (List Int) := (boxCoords [n0, n1, 1, 1]).map (addCoords [c0, c1, 0, 0])

/-- A descriptor in the shape and place that matrix commands require (R121). box0 asks for `BOX0` of 1 to 128 too. -/
def matDescOk (d : Desc) (box0 : Bool) : Bool :=
  decide (d.rank = 2) && decide (d.base.toNat < 0x100000) && decide (1 ≤ d.box 1 ∧ d.box 1 ≤ 128)
    && (!box0 || decide (1 ≤ d.box 0 ∧ d.box 0 ≤ 128))

/-- The address, as it stands before any bound, of an in-tensor element's first byte. The spec gives no outcome for an offset that
overflows 64 bits: it counts as 2^62, an address beyond the allocation, whose scratchpad-bound fault follows (R77, R121). DESIGN CHOICE,
unsafe, log 63. -/
def rawAddr (d : Desc) (c : List Int) : Int := d.base.toNat + d.swizzle ((d.offset c).getD (2 ^ 62))

/-- The addresses of in-tensor elements, and of their scales, that lie beyond the allocation (R121). -/
def beyondAlloc (l : Launch) (d : Desc) (scales : Bool) (cs : List (List Int)) : List Int :=
  let bad := fun (a : Int) (n : Nat) => if a < 0 ∨ (l.spadLen : Int) < a + n then some a else none
  (cs.filter d.inside).flatMap fun c =>
    (bad (rawAddr d c) d.size).toList ++
      (if scales then (bad (d.base.toNat + d.swizzle (d.scaleOff c)) d.scaleSize).toList else [])

/-- The least of some addresses, as signed numbers: one below 0, which lies beyond the allocation, is the lowest, and INFO shows its 64-bit
two's complement (R121). DEDUCED, unsafe, log 63. -/
def leastAddr : List Int → Option Int
  | [] => none
  | a :: r => match leastAddr r with
    | none => some a
    | some b => some (min a b)

/-- The command n of the fibre that a predecessor id names: its most recent earlier command with that id (R118). -/
def predOf (w : Workgroup) (uid id : Nat) : List Nat :=
  if id = 63 then []
  else match (w.mcmds.filter fun c => decide (c.uid = uid ∧ c.id = id)).getLast? with
    | none => []
    | some c => [c.n]

/-- The tile check (R111). -/
def tileCheck (e : Env) (t : Nat) : Except Stop Unit :=
  if t < e.l.tiles then .ok () else .error (.fault 0x10 0 (BitVec.ofNat 64 t))

/-- A command as issued by the fibre; id 63 for the commands that carry none. -/
def mcmdOf (e : Env) (i : Instr) (t id : Nat) (pres : List Nat) (da db : Desc) (o0 o1 : Word) : MCmd :=
  { n := e.l.fresh, i := i, key := e.key, uid := e.f.uid, batch := e.f.commits, tile := t, id := id, pres := pres, da := da,
    db := db, o0 := o0, o1 := o1, rd := e.rd, done := false, src := (e.f.pc, e.f.widx) }

/-- A fibre is running: neither parked nor in a wait with a state of its own (R119, R146). -/
def Fibre.running (g : Fibre) : Bool := g.st = .enter || g.st = .run

/-- The queue of the workgroup has an entry for the fibre: fewer than 64 commands are incomplete, or no running fibre of the workgroup has a
lower key, for which entries are reserved (R119). DEDUCED, safe, log 22. -/
def State.queueFree (s : State) (e : Env) : Bool :=
  decide ((e.w.mcmds.filter fun c => !c.done).length < 64)
    || (s.wgFibres e.w.ref).all fun g => decide (g.ref = e.f.ref) || !g.running || keyLt e.key (keyAt e.l g.ref g.clk)

/-- Queues a command on its tile, waiting while the queue is full (R112, R113, R119). -/
def State.issue (s : State) (e : Env) (c : MCmd) : Except Stop (State × Fibre) :=
  if s.queueFree e then
    .ok ((s.updL e.l.ref fun l => { l with fresh := l.fresh + 1 }).updW e.w.ref fun w => { w with mcmds := w.mcmds ++ [c] }, e.f)
  else .error (.wait 7)

/-- A descriptor of zeros, for commands without one. -/
def noDesc : Desc := descOf 0

/-- The formats an operand A of `mmf` (or `mmt`) may have, and those B may have with it (R70). -/
def fmtsA (ter : Bool) : List Nat := if ter then [9] else [1, 2, 3, 4, 5]
def fmtsB (a : Nat) : List Nat :=
  match a with
  | 1 => [1]
  | 2 => [2]
  | 3 => [3, 4]
  | 4 => [3, 4]
  | 5 => [5]
  | _ => [6, 7]

/-- Issues `mmf` or `mmt` (R121 to R123). -/
def runMul (s : State) (i : Instr) (ter : Bool) (tile da db mode id pre0 pre1 org kd : Nat) :
    Host.Outcome State Fault Refusal :=
  runWord s none 2 2 fun e => do
    tileCheck e tile
    schk e.p [org, org + 1]
    let a := s.descEntry e da
    let b := s.descEntry e db
    let bad := fun (code n : Nat) => (Except.error (.fault code 0 (BitVec.ofNat 64 n)) : Except Stop (State × Fibre))
    let o0 := sget e.p org
    let o1 := sget e.p (org + 1)
    let k0 := o0.toNat
    if ¬ a.valid then bad 0x12 da
    else if ¬ b.valid then bad 0x12 db
    else if ¬ matDescOk a false then bad 0x12 da
    else if ¬ matDescOk b false then bad 0x12 db
    else if ¬ (fmtsA ter).contains a.fmt then bad 0x11 da
    else if ¬ (fmtsB a.fmt).contains b.fmt then bad 0x11 db
    else if (a.fmt = 5 ∨ a.fmt = 9) ∧ k0 % 8 ≠ 0 then bad 0x12 da
    else
      let ca := boxAt k0 (o1.toNat % 2 ^ 16 : Nat) (8 * kd) (a.box 1)
      let cb := boxAt k0 (o1.toNat / 2 ^ 16 : Nat) (8 * kd) (b.box 1)
      match leastAddr (beyondAlloc e.l a (a.sfmt ≠ 0 && mode < 2) ca ++ beyondAlloc e.l b (b.sfmt ≠ 0) cb) with
      | some x => .error (.fault 0x04 0 (BitVec.ofInt 64 x))
      | none => s.issue e (mcmdOf e i tile id (predOf e.w e.f.uid pre0 ++ predOf e.w e.f.uid pre1) a b o0 o1)

/-- `mmf`: issues a floating matrix multiply (R123). -/
def execMmf (tile da db mode id pre0 pre1 org kd : Nat) (s : State) : Host.Outcome State Fault Refusal :=
  runMul s (.mmf tile da db mode id pre0 pre1 org kd) false tile da db mode id pre0 pre1 org kd

/-- `mmt`: issues a ternary matrix multiply (R123). -/
def execMmt (tile da db mode id pre0 pre1 org kd : Nat) (s : State) : Host.Outcome State Fault Refusal :=
  runMul s (.mmt tile da db mode id pre0 pre1 org kd) true tile da db mode id pre0 pre1 org kd

/-- `mzero`: issues the zeroing of a tile and its status word (R124). -/
def execMzero (d g : Nat) (s : State) : Host.Outcome State Fault Refusal :=
  runWord s (some g) 1 1 fun e => do
    tileCheck e d
    s.issue e (mcmdOf e (.mzero d g) d 63 [] noDesc noDesc 0 0)

/-- `mscale`: issues the scaling of a tile by s a, read now (R125). -/
def execMscale (d a g : Nat) (s : State) : Host.Outcome State Fault Refusal :=
  runWord s (some g) 1 1 fun e => do
    tileCheck e d
    schk e.p [a]
    s.issue e (mcmdOf e (.mscale d a g) d 63 [] noDesc noDesc (sget e.p a) 0)

/-- Issues `mld` or `mst` (R121, R126). -/
def runTileMove (s : State) (i : Instr) (d a n : Nat) : Host.Outcome State Fault Refusal :=
  runWord s none 1 1 fun e => do
    tileCheck e d
    schk e.p [a, a + 1]
    let t := s.descEntry e n
    let o0 := sget e.p a
    let o1 := sget e.p (a + 1)
    if ¬ t.valid ∨ ¬ matDescOk t true then .error (.fault 0x12 0 (BitVec.ofNat 64 n))
    else if ¬ [0, 1, 2, 8].contains t.fmt then .error (.fault 0x11 0 (BitVec.ofNat 64 n))
    else match leastAddr (beyondAlloc e.l t false (boxAt o0.toInt o1.toInt (t.box 0) (t.box 1))) with
      | some x => .error (.fault 0x04 0 (BitVec.ofInt 64 x))
      | none => s.issue e (mcmdOf e i d 63 [] t noDesc o0 o1)

/-- `mld`: issues the loading of a box into a tile (R126). -/
def execMld (d a i : Nat) (s : State) : Host.Outcome State Fault Refusal := runTileMove s (.mld d a i) d a (i % 256)

/-- `mst`: issues the storing of a box of a tile (R126). -/
def execMst (d a i : Nat) (s : State) : Host.Outcome State Fault Refusal := runTileMove s (.mst d a i) d a (i % 256)

/-- `mcommit`: closes the fibre's open batch (R116, R127). -/
def execMcommit (g : Nat) (s : State) : Host.Outcome State Fault Refusal :=
  runWord s (some g) 1 1 fun e =>
    .ok (s.updW e.w.ref fun w => { w with mlog := w.mlog ++ [.commit e.f.uid e.f.commits e.key] }, { e.f with commits := e.f.commits + 1 })

/-- `mwait`: returns once every batch but the n most recently committed is complete (R116, R127). -/
def execMwait (i : Nat) (s : State) : Host.Outcome State Fault Refusal :=
  runWord s none 1 1 fun e =>
    let n := e.f.commits - i % 64
    if e.w.mcmds.any fun c => decide (c.uid = e.f.uid ∧ c.batch < n) && !c.done then .error (.wait 10)
    else .ok (s.updW e.w.ref fun w => { w with mlog := w.mlog ++ [.wait e.f.uid n e.key] }, e.f)

/-! ## Tile accesses (R113, R117, R128) -/

/-- The matrix horizon of an act of fibre self lies above K: no other live fibre of the workgroup can act at or below it
(R113). -/
def State.matrixOk (s : State) (l : Launch) (w : WRef) (k : Key) (self : Nat) : Bool :=
  (s.wgFibres w).all fun g => decide (g.uid = self) || s.matrixBeyond l k g

/-- Tile t is open at key K (R117). -/
def tileOpen (w : Workgroup) (t : Nat) (k : Key) : Bool :=
  w.mcmds.any fun c => decide (c.tile = t) && keyLt c.key k &&
    !(w.mlog.any fun x => match x with
      | .wait uid n k' => decide (uid = c.uid ∧ c.batch < n) && keyLt k' k
      | .commit _ _ _ => false)

/-- Every command on tile t with a key below K has taken effect (R113). -/
def tileReady (w : Workgroup) (t : Nat) (k : Key) : Bool :=
  w.mcmds.all fun c => c.done || decide (c.tile ≠ t) || !keyLt c.key k

/-- The checks and the wait of a tile access at index i (R128). -/
def State.tileAccess (s : State) (e : Env) (t : Nat) (i : Word) : Except Stop Unit :=
  if 0x4000 ≤ i.toNat ∧ i.toNat ≠ 0x10000 then .error (.fault 0x0B 0 (i.setWidth 64))
  else if ¬ (s.matrixOk e.l e.w.ref e.key e.f.uid && tileReady e.w t e.key) then
    .error (if e.f.st = .tile then .wait 3 else .go (s.setF { e.f with st := .tile }))
  else if tileOpen e.w t e.key then .error (.fault 0x13 0 (BitVec.ofNat 64 t))
  else .ok ()

/-- `mrd`: d := the tile element (or status word) that v b selects, a long-latency result (R128, R130). -/
def execMrd (d a b g : Nat) (s : State) : Host.Outcome State Fault Refusal :=
  runPlain s (some g) 1 1 fun e => do
    vchk e.f [d, b]
    tileCheck e a
    let i ← vget e.f b
    s.tileAccess e a i
    let t := e.w.tile a
    let x := if i.toNat < 0x4000 then elemGet t.elems i.toNat else t.status.setWidth 32
    addOut e.f { kind := .tile, dst := e.f.dsts d 1, token := e.f.setTok, key := e.key, addr := a + 16 * i.toNat, size := 4,
                 sext := false, vals := some [x], rd := noRd, locs := [] }

/-- `mwr`: the tile element (or status word) that v b selects := v a (R128, R130). -/
def execMwr (d a b g : Nat) (s : State) : Host.Outcome State Fault Refusal :=
  runWord s (some g) 1 1 fun e => do
    vchk e.f [a, b]
    tileCheck e d
    let i ← vget e.f b
    let x ← vget e.f a
    s.tileAccess e d i
    let t := e.w.tile d
    let t' := if i.toNat < 0x4000 then { t with elems := elemSet t.elems i.toNat x } else { t with status := x.extractLsb' 0 2 }
    .ok (s.updW e.w.ref fun w => { w with tiles := setAt w.tiles d t' }, e.f)

/-! ## The effect of a command (R71 to R73, R123 to R126) -/

/-- Group size of `mmf` by format (R70). -/
def groupSize (t : Nat) : Nat := if t = 5 then 256 else if t = 3 ∨ t = 4 then 64 else 32

/-- The value of a group of exact products (R71): its NaN and infinity cases, else the truncated aligned sum rounded once.
nan says that an operand or a scale was NaN. -/
def groupValue (nan : Bool) (ps : List (FV × Bool)) : FV :=
  if nan || ps.any (fun p => p.2 || p.1.isNan) || (ps.any (fun p => p.1 = .inf true) && ps.any fun p => p.1 = .inf false) then
    .nan false false
  else match ps.find? fun p => p.1.isInf with
    | some p => p.1
    | none =>
      let nz := ps.filterMap fun p => match p.1 with
        | .fin n m e => if m = 0 then none else some (n, m, e)
        | _ => none
      match nz with
      | [] => .fin false 0 0
      | x :: r =>
        let top := r.foldl (fun (t : Int) y => max t (y.2.2 + Nat.log2 y.2.1)) (x.2.2 + Nat.log2 x.2.1)
        let sum := nz.foldl (fun (t : Int) y =>
          let sh := y.2.2 + 44 - top
          let v : Nat := if 0 ≤ sh then y.2.1 * 2 ^ sh.toNat else y.2.1 / 2 ^ (-sh).toNat
          if y.1 then t - v else t + v) 0
        if sum = 0 then .fin false 0 0
        else fp32.value (fp32.round rneRnd (decide (sum < 0)) sum.natAbs (top - 44)).bits

/-- An element's pattern as the command reads it; a scratchpad element always translates. -/
def State.matElem (s : State) (l : Launch) (w : Nat) (c : MCmd) (d : Desc) (x y : Int) : Nat :=
  match s.readPad l w c.rd d [x, y, 0, 0] with
  | .ok v => v
  | .error _ => 0

/-- The E8M0 scale code of an element: that of its block, 0x7F when it is padded (R79, R122). -/
def State.matScale8 (s : State) (l : Launch) (w : Nat) (c : MCmd) (d : Desc) (x y : Int) : Nat :=
  if d.inside [x, y, 0, 0] then s.readScale l w c.rd d [x, y, 0, 0] else 0x7F

/-- The value of group [lo, hi) of k for output (i, j) of an `mmf`. -/
def State.mmfGroup (s : State) (l : Launch) (w : Nat) (c : MCmd) (row col : Int) (lo hi : Nat) : FV :=
  let ks := (List.range (hi - lo)).map (lo + ·)
  let blk := decide (c.da.fmt = 5)
  let ps := ks.map fun (k : Nat) =>
    let a := fmtValue c.da.fmt (s.matElem l w c c.da k row)
    let b := fmtValue c.db.fmt (s.matElem l w c c.db k col)
    let sa := if blk then s.matScale8 l w c c.da k row else 127
    let sb := if blk then s.matScale8 l w c c.db k col else 127
    let p := a.times b
    let q := match p.1 with
      | .fin n m e => (FV.fin n m (e + sa + sb - 254), p.2)
      | v => (v, p.2)
    (a.isNan || b.isNan || decide (sa = 255) || decide (sb = 255), q)
  groupValue (ps.any (·.1)) (ps.map (·.2))

/-- The cuts [lo, hi) of a k range of length n from k0 into groups of g aligned at k0 (R71). -/
def cutsFrom (k0 n g : Nat) : List (Nat × Nat) :=
  (List.range ((n + g - 1) / g)).map fun j => (k0 + j * g, min (k0 + (j + 1) * g) (k0 + n))

/-- The cuts of a k range at every multiple of 256 (R73). -/
def cutsAt256 (k0 n : Nat) : List (Nat × Nat) :=
  (List.range ((k0 + n + 255) / 256 - k0 / 256)).map fun j => (max k0 ((k0 / 256 + j) * 256), min ((k0 / 256 + j + 1) * 256) (k0 + n))

/-- The digit of a TER2 code (R61). -/
def terDigit (x : Nat) : Int := if x = 1 then 1 else if x = 3 then -1 else 0

/-- One group of an `mmt` for output (i, j): the exact sum, the scale, whether code 10 was consumed (R73). -/
def State.mmtGroup (s : State) (l : Launch) (w : Nat) (c : MCmd) (row col : Int) (lo hi : Nat) : Int × FV × Bool :=
  let ks := (List.range (hi - lo)).map (lo + ·)
  let ts := ks.map fun (k : Nat) => s.matElem l w c c.da k row
  let xs := ks.map fun (k : Nat) =>
    let v := s.matElem l w c c.db k col
    if c.db.fmt = 6 then sx 8 v else (v : Int)
  let sum := (ts.zip xs).foldl (fun r y => r + terDigit y.1 * y.2) 0
  let scale := match ks.find? fun (k : Nat) => c.da.inside [(k : Int), row, 0, 0] with
    | some k => bf16.value (s.readScale l w c.rd c.da [(k : Int), row, 0, 0])
    | none => bf16.value 0x3F80
  (sum, scale, ts.contains 2)

/-- T + g under RNE (R72). -/
def accum (t : Word) (g : FV) : Word := BitVec.ofNat 32 (fp32.addF rneRnd (fp32.value t.toNat) g).bits

/-- S * scale rounded once; an exact sum of 0 gives +0 for a finite scale (R73). -/
def scaledSum (sum : Int) (scale : FV) : FV :=
  if sum = 0 ∧ ¬ scale.isNan ∧ ¬ scale.isInf then .fin false 0 0
  else fp32.value (fp32.mulF rneRnd (.fin (decide (sum < 0)) sum.natAbs 0) scale).bits

/-- T + S with INT32 saturation, and whether it saturated (R73). -/
def satAdd (t : Word) (sum : Int) : Word × Bool :=
  let v := t.toInt + sum
  if v < -(2 ^ 31) then (0x80000000#32, true) else if 2 ^ 31 - 1 < v then (0x7FFFFFFF#32, true) else (BitVec.ofInt 32 v, false)

/-- Sets status bits of a tile. -/
def Tile.mark (t : Tile) (c : Bool) (b : BitVec 2) : Tile := if c then { t with status := t.status ||| b } else t

/-- The pairs (i, j) of a box of m rows and n columns, row by row. -/
def outputs (m n : Nat) : List (Nat × Nat) := (List.range m).flatMap fun i => (List.range n).map fun j => (i, j)

/-- The tile after an `mmf` (R71, R72, R123). -/
def State.mmfTile (s : State) (l : Launch) (w : Nat) (c : MCmd) (mode kd : Nat) (t : Tile) : Tile :=
  (outputs (c.da.box 1) (c.db.box 1)).foldl (fun t x =>
    let n := 128 * x.1 + x.2
    let row : Int := (c.o1.toNat % 2 ^ 16 + x.1 : Nat)
    let col : Int := (c.o1.toNat / 2 ^ 16 + x.2 : Nat)
    let v0 := if mode % 2 = 1 then 0 else elemGet t.elems n
    let v := (cutsFrom c.o0.toNat (8 * kd) (groupSize c.da.fmt)).foldl (fun v g => accum v (s.mmfGroup l w c row col g.1 g.2)) v0
    { t with elems := elemSet t.elems n v }) t

/-- The tile after an `mmt` (R73, R123). -/
def State.mmtTile (s : State) (l : Launch) (w : Nat) (c : MCmd) (mode kd : Nat) (t : Tile) : Tile :=
  (outputs (c.da.box 1) (c.db.box 1)).foldl (fun t x =>
    let n := 128 * x.1 + x.2
    let row : Int := (c.o1.toNat % 2 ^ 16 + x.1 : Nat)
    let col : Int := (c.o1.toNat / 2 ^ 16 + x.2 : Nat)
    let t := if mode % 2 = 1 then { t with elems := elemSet t.elems n 0 } else t
    (cutsAt256 c.o0.toNat (8 * kd)).foldl (fun t g =>
      let y := s.mmtGroup l w c row col g.1 g.2
      let v := elemGet t.elems n
      let r := if mode / 2 = 0 then (accum v (scaledSum y.1 y.2.1), false) else satAdd v y.1
      (Tile.mark { t with elems := elemSet t.elems n r.1 } y.2.2 1).mark r.2 2) t) t

/-- The tile after an `mscale` (R125). -/
def scaleTile (x : Word) (t : Tile) : Tile :=
  { t with elems := (List.range 16384).foldl (fun es n =>
      elemSet es n (BitVec.ofNat 32 (fp32.mulF rneRnd (fp32.value (elemGet t.elems n).toNat) (fp32.value x.toNat)).bits)) t.elems }

/-- An element of `mld` as a tile element (R126). -/
def mldConv (t x : Nat) : Word :=
  if t = 1 then BitVec.ofNat 32 (widen (fp16.value x)).bits
  else if t = 2 then BitVec.ofNat 32 (widen (bf16.value x)).bits
  else BitVec.ofNat 32 x

/-- A tile element as an element of `mst` (R126). -/
def mstConv (t : Nat) (x : Word) : Nat :=
  if t = 1 then (fp16.narrow rneRnd (fp32.value x.toNat)).bits
  else if t = 2 then (bf16.narrow rneRnd (fp32.value x.toNat)).bits
  else x.toNat

/-- The tile after an `mld` (R126). -/
def State.mldTile (s : State) (l : Launch) (w : Nat) (c : MCmd) (t : Tile) : Tile :=
  (outputs (c.da.box 1) (c.da.box 0)).foldl (fun t x =>
    let v := mldConv c.da.fmt (s.matElem l w c c.da (c.o0.toInt + x.2) (c.o1.toInt + x.1))
    { t with elems := elemSet t.elems (128 * x.1 + x.2) v }) t

/-- The bytes that an `mst` writes; elements outside the tensor or on a barrier live at its key are not written (R126, R182). Where two elements share
an address, R126 gives no order: the later one stands, row by row with dimension 0 fastest. DESIGN CHOICE, unsafe, log 63. -/
def State.mstBytes (s : State) (l : Launch) (w : Nat) (c : MCmd) (t : Tile) : List PubByte :=
  (outputs (c.da.box 1) (c.da.box 0)).flatMap fun x =>
    let as := c.da.elemAddrs [c.o0.toInt + x.2, c.o1.toInt + x.1, 0, 0]
    if as.any fun a => s.shielded l.ref c.key (.spad w a) then []
    else (as.zip (toBytes 4 (mstConv c.da.fmt (elemGet t.elems (128 * x.1 + x.2))))).map fun y => ⟨.spad w y.1, y.2, 0xFF⟩

/-- The counter of a command (R341). -/
def matCounter (c : MCmd) : Option Nat :=
  match c.i with
  | .mmf _ _ _ _ _ _ _ _ _ => some (if c.da.fmt = 5 then 8 else if c.da.fmt = 3 ∨ c.da.fmt = 4 then 7 else 6)
  | .mmt _ _ _ _ _ _ _ _ _ => some 9
  | _ => none

/-- The tile after a command. -/
def State.matTile (s : State) (l : Launch) (w : Nat) (c : MCmd) (t : Tile) : Tile :=
  match c.i with
  | .mmf _ _ _ mode _ _ _ _ kd => s.mmfTile l w c mode kd t
  | .mmt _ _ _ mode _ _ _ _ kd => s.mmtTile l w c mode kd t
  | .mzero _ _ => ⟨[], 0⟩
  | .mscale _ _ _ => scaleTile c.o0 t
  | .mld _ _ _ => s.mldTile l w c t
  | _ => t

/-- The scratchpad locations a command reads. -/
def State.matSrc (s : State) (l : Launch) (w : Nat) (c : MCmd) : List Loc :=
  let ads := fun (d : Desc) (cs : List (List Int)) => (cs.flatMap d.elemAddrs) ++
    (if d.sfmt = 0 then [] else (cs.filter d.inside).flatMap fun x => (List.range d.scaleSize).filterMap fun (k : Nat) => d.byteAddr (d.scaleOff x + (k : Int)))
  let both := fun (kd : Nat) => ads c.da (boxAt c.o0.toNat (c.o1.toNat % 2 ^ 16 : Nat) (8 * kd) (c.da.box 1)) ++
    ads c.db (boxAt c.o0.toNat (c.o1.toNat / 2 ^ 16 : Nat) (8 * kd) (c.db.box 1))
  s.locsOf l w .read (match c.i with
    | .mmf _ _ _ _ _ _ _ _ kd => both kd
    | .mmt _ _ _ _ _ _ _ _ kd => both kd
    | .mld _ _ _ => ads c.da (boxAt c.o0.toInt c.o1.toInt (c.da.box 0) (c.da.box 1))
    | _ => [])

/-- A command that has not taken effect may do so: its turn on its tile has come, its predecessors are complete, and what it
reads is there (R113, R115, R118). -/
def State.matReady (s : State) (l : Launch) (g : Workgroup) (c : MCmd) : Bool :=
  !c.done && tileReady g c.tile c.key && (c.pres.all fun p => g.mcmds.all fun x => x.done || decide (x.n ≠ p))
    && s.landed l c.rd.view ((s.matSrc l g.ref.wg c).filter fun x => (c.rd.own.find? fun y => y.1 = x).isNone)

/-- A command takes its whole effect on its tile; `mst` publishes (R123 to R126). -/
def State.matEffect (s : State) (l : Launch) (g : Workgroup) (c : MCmd) : State :=
  let t := g.tile c.tile
  let s1 := s.updW g.ref fun g => { g with tiles := setAt g.tiles c.tile (s.matTile l g.ref.wg c t),
                                           mcmds := g.mcmds.map fun x => if x.n = c.n then { x with done := true } else x }
  let s2 := match c.i with
    | .mst _ _ _ => s1.updL l.ref fun l => l.publish { key := c.key, rank := 2, release := false, bytes := s.mstBytes l g.ref.wg c t, src := some c.src }
    | _ => s1
  let s3 := s2.noteAccess l.part (s.matSrc l g.ref.wg c) c.src c.key.warp
  match matCounter c with
  | some i => s3.count l.part i 1
  | none => s3

end Sys2Proof.Machine
end

