-- ==== Sys2Proof/Machine/Control.lean ====
section
/-! DEFINITION. Control transfer, fibres and waiting (R211 to R227): branch-target registers, jumps, calls and returns, `fork`
and `halt`, barriers, `cede`, `waitne`, `clk` and `nop`. -/

namespace Sys2Proof.Machine

/-- The target of branch-target register n and the fibre with the register prepared again, or the unprepared-target fault
(R213). -/
def transferTarget (e : Env) (n : Nat) : Except Stop (BitVec 57 × Fibre) :=
  match e.f.bregs.getD n ⟨.unprepared, 0⟩ with
  | ⟨.unprepared, _⟩ => .error (.fault 0x0C 0 (BitVec.ofNat 64 n))
  | ⟨_, t⟩ => .ok (t, e.f.prepare n t e.key)

/-- Number of instruction words of the fetched clause (R28). -/
def Fibre.clauseLen (f : Fibre) : Nat := bits f.hdr.toNat 31 28

/-- The header address of the clause after this one (R45). -/
def Fibre.seqNext (f : Fibre) : BitVec 57 := f.pc + BitVec.ofNat 57 (4 * (1 + f.clauseLen))

/-- `nop`: nothing (R227). -/
def execNop (g : Nat) (s : State) : Host.Outcome State Fault Refusal := runPlain s (some g) 1 1 fun e => .ok e.f

/-- `prep`: prepares b t with the header address of its clause plus 4 times the displacement (R35, R214). -/
def execPrep (t x : Nat) (s : State) : Host.Outcome State Fault Refusal :=
  runPlain s none 1 1 fun e =>
    .ok (e.f.prepare t (e.f.pc + BitVec.ofInt 57 (4 * sx 19 x)) e.key)

/-- `prepr`: prepares b d from the pair v a; a bad target is an illegal operand (R214). -/
def execPrepr (d a g : Nat) (s : State) : Host.Outcome State Fault Refusal :=
  runPlain s (some g) 1 1 fun e => do
    vchk e.f [a, a + 1]
    let x ← vget2 e.f a
    if x.toNat % 4 ≠ 0 ∨ (x.toNat / 2 ^ 56 ≠ 0 ∧ x.toNat / 2 ^ 56 ≠ 0xFF) then .error (.fault 0x0B 0 x)
    else .ok (e.f.prepare d (x.extractLsb' 0 57) e.key)

/-- `jmp`: the next clause is the target of b t (R216). -/
def execJmp (t g : Nat) (s : State) : Host.Outcome State Fault Refusal :=
  runPlain s (some g) 1 1 fun e => do
    let x ← transferTarget e t
    .ok { x.2 with npc := x.1 }

/-- `call`: the window moves up by 8 f registers, b7 and the new v0:v1 take the return address (R217). -/
def execCall (t g f : Nat) (s : State) : Host.Outcome State Fault Refusal :=
  runPlain s (some g) 1 1 fun e => do
    let x ← transferTarget e t
    let w := e.f.wbase + 8 * f
    if 248 < w ∨ e.f.regs.length < w + 2 then .error (.fault 0x09 0 (BitVec.ofNat 64 (w + 1)))
    else
      let r := e.f.seqNext
      let y := { x.2.prepare 7 r e.key with wbase := w, npc := x.1 }
      .ok (vset2 y 0 (r.signExtend 64))

/-- `ret`: the next clause is the target of b7, and the window moves down by 8 f registers (R217). -/
def execRet (g f : Nat) (s : State) : Host.Outcome State Fault Refusal :=
  runPlain s (some g) 1 1 fun e => do
    let x ← transferTarget e 7
    if e.f.wbase < 8 * f then .error (.fault 0x09 0 0)
    else .ok { x.2 with wbase := e.f.wbase - 8 * f, npc := x.1 }

/-- `fork`: after its checks the parent waits; it turns when its lane is decided, so that a fork which the convergence fault parks has taken
no turn (R156, R218, R219, R230). -/
def execFork (t g a : Nat) (s : State) : Host.Outcome State Fault Refusal :=
  runSync s (some g) fun e => do
    let x ← transferTarget e t
    vchk e.f [a]
    .ok (s.setF { e.f with st := .fork t x.1 a })

/-- `halt`: the fibre's stores are published at its key and it ends; the last halt of a workgroup fixes its exit key (R150,
R220). -/
def execHalt (g : Nat) (s : State) : Host.Outcome State Fault Refusal :=
  runSync s (some g) fun e =>
    let k := e.key
    let t := s.publishPend e.l e.f e.f.clk
    let t := { t with fibres := t.fibres.filter fun x => x.ref ≠ e.f.ref }
    let t := t.updWarp e.f.ref.wref e.f.ref.warp fun p => { e.f.outs.foldl (fun p o => p.landed o (o.vals.getD [])) p with
      halts := (e.f.ref.lane, k) :: p.halts.filter fun x => x.1 ≠ e.f.ref.lane }
    let x := if keyLt e.w.exitKey k then k else e.w.exitKey
    let t := t.updW e.f.ref.wref fun w => { w with exitKey := x }
    let t := if (t.wgFibres e.f.ref.wref).isEmpty then t.updL e.l.ref fun l => { l with exits := (e.w.ref.wg, x) :: l.exits } else t
    .ok ((t.count e.l.part 2 (e.f.newTurn e.f.clk)).count e.l.part 0 1)

/-- The checks of the barrier words (R222): the set the fibre names g, and that an arrival is outstanding or not. -/
def barCheck (e : Env) (g : Nat) (outstanding : Bool) : Except Stop Nat :=
  match e.setIdx? g with
  | none => .error (.fault 0x0B 0 (BitVec.ofNat 64 g))
  | some t => if e.f.arrOut.getD g false = outstanding then .ok t else .error (.fault 0x0E 0 (BitVec.ofNat 64 g))

/-- The fibre with its arrival count on g raised (R222). -/
def Fibre.arrive (f : Fibre) (g : Nat) : Fibre := { f with arr := setAt f.arr g (f.arr.getD g 0 + 1) }

/-- `bar`: arrives, a turn at its clock, and waits for the phase, excluded from the horizons (R148, R222). -/
def execBar (i : Nat) (s : State) : Host.Outcome State Fault Refusal :=
  runSync s none fun e => do
    let t ← barCheck e i false
    let k := e.f.arr.getD i 0 + 1
    let f := (e.f.arrive i).published e.f.clk
    .ok ((((s.publishPend e.l e.f e.f.clk).updL e.l.ref fun l => l.arrive t k e.f.clk).setF { f with st := .bar i k e.f.clk }).count
      e.l.part 2 (e.f.newTurn e.f.clk))

/-- `arv`: arrives as `bar` does, and goes on once the turn has completed (R222). -/
def execArv (i : Nat) (s : State) : Host.Outcome State Fault Refusal :=
  runSync s none fun e => do
    let t ← barCheck e i false
    let f := e.f.arrive i
    .ok ((s.updL e.l.ref fun l => l.arrive t (e.f.arr.getD i 0 + 1) e.f.clk).turnAt e.l { f with arrOut := setAt f.arrOut i true }
      e.f.clk (.leave (e.f.clk + 1)))

/-- `bwait`: waits, excluded, for the phase of the outstanding arrival (R222). -/
def execBwait (i : Nat) (s : State) : Host.Outcome State Fault Refusal :=
  runSync s none fun e => do
    let _ ← barCheck e i true
    .ok (s.setF { e.f with st := .bar i (e.f.arr.getD i 0) e.f.clk })

/-- `cede`: turns at the next boundary and leaves at it (R149, R225). -/
def execCede (g : Nat) (s : State) : Host.Outcome State Fault Refusal :=
  runSync s (some g) fun e =>
    let b := nextB e.l.q e.f.clk
    if clockTop ≤ b then .error (.fault 0x0A 0 0) else .ok (s.turnAt e.l { e.f with clk := b } b (.leave b))

/-- The address check of `waitne`: as a load, but a page that is not Ordered is a class fault of cause 4 (R226). -/
def State.waitneAccess (s : State) (e : Env) (ea : BitVec 64) : Except Stop Acc :=
  match regionOf ea with
  | some (.glob va) =>
    if ea.toNat % 4 ≠ 0 then .error (.fault 0x03 0 ea)
    else if (classOf e.l va).1 ≠ .ordered then .error (.fault 0x06 4 ea)
    else s.access e ea 4 4 .load
  | _ => s.access e ea 4 4 .load

/-- `waitne`: one test; a word that is equal means a turn at the next boundary and another test there (R149, R226). -/
def execWaitne (a b g : Nat) (s : State) : Host.Outcome State Fault Refusal :=
  runPlain s (some g) 1 1 fun e => do
    vchk e.f [a, a + 1, b]
    let x ← vget2 e.f a
    let y ← match e.f.wne with
      | some y => .ok y
      | none => vget e.f b
    let acc ← s.waitneAccess e x
    let bs ← s.accBytes e acc
    if BitVec.ofNat 32 (ofBytes bs) ≠ y then .ok e.f
    else
      let t := nextB e.l.q e.f.clk
      if clockTop ≤ t then .error (.fault 0x0A 0 0)
      else .error (.go (s.turnAt e.l { e.f with clk := t, wne := some y, pass := false, peers := [] } t .resume))

/-- `clk`: weighs 1 + n (R44, R227). -/
def execClk (i : Nat) (s : State) : Host.Outcome State Fault Refusal := runPlain s none 1 (1 + i) fun e => .ok e.f

end Sys2Proof.Machine
end

