-- ==== Sys2Proof/Machine/Trap.lean ====
section
/-! DEFINITION. `trap`, `brk`, `dbgm`, `icinv` and `ph` (R296 to R300), and the events of the debug mailbox (R330, R332,
R333). -/

namespace Sys2Proof.Machine

/-- `trap`: a stop with code 0x18 and INFO n (R296). -/
def execTrap (i : Nat) (s : State) : Host.Outcome State Fault Refusal :=
  runPlain s none 1 1 fun _ => .error (.fault 0x18 0 (BitVec.ofNat 64 i))

/-- `brk`: a stop with code 0x19 (R297). -/
def execBrk (g : Nat) (s : State) : Host.Outcome State Fault Refusal :=
  runPlain s (some g) 1 1 fun _ => .error (.fault 0x19 0 0)

/-! ## Events -/

/-- The 352 bits of an event (R332). -/
def eventBits (x : Event) : Nat :=
  x.kind + x.code * 2 ^ 4 + x.cause * 2 ^ 12 + x.warp * 2 ^ 20 + x.lmask.toNat * 2 ^ 46 + x.clk * 2 ^ 78
    + x.oaddr.toNat * 2 ^ 134 + x.widx * 2 ^ 191 + x.info.toNat * 2 ^ 195

/-- The mailbox ring holds 4 unconsumed events (R333). -/
def mboxFull (p : Partition) : Bool := decide (p.mbox.getD 16 0 - p.mbox.getD 17 0 = 4)

/-- Posts an event into its slot and raises EVHEAD (R330). -/
def postEvent (p : Partition) (x : Event) : Partition :=
  let h := p.mbox.getD 16 0
  let base := 20 + 11 * (h.toNat % 4)
  let ws := (List.range 11).map fun k => BitVec.ofNat 32 (eventBits x / 2 ^ (32 * k))
  let m := ((List.range 11).zip ws).foldl (fun m y => setAt m (base + y.1) y.2) p.mbox
  { p with mbox := setAt m 16 (h + 1) }

/-- Posts held events while there is room, oldest first (R333). -/
def flushEvents (p : Partition) : List Event → Partition
  | [] => { p with events := [] }
  | x :: r => if mboxFull p then { p with events := x :: r } else flushEvents (postEvent p x) r

/-- A message of a launch that is replayed, keyed at or below one that was delivered before, is not offered again (R320). -/
def Partition.told (p : Partition) (l : LRef) (k : Key) : Bool := p.toldOf.any fun x => decide (x.1 = l) && keyLe k x.2

/-- A message of a launch has been delivered with key K. -/
def Partition.tell (p : Partition) (l : LRef) (k : Key) : Partition :=
  match p.msgs.find? fun x => x.1 = l with
  | none => { p with msgs := (l, k) :: p.msgs }
  | some x => if keyLt x.2 k then { p with msgs := (l, k) :: p.msgs.filter fun y => y.1 ≠ l } else p

/-- `dbgm`: d := a, and a message for the debugger; it is dropped and counted without a debugger or room (R298). -/
def execDbgm (d a g : Nat) (s : State) : Host.Outcome State Fault Refusal :=
  runWord s (some g) 1 1 fun e => do
    vchk e.f [d, a]
    let x ← vget e.f a
    let ev : Event := { kind := 2, code := 0, cause := 0, warp := warpId e.l e.f.ref, lmask := BitVec.ofNat 32 (2 ^ e.f.ref.lane),
                        clk := e.f.clk, oaddr := e.f.pc, widx := e.f.widx, info := x.setWidth 64 }
    let t := match s.part? e.l.part with
      | none => s
      | some p =>
        if p.told e.l.ref e.key then s
        else if p.attached && !mboxFull p then s.updP p.id fun q => (postEvent q ev).tell e.l.ref e.key
        else s.count p.id 16 1
    .ok (t, vset e.f d x)

/-! ## `icinv` and `ph` -/

/-- The first address of [a, a + n) outside the half of the global region that a lies in, if any (R20, R299). -/
def firstOutside (a n : Nat) : Option Nat :=
  match regionOf (BitVec.ofNat 64 a) with
  | some (.glob _) => if (regionBounds a).2 < a + n then some (regionBounds a).2 else none
  | _ => some a

/-- `icinv`: the bytes of the range, as an engine command issued now reads them, become the code of the range for fetches
keyed above (R299). -/
def execIcinv (a b g : Nat) (s : State) : Host.Outcome State Fault Refusal :=
  runWord s (some g) 1 1 fun e => do
    vchk e.f [a, a + 1, b]
    let x ← vget2 e.f a
    let y ← vget e.f b
    if y = 0 then .ok (s, e.f)
    else
      let lo := x.toNat / 128 * 128
      let hi := (x.toNat + y.toNat + 127) / 128 * 128
      match firstOutside lo (hi - lo) with
      | some o => .error (.fault 0x02 0 (BitVec.ofNat 64 o))
      | none =>
        .ok (s.updL e.l.ref fun l => { l with fresh := l.fresh + 1, icinvs := l.icinvs ++ [⟨l.fresh, e.key, e.w.ref, lo, hi, e.rd, none⟩] }, e.f)

/-- Which of n physical registers a `ph` leaves live with window base w (R300). -/
def phLiveAt (n w flags : Nat) (lo hi : Word) : List Bool :=
  (List.range n).map fun k =>
    if k < w then flags % 2 = 0
    else if k < w + 32 then lo.getLsbD (k - w)
    else if k < w + 64 then hi.getLsbD (k - w - 32)
    else flags / 2 % 2 = 0

/-- Which physical registers a `ph` leaves live in a fibre (R300). -/
def phLive (f : Fibre) (flags : Nat) (lo hi : Word) : List Bool := phLiveAt f.regs.length f.wbase flags lo hi

/-- The fibre with its dead registers zero, results outstanding for them discarded (R300). -/
def phRegs (f : Fibre) (live : List Bool) : Fibre :=
  { f with regs := (f.regs.zip live).map (fun x => if x.2 then x.1 else 0),
           outs := f.outs.map fun o => { o with dst := o.dst.map fun d => match d with
             | some k => if live.getD k false then some k else none
             | none => none } }

/-- The release write of a `ph`: zeros outside its range, but for the stage barriers live at its key (R300). -/
def phRelease (e : Env) (spst splen : Nat) : Pub :=
  { key := e.key, rank := 2, release := true,
    bytes := ((List.range e.l.spadLen).filter fun o =>
      !(decide (256 * spst ≤ o ∧ o < 256 * (spst + splen))) && !(e.w.sbars.any fun b => keyLt b.made e.key && decide (b.addr ≤ o ∧ o < b.addr + 64))).map
        fun o => ⟨.spad e.w.ref.wg o, 0, 0xFF⟩ }

/-- `ph`: dead registers and scratchpad become zero, and the fibre reaches a pre-emption point when it leaves (R300). -/
def execPh (flags : Nat) (live0 live1 : Word) (spst splen : Nat) (s : State) : Host.Outcome State Fault Refusal :=
  runSyncN s none 4 4 fun e =>
    let live := phLive e.f flags live0 live1
    let t := s.updL e.l.ref fun l => l.publish (phRelease e spst splen)
    .ok ((t.moveClock e.l { (phRegs e.f live).past 4 with live := some live } (e.f.clk + 4)).count e.l.part 0 1)

end Sys2Proof.Machine
end

