-- ==== Sys2Proof/Machine/Harp.lean ====
section
/-! DEFINITION. The Harp (R196 to R208): the six words, which check their operands and then wait for their act, the
application of an act in key order, the retry of a stalled push, the retirement of groups, and the Harp stall. -/

namespace Sys2Proof.Machine

/-! ## Streams (R196 to R200) -/

/-- A closed stream. -/
def Stream.closed : Stream := { st := .closed, nb := 0, last := [], cons := [], f := 0, rclk := [] }

/-- Stream h of a workgroup. -/
def Workgroup.stream (w : Workgroup) (h : Nat) : Stream := w.harp.getD h Stream.closed

/-- Replaces stream h. -/
def State.setStream (s : State) (w : WRef) (h : Nat) (x : Stream) : State :=
  s.updW w fun g => { g with harp := setAt g.harp h x }

/-- The last group of body b (R196). -/
def Stream.lastOf (x : Stream) (b : Nat) : Nat := ((x.last.find? fun y => y.1 = b).map (·.2)).getD 0

/-- The bodies that slots name (R204). -/
def bodiesOf (slots : List Nat) : List Nat := (slots.filter fun b => b ≠ 0xFFFFFFFF).eraseDups

/-- The group that a push of these bodies gets (R198). -/
def Stream.groupFor (x : Stream) (slots : List Nat) : Nat :=
  max (1 + ((bodiesOf slots).map x.lastOf).foldl max 0) (x.f + 1)

/-- The stream after a push (R198). -/
def Stream.push (x : Stream) (slots : List Nat) (payload : Nat) : Stream :=
  let g := x.groupFor slots
  { x with cons := x.cons ++ [⟨payload, g, .waiting⟩],
           last := (bodiesOf slots).map (fun b => (b, g)) ++ x.last.filter fun y => !(bodiesOf slots).contains y.1 }

/-- The push fits (R200, R204): at most 64 groups beyond the executing one, and 65,536 constraints not retired. -/
def Stream.fits (x : Stream) (slots : List Nat) : Bool :=
  decide (x.groupFor slots ≤ x.f + 64) && decide (x.cons.length < 65536)

/-- The retirement clock of group n (R199). DEDUCED, unsafe, log 17. -/
def Stream.retiredAt (x : Stream) (n : Nat) : Nat := ((x.rclk.find? fun y => y.1 = n).map (·.2)).getD 0

/-- Marks the first constraint that p accepts (R205, R206). -/
def markFirst (p : Constraint → Bool) (st : CSt) : List Constraint → List Constraint
  | [] => []
  | c :: r => if p c then { c with st := st } :: r else c :: markFirst p st r

/-- Retires the executing group at clock c when all its constraints, of which there is at least one, are done; a draining
stream whose last group retires is closed (R196, R199). Retired constraints are no longer listed. -/
def Stream.retire (x : Stream) (c : Nat) : Option Stream :=
  let grp := x.cons.filter fun y => y.group = x.f + 1
  if grp.isEmpty || grp.any (fun y => y.st ≠ .done) then none
  else
    let y := { x with f := x.f + 1, cons := x.cons.filter (fun z => z.group ≠ x.f + 1), rclk := (x.f + 1, c) :: x.rclk }
    some (if y.st = .draining ∧ y.cons.isEmpty then { Stream.closed with rclk := y.rclk } else y)

/-! ## Waiters -/

/-- A fibre stalled in a push on the stream, its retry not fixed, or waiting in `hsync` on it: no retirement or close has released it (R197). -/
def onStream (h : Nat) (g : Fibre) : Bool :=
  match g.st with
  | .hstall x _ _ _ _ fixed => decide (x = h) && !fixed
  | .turn _ (.hstall x _ _ _ _ fixed) => decide (x = h) && !fixed
  | .hsync x _ _ => decide (x = h)
  | .turn _ (.hsync x _ _ none) => decide (x = h)
  | _ => false

/-- An act with key K on the stream can be applied (R183, R197). -/
def State.harpOk (s : State) (l : Launch) (w : WRef) (h : Nat) (k : Key) (self : FRef) : Bool :=
  (s.wgFibres w).all fun g => decide (g.ref = self) || onStream h g || s.actPast l k g

/-- A waiter after group x of stream h retired at clock r: stalled pushes get a retry clock, waiters for x turn (R204, R207). DEDUCED,
unsafe, log 17. -/
def State.wakeRetired (s : State) (l : Launch) (h x r : Nat) (g : Fibre) : State :=
  match g.st with
  | .hstall h' sl p c t false => if h' = h then s.setF { g with st := .hstall h' sl p c (max t (r + 1)) true } else s
  | .turn t (.hstall h' sl p c u false) =>
    if h' = h then s.setF { g with st := .turn t (.hstall h' sl p c (max u (r + 1)) true) } else s
  | .hsync h' y c => if h' = h ∧ y = x then s.raiseTurn l g (max c (r + 1)) (.leave (c + 1)) else s
  | .turn t (.hsync h' y c none) =>
    if h' = h ∧ y = x then s.setF { g with st := .turn t (.hsync h' y c (some (max c (r + 1)))) } else s
  | _ => s

/-- A waiter after stream h became closed: those in `hsync` leave, their turn at c being the only one (R207). -/
def State.wakeClosed (s : State) (l : Launch) (h : Nat) (g : Fibre) : State :=
  match g.st with
  | .hsync h' _ c => if h' = h then s.raiseTurn l g c (.leave (c + 1)) else s
  | .turn t (.hsync h' y c none) => if h' = h then s.setF { g with st := .turn t (.hsync h' y c (some c)) } else s
  | _ => s

/-! ## The words (R201 to R207) -/

/-- The fibre waits for its act, without turning (R202). -/
def waitHarp (s : State) (e : Env) (i : Instr) : State := s.setF { e.f with st := .harp i }

/-- `hopen`: the pair b gives NB, 1 to 2^24 (R201, R203). DEDUCED, unsafe, log 17. -/
def execHopen (a b g : Nat) (s : State) : Host.Outcome State Fault Refusal :=
  runSync s (some g) fun e => do
    vchk e.f [b, b + 1]
    let x ← vget2 e.f b
    if x.toNat = 0 ∨ 2 ^ 24 < x.toNat then .error (.fault 0x0B 0 x) else .ok (waitHarp s e (.hopen a b g))

/-- `hpush`: four body slots from v d, a payload in v b (R201, R204). -/
def execHpush (d a b g : Nat) (s : State) : Host.Outcome State Fault Refusal :=
  runSync s (some g) fun e => do
    vchk e.f [d, d + 1, d + 2, d + 3, b]
    let _ ← vgets e.f d 4
    let p ← vget e.f b
    if 0xFFFFFFFE ≤ p.toNat then .error (.fault 0x0B 0 (p.setWidth 64)) else .ok (waitHarp s e (.hpush d a b g))

/-- `hclose` (R201). -/
def execHclose (a g : Nat) (s : State) : Host.Outcome State Fault Refusal :=
  runSync s (some g) fun e => .ok (waitHarp s e (.hclose a g))

/-- `hnext`: the answer goes into v d when the act is applied; until then it counts among the outstanding results (R201, R205, R304). -/
def execHnext (d a g : Nat) (s : State) : Host.Outcome State Fault Refusal :=
  runSync s (some g) fun e => do
    vchk e.f [d]
    if 63 ≤ e.f.outCount then .error (.wait 6) else .ok (waitHarp s e (.hnext d a g))

/-- `hdone`: the payload in v b (R201, R206). -/
def execHdone (a b g : Nat) (s : State) : Host.Outcome State Fault Refusal :=
  runSync s (some g) fun e => do
    vchk e.f [b]
    let _ ← vget e.f b
    .ok (waitHarp s e (.hdone a b g))

/-- `hsync` (R201, R207). -/
def execHsync (a g : Nat) (s : State) : Host.Outcome State Fault Refusal :=
  runSync s (some g) fun e => .ok (waitHarp s e (.hsync a g))

/-! ## Applying an act (R197, R202) -/

/-- The register words of a fibre, whatever is outstanding. -/
def Fibre.reg (f : Fibre) (i : Nat) : Word := f.regs.getD (f.phys i) 0

/-- The handle whose act a Harp word makes. -/
def harpHandle : Instr → Nat
  | .hopen a _ _ => a
  | .hpush _ a _ _ => a
  | .hclose a _ => a
  | .hnext _ a _ => a
  | .hdone a _ _ => a
  | .hsync a _ => a
  | _ => 0

/-- The state a handle must be in (R202). -/
def harpStateOk (i : Instr) (st : HSt) : Bool :=
  match i with
  | .hopen _ _ _ => st = .closed
  | .hpush _ _ _ _ => st = .opened
  | .hclose _ _ => st = .opened
  | .hdone _ _ _ => st ≠ .closed
  | _ => true

/-- Wakes every fibre of the workgroup that waits on stream h, after it became closed when cl says so. -/
def State.wakeAll (s : State) (l : Launch) (w : WRef) (one : State → Fibre → State) (cl : Bool) (h : Nat) : State :=
  let t := (s.wgFibres w).foldl one s
  if cl then (t.wgFibres w).foldl (fun t g => t.wakeClosed l h g) t else t

/-- The first slot that is used and at or above NB, in the order of the registers: where several are, the spec does not say which one the
record carries (R204). DESIGN CHOICE, unsafe, log 17. -/
def badSlot (x : Stream) (slots : List Nat) : Option Nat := slots.find? fun b => decide (b ≠ 0xFFFFFFFF ∧ x.nb ≤ b)

/-- A push of clock c at its key (t, warp, lane): appended, or stalled again until the next retirement (R204). The spec does not say with
which clock a stalled push parks whose retry fails its checks: it parks with the clock t of the retry, which its record carries, and takes no
second turn. DESIGN CHOICE, unsafe, log 17. -/
def State.applyPush (s : State) (e : Env) (h : Nat) (slots : List Nat) (payload c t : Nat) : State :=
  let x := e.w.stream h
  let f := { e.f with clk := t }
  if x.st ≠ .opened then s.park { e with f := f } 0x16 0 (BitVec.ofNat 64 h)
  else match badSlot x slots with
    | some b => s.park { e with f := f } 0x0B 0 (BitVec.ofNat 64 b)
    | none =>
      if x.fits slots then
        ((s.setStream e.w.ref h (x.push slots payload)).raiseTurn e.l e.f t (.leave (max t (c + 1)))).ticked
      else match e.f.st with
        | .hstall _ _ _ _ _ _ => (s.setF { e.f with st := .hstall h slots payload c t false }).ticked
        | _ => (s.turnAt e.l e.f c (.hstall h slots payload c c false)).ticked

/-- The answer of an `hnext` at clock c, and the stream after it (R205). -/
def Stream.answer (x : Stream) (c : Nat) : Nat × Stream :=
  let p := fun (y : Constraint) => decide (y.group = x.f + 1) && decide (y.st = .waiting)
  match x.cons.find? p with
  | some y =>
    if x.f = 0 ∨ x.retiredAt x.f < c then (y.payload, { x with cons := markFirst p .handed x.cons }) else (0xFFFFFFFE, x)
  | none => (if x.st = .closed ∨ (x.st = .draining ∧ x.cons.isEmpty) then 0xFFFFFFFF else 0xFFFFFFFE, x)

/-- An `hdone` of payload p at the fibre's key: marks the constraint, and retires the group when it is the last (R199, R206). -/
def State.applyDone (s : State) (e : Env) (h p : Nat) : State :=
  let x := e.w.stream h
  let q := fun (y : Constraint) => decide (y.st = .handed) && decide (y.payload = p)
  let k := AfterTurn.leave (e.f.clk + 1)
  if ¬ x.cons.any q then s.park e 0x0B 0 (BitVec.ofNat 64 p)
  else
    let y := { x with cons := markFirst q .done x.cons }
    (match y.retire e.f.clk with
      | none => (s.setStream e.w.ref h y).turnAt e.l e.f e.f.clk k
      | some z =>
        let t := (s.setStream e.w.ref h z).turnAt e.l e.f e.f.clk k
        t.wakeAll e.l e.w.ref (fun t g => t.wakeRetired e.l h (x.f + 1) e.f.clk g) (decide (z.st = HSt.closed)) h).ticked

/-- The act of a Harp word at its key, all of its conditions met; the table of an opened stream takes cache from pins (R202 to R207, R284). -/
def State.applyHarp (s : State) (e : Env) (i : Instr) : State :=
  let h := harpHandle i
  let x := e.w.stream h
  let c := e.f.clk
  if ¬ harpStateOk i x.st then s.park e 0x16 0 (BitVec.ofNat 64 h)
  else match i with
    | .hopen _ b _ =>
      s.pass ((s.setStream e.w.ref h { Stream.closed with st := .opened, nb := (pair64 (e.f.reg b) (e.f.reg (b + 1))).toNat }).refitPins e.l.part)
        e e.f 1 1
    | .hpush d _ b _ =>
      s.applyPush e h ((List.range 4).map fun k => (e.f.reg (d + k)).toNat) (e.f.reg b).toNat c c
    | .hclose _ _ =>
      let t := s.setStream e.w.ref h (if x.cons.isEmpty then Stream.closed else { x with st := .draining })
      s.pass (t.wakeAll e.l e.w.ref (fun t _ => t) x.cons.isEmpty h) e e.f 1 1
    | .hnext d _ _ =>
      let y := x.answer c
      ((s.setStream e.w.ref h y.2).turnAt e.l (vset e.f d (BitVec.ofNat 32 y.1)) c (.leave (c + 1))).ticked
    | .hdone _ b _ => s.applyDone e h (e.f.reg b).toNat
    | _ =>
      if x.st = .closed then (s.turnAt e.l e.f c (.leave (c + 1))).ticked
      else (s.turnAt e.l e.f c (.hsync h (x.f + 1) c none)).ticked

/-- HARP_ACT_APPLY: the act of a fibre that waits for it, or the retry of its stalled push, applied in key order (R183, R197, R204).
DEDUCED, unsafe, log 17. -/
def execHarpActApply (r : FRef) (s : State) : Host.Outcome State Fault Refusal :=
  match s.env? r with
  | none => .next s
  | some e =>
    match e.f.st with
    | .harp i =>
      if s.harpOk e.l e.w.ref (harpHandle i) e.key r && e.moves then .next (s.applyHarp e i) else .next s
    | .hstall h slots p c t true =>
      if s.harpOk e.l e.w.ref h (keyAt e.l r t) r && e.moves then .next (s.applyPush e h slots p c t) else .next s
    | _ => .next s

/-- Phase k of set t still expects a live fibre of the workgroup, so that it cannot complete while every one of them waits (R208). -/
def State.barStuck (s : State) (l : Launch) (w : WRef) (t k : Nat) : Bool :=
  !s.phaseDone l t k && (s.wgFibres w).any fun g => match l.arrivals? g t with
    | none => false
    | some n => decide (n < k)

/-- The stream for which a fibre waits in the Harp, at a stalled push or in `hsync` (R208). -/
def inHarp (g : Fibre) : Option Nat :=
  match g.st with
  | .hstall h _ _ _ _ false => some h
  | .hsync h _ _ => some h
  | _ => none

/-- Every live fibre of the workgroup waits at a stalled push, in `hsync`, or at a barrier that cannot complete, and one at a push or `hsync`
(R208). In a launch that waits for what cannot happen no barrier can complete. DEDUCED, unsafe, log 17. -/
def State.harpStuck (s : State) (l : Launch) (dead : Bool) (w : WRef) : Bool :=
  let fs := s.wgFibres w
  let stuck := fun (g : Fibre) => match g.st with
    | .bar i k _ => dead || (match (l.setsOf (warpId l g.ref))[i]? with
      | some t => s.barStuck l w t k
      | none => true)
    | _ => (inHarp g).isSome
  fs.all stuck && l.preempt.isNone && fs.any fun g => (inHarp g).isSome

/-- Each fibre of the workgroup that waits in the Harp parks (R208). -/
def State.parkHarp (s : State) (w : WRef) : State :=
  (s.wgFibres w).foldl (fun t g => match inHarp g, t.env? g.ref with
    | some h, some e => t.park e 0x17 0 (BitVec.ofNat 64 h)
    | _, _ => t) s

end Sys2Proof.Machine
end

