-- ==== Sys2Proof/Machine/Turns.lean ====
section
/-! DEFINITION. The steps that keep the ordering promise (R136, R138 to R141, R146 to R148, R150, R218, R219): completion of
turns, atomics, barrier exits, forks, long-latency results, publications, and the waits of peer and Exclusive accesses. -/

namespace Sys2Proof.Machine

/-! ## Turns and barriers -/

/-- What a fibre does when its turn at clock t completes (R133, R136). -/
def State.endTurn (s : State) (e : Env) (t : Nat) (k : AfterTurn) : State :=
  let f := { e.f with view := t }
  match k with
  | .resume => s.setF { f with st := f.stand }
  | .leave c => (s.moveClock e.l (f.past 1) (max t c)).count e.l.part 0 1
  | .atom a => s.setF { f with st := .atom a }
  | .sbwait a b c n => s.setF { f with st := .sbwait a b c n }
  | .hstall h sl p c u fx => s.setF { f with st := .hstall h sl p c u fx }
  | .hsync h x c none => s.setF { f with st := .hsync h x c }
  | .hsync _ _ c (some u) =>
    if u ≤ t then (s.moveClock e.l (f.past 1) (max t (c + 1))).count e.l.part 0 1
    else s.raiseTurn e.l f u (.leave (c + 1))

/-- TURN_COMPLETION: a turn completes when the horizons allow it; the view becomes its clock (R136, R146, R147). -/
def execTurnCompletion (r : FRef) (s : State) : Host.Outcome State Fault Refusal :=
  runAct s (do
    let e ← s.env? r
    match e.f.st with
    | .turn t k => if e.moves && s.turnOk e.l e.w.ref.wg t then some ((s.endTurn e t k).count e.l.part 5 (Config.horizonCycles s.tick)) else none
    | _ => none)

/-- BARRIER_EXIT: a waiting fibre leaves its barrier with a turn at the exit clock once the phase is complete (R148, R221,
R222). -/
def execBarrierExit (r : FRef) (s : State) : Host.Outcome State Fault Refusal :=
  runAct s (do
    let e ← s.env? r
    match e.f.st with
    | .bar g k c => do
      let t ← e.setIdx? g
      if e.moves && s.phaseDone e.l t k then
        let x := e.l.exitClk t k
        if clockTop ≤ x then some (s.park e 0x0A 0 0)
        else some (s.raiseTurn e.l { e.f with arrOut := setAt e.f.arrOut g false } (max x c) (.leave (c + 1)))
      else none
    | _ => none)

/-! ## Atomics (R139, R140, R147) -/

/-- The fibre's atomic has performed while its workgroup was saved: its old value stands among the outstanding results (R304). -/
def Fibre.performed (f : Fibre) : Bool :=
  match f.st with
  | .atom _ => f.outs.any fun o => decide (o.kind = .atomic ∧ o.key.clk = f.clk)
  | _ => false

/-- The request of an atomic that a fibre has turned for and not performed. -/
def atomOf (f : Fibre) : Option AtomReq :=
  match f.st with
  | .turn _ (.atom a) => some a
  | .atom a => if f.performed then none else some a
  | _ => none

/-- Some engine read of a command of key below K still has to read one of the locations (R153). -/
def State.readPending (s : State) (l : Launch) (k : Key) (xs : List Loc) : Bool :=
  l.ecmds.any fun c => !c.done && keyLt c.key k && (s.ecSrc l c).any xs.contains

/-- The fibre has turned for an atomic on an Exclusive page with a key below K, and has not performed it (R141, R147). -/
def directAtomBelow (l : Launch) (k : Key) (g : Fibre) : Bool :=
  match atomOf g with
  | some a => a.direct && keyLt (keyAt l g.ref g.clk) k
  | none => false

/-- No fibre of the owning workgroup but `self` can still make an Exclusive access with a key below K (R147). DEDUCED, unsafe, log 11. -/
def State.ownerPast (s : State) (l : Launch) (w : WRef) (k : Key) (self : Option FRef) : Bool :=
  (s.wgFibres w).all fun g => decide (some g.ref = self) || s.beyond l k g && !directAtomBelow l k g

/-- A code rewrite of the workgroup keyed below K has still to read its bytes (R141, R299). DEDUCED, unsafe, log 18. -/
def Launch.rewriteBelow (l : Launch) (w : WRef) (k : Key) : Bool := l.icinvs.any fun v => v.bytes.isNone && decide (v.wref = w) && keyLt v.key k

/-- The fibres whose acts on a location are ordered with an access of workgroup w: those of the scope, and for a direct access
those of the workgroup. -/
def State.atomScope (s : State) (l : Launch) (w : WRef) (a : AtomReq) : List Fibre :=
  if a.direct then s.wgFibres w else s.scopeFibres l (a.locs.headD (.phys 0))

/-- Every act on the atomic's location with a key below its own has been made (R147). -/
def State.atomOk (s : State) (e : Env) (a : AtomReq) : Bool :=
  ((s.atomScope e.l e.w.ref a).all fun g => decide (g.ref = e.f.ref) ||
      (s.beyond e.l e.key g || s.heldPast e.key g) &&
        (match atomOf g with
          | some b => !(keyLt (keyAt e.l g.ref g.clk) e.key && b.locs.any a.locs.contains)
          | none => true))
    && !s.pendingWrite e.l (fun k => keyLt k e.key) a.locs
    && !(a.direct && (s.readPending e.l e.key a.locs || e.l.rewriteBelow e.w.ref e.key))

/-- The bytes of an atomic's new value, given those of the old one (R168, R169). -/
def atomBytes (a : AtomReq) (old : List Byte) : List Byte :=
  toBytes old.length (atomValue a.op (ofBytes old) a.b0 a.b1)

/-- The atomic performs: its value is published with its key, after the stores of its turn, and the old value is a
long-latency result (R139, R140). The fibre has still to leave the word. -/
def State.perform (s : State) (e : Env) (a : AtomReq) : Option State :=
  let old := a.locs.map fun x => if a.direct then s.baseByte e.l.ref x else s.valueAt e.l e.key 1 x
  let new := a.locs.zip (atomBytes a old)
  let s1 := if a.direct then (new.foldl (fun t x => t.putByte e.l.ref x.1 x.2) s).countCache e.l.part
    else s.updL e.l.ref fun l => l.publish
      { key := e.key, rank := 1, release := false, bytes := new.map fun x => ⟨x.1, x.2, 0xFF⟩, src := some (e.f.pc, e.f.widx) }
  let f := if a.direct then e.f else { e.f with ownPub := new.foldl putOwn e.f.ownPub }
  match addOut f { kind := .atomic, dst := a.dst.map some, token := f.setTok, key := e.key, addr := a.addr, size := old.length,
                   sext := false, vals := some (loadWords old.length false old), rd := noRd, locs := a.locs } with
  | .ok f => some (s1.setF f)
  | .error _ => none

/-! ## Forks (R218, R219) -/

/-- Another fibre of the warp may still halt or fork below the key of a fibre's fork: the lane cannot be decided (R219). DEDUCED, unsafe,
log 12. -/
def State.forkBlocked (s : State) (e : Env) : Bool :=
  !(s.warpFibres e.w.ref e.f.ref.warp).all (fun g => decide (g.ref = e.f.ref) || s.beyond e.l e.key g)

/-- Another fibre of the warp holds the fork back: its lane cannot be decided, or its turn cannot complete (R146, R219). DEDUCED, unsafe,
log 12. -/
def State.forkHeld (s : State) (e : Env) : Bool :=
  s.forkBlocked e || (s.warpFibres e.w.ref e.f.ref.warp).any fun g => decide (g.ref ≠ e.f.ref) && !s.allowsTurn e.l e.f.clk g

/-- Lane n of the fibre's warp is free at key K (R218). -/
def State.laneFree (s : State) (e : Env) (k : Key) (n : Nat) : Bool :=
  (s.warpFibres e.w.ref e.f.ref.warp).all (fun g => g.ref.lane ≠ n) && (e.p.halts.all fun h => h.1 ≠ n || keyLt h.2 k)

/-- The child of a fork in lane n (R218). DEDUCED, unsafe, log 26. -/
def childOf (e : Env) (target : BitVec 57) (a n : Nat) : Fibre :=
  { ref := { e.f.ref with lane := n }, uid := e.l.fresh, pc := target, npc := target, hdr := 0, words := [], widx := 0, st := .enter,
    preds := e.f.preds, wbase := e.f.wbase,
    regs := setAt e.f.regs (e.f.phys a) (BitVec.ofNat 32 (0x80000000 + e.f.ref.lane)),
    bregs := e.f.bregs, bkeys := e.f.bkeys, clk := e.f.clk, view := e.f.clk, pend := [], ownPub := e.f.ownPub, ownClk := e.f.clk, fflags := e.f.fflags,
    rmode := e.f.rmode, seed := e.f.seed, outs := [], arr := e.f.arr, arrOut := List.replicate 4 false, commits := 0, wne := none,
    pass := false, form := e.l.forkForm e.f, leaving := e.f.leaving, suppress := false, stepping := .off, halted := false, live := none }

/-- The fibre of a fork with its branch-target register prepared, its stores published by a turn at its clock, and that turn complete
(R136, R213, R218). -/
def Fibre.forked (f : Fibre) (n : Nat) (x : BitVec 57) (k : Key) : Fibre :=
  { (f.prepare n x k).published f.clk with view := f.clk }

/-- FORK_LANE_DECISION: once no other fibre of the warp can halt or fork below it and its turn may complete, the fork turns and takes the
lowest lane free at its key; the copied registers have received their outstanding results (R42, R218, R219). DEDUCED, unsafe, log 26. -/
def execForkLaneDecision (r : FRef) (s : State) : Host.Outcome State Fault Refusal :=
  runAct s (do
    let e ← s.env? r
    match e.f.st with
    | .fork b x a =>
      if e.moves && (e.f.outs.all fun o => o.dst.all (·.isNone)) && !s.forkBlocked e && s.turnOk e.l e.w.ref.wg e.f.clk then
        let s := (s.publishPend e.l e.f e.f.clk).count e.l.part 2 (e.f.newTurn e.f.clk)
        let e := { e with f := e.f.forked b x e.key }
        let lane := (List.range 32).find? (s.laneFree e e.key)
        let res := match lane with
          | some n => BitVec.ofNat 32 n
          | none => 0xFFFFFFFF#32
        let t := (s.moveClock e.l ((vset e.f a res).past 1) (e.f.clk + 1)).count e.l.part 0 1
        match lane with
        | none => some t
        | some n =>
          let c := childOf e x a n
          some (({ t with fibres := t.fibres ++ [c] }.updL e.l.ref fun l => { l with fresh := l.fresh + 1 }).moveClock e.l c (c.clk + 1))
      else none
    | _ => none)

/-! ## Long-latency results (R42, R46) -/

/-- The words of an outstanding result, once they are known (R138, R147, R152). -/
def State.outVals (s : State) (l : Launch) (o : Outst) : Option (List Word) :=
  match o.vals with
  | some ws => some ws
  | none =>
    if s.landed l o.rd.view (o.locs.filter fun x => (o.rd.own.find? fun y => y.1 = x).isNone) then
      some (loadWords o.size o.sext (o.locs.map (s.readRd l o.rd)))
    else none

/-- The registers after a result's words are written, but for those a later write superseded. -/
def writeOuts (regs : List Word) (ds : List (Option Nat)) (ws : List Word) : List Word :=
  (ds.zip ws).foldl (fun r x => match x.1 with
    | some k => setAt r k x.2
    | none => r) regs

/-- LONG_LATENCY_RESULT: outstanding result n of the fibre arrives in its registers; a load's may be sampled (R42, R46, R138,
R340). -/
def execLongLatencyResult (r : FRef) (n : Nat) (s : State) : Host.Outcome State Fault Refusal :=
  runAct s (do
    let e ← s.env? r
    let o ← e.f.outs[n]?
    let ws ← s.outVals e.l o
    if e.w.core.isSome then
      let t := (s.setF { e.f with regs := writeOuts e.f.regs o.dst ws, outs := e.f.outs.eraseIdx n }).updWarp e.w.ref e.p.j fun p =>
        p.landed o ws
      some (if o.kind = .load then t.sampleLoad e.l.part e.w o else t)
    else none)

/-! ## Publications (R136, R138, R140, R147) -/

/-- No fibre, engine or outstanding load can still need a location without a publication of key k (R147, R153): every counted fibre of the
scope has a view above its clock and every waiter a bound above it. DEDUCED, unsafe, log 19. -/
def State.seenBeyond (s : State) (l : Launch) (k : Key) (x : Loc) : Bool :=
  (s.scopeFibres l x).all (fun g => match s.bound? l g with
    | some b => decide (k.clk < b)
    | none => decide (k.clk < g.view))
  && (match x with
    | .phys _ => decide (l.wgCount ≤ l.next)
    | _ => true)

/-- Some command or load that was issued with a view at or below clock c still has to read one of the locations (R115, R147, R153).
DEDUCED, unsafe, log 19. -/
def State.readerBelow (s : State) (l : Launch) (c : Nat) (xs : List Loc) : Bool :=
  l.ecmds.any (fun m => !m.done && decide (m.rd.view ≤ c) && (s.ecSrc l m).any xs.contains)
  || (s.wgs.any fun w => decide (w.ref.launch = l.ref) && w.mcmds.any fun m =>
      !m.done && decide (m.rd.view ≤ c) && (s.matSrc l w.ref.wg m).any xs.contains)
  || l.icinvs.any (fun v => v.bytes.isNone && decide (v.rd.view ≤ c))
  || (s.launchFibres l.ref).any fun f => f.outs.any fun o => o.vals.isNone && decide (o.rd.view ≤ c) && o.locs.any xs.contains

/-- The release blocks of a workgroup after a write to its byte at offset o (R300, R303). -/
def relAfter (release : Bool) (o : Nat) (rel : List Nat) : List Nat :=
  let r := rel.filter (· ≠ o / 256)
  if release then o / 256 :: r else r

/-- Writes one byte of a publication into storage. -/
def State.applyByte (s : State) (l : LRef) (release : Bool) (b : PubByte) : State :=
  let t := s.putByte l b.loc ((s.baseByte l b.loc &&& ~~~b.mask) ||| (b.val &&& b.mask))
  match b.loc with
  | .spad n o => t.updW ⟨l, n⟩ fun w => { w with rel := relAfter release o w.rel }
  | _ => t

/-- What a publication leaves when its bytes are written: its accesses are noted for the instruction that made it (R21, R340, R341). DEDUCED, safe,
log 46. -/
def State.samplePub (s : State) (l : Launch) (p : Pub) : State :=
  match p.src with
  | some x => s.noteAccess l.part (p.bytes.map (·.loc)) x p.key.warp
  | none => s

/-- One of the locations lies in a workgroup that stands in the host's context image (R120, R303). -/
def State.intoImage (s : State) (r : LRef) (xs : List Loc) : Bool :=
  s.wgs.any fun w => w.image.isSome && decide (w.ref.launch = r) && xs.any fun x => match x with
    | .spad n _ => decide (n = w.ref.wg)
    | .desc n _ => decide (n = w.ref.wg)
    | .phys _ => false

/-- PUBLICATION_APPLY: publication n of the launch, all earlier ones of its bytes applied, is written to memory; one that reaches a workgroup in
the host's image is held until that is restored (R120, R138, R140, R147).
DEDUCED, unsafe, log 19. -/
def execPublicationApply (r : LRef) (n : Nat) (s : State) : Host.Outcome State Fault Refusal :=
  runAct s (do
    let l ← s.launch? r
    let p ← l.pubs[n]?
    let xs := p.bytes.map (·.loc)
    if (l.pubs.take n).all (fun q => q.bytes.all fun b => !xs.contains b.loc)
        && xs.all (s.seenBeyond l p.key) && !s.readerBelow l p.key.clk xs
        && !s.pendingWrite l (fun k => keyLt k p.key) xs && !s.intoImage r xs then
      some ((p.bytes.foldl (fun t b => t.applyByte r p.release b) (s.updL r fun l => { l with pubs := l.pubs.eraseIdx n })).samplePub l p)
    else none)

/-! ## Waits before an access (R141, R147, R150) -/

/-- PEER_WINDOW_ACCESS: the access may proceed once every live fibre of the member is past its key, or the member has ended
(R147). -/
def execPeerWindowAccess (r : FRef) (s : State) : Host.Outcome State Fault Refusal :=
  runAct s (do
    let e ← s.env? r
    match e.f.st with
    | .peer m =>
      if e.moves && (s.wgFibres { e.w.ref with wg := memberIdx e.w.ref.wg m }).all (s.beyond e.l e.key) then
        some (s.setF { e.f with st := .run, pass := true, peers := m :: e.f.peers })
      else none
    | _ => none)

/-- DIRECT_EXCLUSIVE_ACCESS: the access may proceed once no fibre of the owner can act below its key, and the owner's engine
commands and code rewrites of smaller keys are done (R141, R147, R152, R299). -/
def execDirectExclusiveAccess (r : FRef) (s : State) : Host.Outcome State Fault Refusal :=
  runAct s (do
    let e ← s.env? r
    match e.f.st with
    | .excl =>
      if e.moves && s.ownerPast e.l e.w.ref e.key (some e.f.ref)
          && e.l.ecmds.all (fun c => c.done || decide (c.wref ≠ e.w.ref) || !keyLt c.key e.key) && !e.l.rewriteBelow e.w.ref e.key then
        some (s.setF { e.f with st := .run, pass := true })
      else none
    | _ => none)

end Sys2Proof.Machine
end

