-- ==== Sys2Proof/Machine/Stage.lean ====
section
/-! DEFINITION. The steps of the engines (R152 to R154, R174 to R194, R299): running a copy command, applying acts to stage
barriers, closing and settling phases, answering the work distributor's requests, and applying `icinv`. -/

namespace Sys2Proof.Machine

/-! ## Running a copy command (R174 to R178, R180) -/

/-- The operation of a combining command on two element patterns (R175): o is 0 add, 1 min, 2 max. -/
def combine (t o x y : Nat) : Nat :=
  let fp := fun (f : Fmt) =>
    if o = 0 then (f.addF rneRnd (f.value x) (f.value y)).bits else (f.minmax (decide (o = 2)) x y).bits
  if t = 0 then fp fp32
  else if t = 1 then fp fp16
  else if t = 2 then fp bf16
  else
    let a : Word := BitVec.ofNat 32 x
    let b : Word := BitVec.ofNat 32 y
    (if o = 0 then a + b else if o = 1 then (if b.slt a then b else a) else if a.slt b then b else a).toNat

/-- The bytes of an element pattern at coordinates, with the bits they carry (R62, R178). -/
def elemBytes (d : Desc) (c : List Int) (v : Nat) : List (Nat × Byte × Byte) :=
  if fmtBits d.fmt < 8 then
    let sh := d.bitOf (d.coords c)
    (d.elemAddrs c).map fun a => (a, BitVec.ofNat 8 (v * 2 ^ sh), BitVec.ofNat 8 ((2 ^ fmtBits d.fmt - 1) * 2 ^ sh))
  else ((d.elemAddrs c).zip (toBytes d.size v)).map fun x => (x.1, x.2, 0xFF)

/-- An element of a running command: its destination bytes' locations and the bits written. -/
structure Landing where
  locs : List Loc
  direct : Bool
  bytes : List PubByte
  deriving DecidableEq, Repr

/-- The value a byte has for a combining command at key K, under what the command itself wrote before (R139, R175). -/
def State.combineByte (s : State) (l : Launch) (k : Key) (direct : Bool) (done : List Landing) (x : Loc) : Byte :=
  let base := if direct then s.baseByte l.ref x else s.valueAt l k 2 x
  (done.flatMap (·.bytes)).foldl (fun b y => if y.loc = x then (b &&& ~~~y.mask) ||| (y.val &&& y.mask) else b) base

/-- The destination of an address is a page Exclusive to the workgroup (R141). -/
def directAddr (l : Launch) (a : Nat) : Bool :=
  match regionOf (BitVec.ofNat 64 a) with
  | some (.glob va) => !inArgs va && decide ((classOf l va).1 = .exclusive)
  | _ => false

/-- One move of a command: nothing for a dropped element, the cause of a translation fault, or the element written after
those already done (R174 to R178). -/
def State.moveElem (s : State) (l : Launch) (c : ECmd) (done : List Landing) (m : Move) : Except Nat (Option Landing) :=
  let w := c.wref.wg
  match c.db.elemAddrs m.dst with
  | [] => .ok none
  | a :: r => do
    let x ← s.readPad l w c.rd c.da m.src
    let locs ← (a :: r).mapM fun b => s.locAt l w b .write
    let direct := directAddr l a
    let o := ecMode c.i / 2
    let same := done.any fun y => decide (y.locs = locs)
    let v := if ecKind c.i = 1 ∨ (ecKind c.i = 3 ∧ ecMode c.i % 2 = 1 ∧ same) then
        combine c.db.fmt o (ofBytes (locs.map (s.combineByte l c.key direct done))) x
      else x
    .ok (some ⟨locs, direct, (locs.zip (elemBytes c.db m.dst v)).map fun y => ⟨y.1, y.2.2.1, y.2.2.2⟩⟩)

/-- The elements a command writes, in order; the number of those that met an untranslated page; and of those that met a live barrier, which
drops them (R180, R182). DEDUCED, unsafe, log 20. -/
def State.runMoves (s : State) (l : Launch) (c : ECmd) : List Move → List Landing → Nat → Nat → List Landing × Nat × Nat
  | [], done, f, b => (done, f, b)
  | m :: r, done, f, b =>
    match s.moveElem l c done m with
    | .error _ => s.runMoves l c r done (f + 1) b
    | .ok none => s.runMoves l c r done f b
    | .ok (some y) =>
      if y.locs.any (s.shielded l.ref c.key) then s.runMoves l c r done f (b + 1)
      else s.runMoves l c r (done ++ [y]) f b

/-- The source side reads pages Exclusive to the workgroup. -/
def ecDirectSrc (l : Launch) (c : ECmd) : Bool := c.moves.any fun m => (c.da.elemAddrs m.src).any (directAddr l)

/-- The destination side is Exclusive to the workgroup. -/
def ecDirectDst (l : Launch) (c : ECmd) : Bool := c.moves.any fun m => (c.db.elemAddrs m.dst).any (directAddr l)

/-- No `sbinit` of a key below K can still come on the scratchpads that hold one of the locations, so that the barriers live at K are
known (R182, R183). DEDUCED, unsafe, log 14. -/
def State.barsKnown (s : State) (l : Launch) (k : Key) (xs : List Loc) : Bool :=
  ((xs.filterMap fun x => match x with
    | .spad n _ => some n
    | _ => none).eraseDups).all fun n => !s.sbinitBelow l ⟨l.ref, n⟩ k none

/-- A command may run (R141, R147, R152, R153, R175, R182). DEDUCED, unsafe, log 20. -/
def State.ecReady (s : State) (l : Launch) (c : ECmd) : Bool :=
  let src := (s.ecSrc l c).filter fun x => (c.rd.own.find? fun y => y.1 = x).isNone
  let dst := s.ecDst l c
  let below := fun (k : Key) => keyLt k c.key
  let all := src ++ dst
  s.landed l c.rd.view src && s.barsKnown l c.key all
    && (!(ecDirectSrc l c || ecDirectDst l c) ||
      (s.ownerPast l c.wref c.key none
        && l.ecmds.all (fun m => m.done || decide (m.n = c.n) || !below m.key || !((s.ecSrc l m ++ s.ecDst l m).any all.contains))
        && !l.rewriteBelow c.wref c.key))
    && (decide (ecKind c.i ≠ 1) ||
      (dst.all (fun x => (if ecDirectDst l c then s.wgFibres c.wref else s.scopeFibres l x).all fun g =>
          (s.beyond l c.key g || s.heldPast c.key g) &&
            (match atomOf g with
              | some b => !(below (keyAt l g.ref g.clk) && b.locs.contains x)
              | none => true))
        && (ecDirectDst l c || dst.all fun x => match x with
          | .phys _ => decide (l.wgCount ≤ l.next)
          | _ => true)
        && !s.pendingWrite l below dst))

/-- Records a poison cause of a phase of a barrier: that of the lowest key stands (R186). DEDUCED, unsafe, log 15. -/
def StageBar.poison (b : StageBar) (n cause : Nat) (k : Key) : StageBar :=
  let lower := fun (x : Option Key) => match x with
    | none => true
    | some y => keyLt k y
  if cause = 0 then b
  else if n = b.phase then if lower b.ocauseKey then { b with ocause := cause, ocauseKey := some k } else b
  else if n + 1 = b.phase then if lower b.ccauseKey then { b with ccause := cause, ccauseKey := some k } else b
  else b

/-- Counts landed bytes of phase n (R180). -/
def StageBar.land (b : StageBar) (n bytes : Nat) : StageBar :=
  if n = b.phase then { b with oland := b.oland + bytes }
  else if n + 1 = b.phase then { b with cland := b.cland + bytes } else b

/-- The command's bytes land, as a publication of its key or directly, and count towards its phase if that is known: those of the elements
that were not made, missed in number, do not land (R152, R178, R180, R182). DEDUCED, unsafe, log 20. -/
def State.landMoves (s : State) (l : Launch) (c : ECmd) (xs : List Landing) (missed cause : Nat) : State :=
  let n := (8 * c.bytes - missed * fmtBits c.db.fmt) / 8
  let direct := (xs.filter (·.direct)).flatMap (·.bytes)
  let pub := (xs.filter fun x => !x.direct).flatMap (·.bytes)
  let t := (direct.foldl (fun t b => t.applyByte l.ref false b) s).noteAccess l.part (s.ecSrc l c ++ direct.map (·.loc)) (c.addr, c.widx) c.key.warp
  let t := t.updL l.ref fun l => { l.publish { key := c.key, rank := 2, release := false, bytes := pub, src := some (c.addr, c.widx) } with
    ecmds := l.ecmds.map fun m => if m.n = c.n then { m with done := true, cause := cause, landed := n } else m }
  let t := match c.phase with
    | none => t
    | some p => t.updW c.wref fun w => w.updBar c.bar fun b => (b.land p n).poison p cause c.key
  t.count l.part ctrLanded n

/-- ENGINE_COMMAND_EXECUTE: command n of the launch runs: it reads as its fibre read at its key, and its writes land. A page that does not
translate makes it wait for the host, or is skipped once the host has aborted (R152, R153, R174 to R180). DEDUCED, unsafe, log 20. -/
def execEngineCommandExecute (r : LRef) (n : Nat) (s : State) : Host.Outcome State Fault Refusal :=
  runAct s (do
    let l ← s.launch? r
    let c ← l.ecmds.find? fun c => c.n = n ∧ ¬ c.done ∧ ¬ c.waiting
    let w ← s.wg? c.wref
    if w.core.isSome && s.ecReady l c then
      let x := s.runMoves l c c.moves [] 0 0
      if 0 < x.2.1 ∧ ¬ c.skip then
        some (s.updL r fun l => { l with ecmds := l.ecmds.map fun m => if m.n = n then { m with waiting := true } else m })
      else some (s.landMoves l c x.1 (x.2.1 + x.2.2) (if c.skip then 4 else if 0 < x.2.2 then 6 else 0))
    else none)

/-! ## Acts on stage barriers (R183 to R186) -/

/-- The phase closes: causes recorded, its fields become those of the closed phase, and the next one opens (R184). k is the key of the
closing act. DEDUCED, unsafe, log 15. -/
def StageBar.close (b : StageBar) (k : Key) : StageBar :=
  let b := if b.pend < 0 then b.poison b.phase 2 k else b
  let b := if b.oreg ≠ b.oexp then b.poison b.phase 1 k else b
  { b with phase := b.phase + 1, pend := b.arrive, oexp := 0, oreg := 0, oland := 0, op := 0, ocause := 0, ocauseKey := none,
           ostat := false, cp := b.op, cdone := false, cstat := b.ostat, ccause := b.ocause, ccauseKey := b.ocauseKey,
           creg := b.oreg, cland := b.oland }

/-- Arrivals on the open phase, closing it when none is still needed (R184). -/
def StageBar.arrived (b : StageBar) (n : Nat) (k : Key) : StageBar :=
  let b := { b with pend := b.pend - n }
  if b.pend ≤ 0 then b.close k else b

/-- Bytes registered on the open phase; cause 5 above 2^32 - 1 (R179, R186). -/
def StageBar.registered (b : StageBar) (n : Nat) (k : Key) : StageBar :=
  let b := { b with oreg := b.oreg + n }
  if 0xFFFFFFFF < b.oreg then b.poison b.phase 5 k else b

/-- The arrivals an act makes. -/
def SbKind.arrivals : SbKind → Nat
  | .arv n => n
  | .wdq _ => 1
  | _ => 0

/-- The barrier after an act is applied (R184). DEDUCED, unsafe, log 15. Where one act gives cause 5 and another as well, 3 of a cancelled command or 1
or 2 of the phase that a `wdq` closes, the spec says only which of different acts counts (R186): 5 stands. DESIGN CHOICE, unsafe, log 15. -/
def StageBar.applyAct (l : Launch) (b : StageBar) (x : SbAct) : StageBar :=
  let b := { b with op := max b.op x.key.clk }
  match x.kind with
  | .exp n =>
    let b := { b with oexp := b.oexp + n }
    if 0xFFFFFFFF < b.oexp then b.poison b.phase 5 x.key else b
  | .arv n => b.arrived n x.key
  | .reg n bytes =>
    let b := b.registered bytes x.key
    match l.ecmds.find? fun c => c.n = n with
    | none => b
    | some c =>
      let b := if c.cancelled then b else { b with ostat := b.ostat || ecStat c.i c.da c.db c.idx }
      let b := if c.done then b.land b.phase c.landed else b
      b.poison b.phase c.cause x.key
  | .wdq n =>
    let b := b.registered 4 x.key
    let b := if l.wdqs.any (fun r => decide (r.n = n) && r.done) then b.land b.phase 4 else b
    b.arrived 1 x.key

/-- Identifies the phase a fibre waits for when barrier a has phase n open; a retired phase parks a fibre whose turn has
completed (R188). -/
def State.identify (s : State) (a n : Nat) (g : Fibre) : State :=
  match g.st with
  | .sbwait x b c none =>
    if x ≠ a then s
    else match namedPhase n b with
      | some m => s.setF { g with st := .sbwait x b c (some m) }
      | none => match s.env? g.ref with
        | some e => s.park e 0x15 0x80 (BitVec.ofNat 64 a)
        | none => s
  | .turn t (.sbwait x b c none) =>
    if x ≠ a then s
    else match namedPhase n b with
      | some m => s.setF { g with st := .turn t (.sbwait x b c (some m)) }
      | none => s
  | _ => s

/-- The command or request of an act now belongs to phase n. -/
def Launch.bindPhase (l : Launch) (x : SbAct) (n : Nat) : Launch :=
  match x.kind with
  | .reg c _ => { l with ecmds := l.ecmds.map fun m => if m.n = c then { m with phase := some n } else m }
  | .wdq r => { l with wdqs := l.wdqs.map fun q => if q.n = r then { q with phase := some n } else q }
  | _ => l

/-- A fibre of the workgroup waits for the phase of barrier a that is numbered n as `namedPhase` numbers phases, and has not left it yet. -/
def awaitsPhase (a n : Nat) (g : Fibre) : Bool := decide (sbOf g = some (a, some n))

/-- STAGE_BARRIER_ACT_APPLY: the lowest act on the barrier at address a is applied once no fibre can act below it; an act that closes the
phase is held until the phase before has settled (R183 to R186). DEDUCED, unsafe, log 15. -/
def execStageBarrierActApply (r : WRef) (a : Nat) (s : State) : Host.Outcome State Fault Refusal :=
  runAct s (do
    let w ← s.wg? r
    let l ← s.launch? r.launch
    let b ← w.bar? a
    let x ← b.acts.head?
    let closes := decide (b.pend ≤ (x.kind.arrivals : Int) ∧ 0 < x.kind.arrivals)
    let held := closes && (!b.cdone || (s.wgFibres r).any (awaitsPhase a b.phase))
    if w.core.isSome && (s.wgFibres r).all (fun g => s.actPast l x.key g || sbExempt b x.key g) && !held then
      let t := (s.wgFibres r).foldl (fun t g => if keyLt (keyAt l g.ref g.clk) x.key then t.identify a b.phase g else t) s
      some ((t.updW r fun w => w.updBar a fun b => { b.applyAct l x with acts := b.acts.tail }).updL r.launch fun l => l.bindPhase x b.phase)
    else none)

/-! ## Settling (R185, R188) -/

/-- Every command and request of phase n of the barrier has finished (R185). -/
def Launch.phaseFinished (l : Launch) (r : WRef) (a n : Nat) : Bool :=
  l.ecmds.all (fun c => c.done || decide (c.wref ≠ r ∨ c.bar ≠ a ∨ c.phase ≠ some n))
    && l.wdqs.all fun q => q.done || decide (q.wref ≠ r ∨ q.bar ≠ a ∨ q.phase ≠ some n)

/-- A fibre whose awaited phase, the closed one of barrier b, has settled: it raises the phase's cause, or turns and leaves
(R188). -/
def State.releaseSb (s : State) (l : Launch) (b : StageBar) (g : Fibre) : State :=
  match g.st with
  | .sbwait a _ c (some n) =>
    if a = b.addr ∧ n = b.phase then
      if b.ccause ≠ 0 then match s.env? g.ref with
        | some e => s.park e 0x15 b.ccause (BitVec.ofNat 64 a)
        | none => s
      else s.raiseTurn l g (max c (b.cp + 1)) (.leave (c + 1))
    else s
  | _ => s

/-- A fibre in step 2 of `sbwait` on b whose phase can be identified now (R188). -/
def State.canIdentify (s : State) (l : Launch) (w : Workgroup) (b : StageBar) (g : Fibre) : Bool :=
  match g.st with
  | .sbwait a _ _ none => decide (a = b.addr) && s.actsBelowDone l w b (keyAt l g.ref g.clk) g.ref
  | _ => false

/-- A fibre waits for the closed phase of b. DEDUCED, unsafe, log 15. -/
def awaitsClosed (b : StageBar) (g : Fibre) : Bool :=
  match g.st with
  | .sbwait a _ _ (some n) => decide (a = b.addr ∧ n = b.phase)
  | _ => false

/-- PHASE_SETTLE: at the barrier at address a, waiters whose earlier acts have been applied learn their phase, a closed phase
whose commands have finished settles, and waiters for a settled phase go on (R185, R188). -/
def execPhaseSettle (r : WRef) (a : Nat) (s : State) : Host.Outcome State Fault Refusal :=
  runAct s (do
    let w ← s.wg? r
    let l ← s.launch? r.launch
    let b ← w.bar? a
    let ids := (s.wgFibres r).filter (s.canIdentify l w b)
    let t := ids.foldl (fun t g => t.identify a b.phase g) s
    let settles := !b.cdone && l.phaseFinished r a (b.phase - 1)
    let t := if settles then t.updW r fun w => w.updBar a fun b => { b with cdone := true } else t
    let go := (b.cdone || settles) && l.preempt.isNone && (t.wgFibres r).any (awaitsClosed b)
    if w.core.isNone || ids.isEmpty && !settles && !go then none
    else some (if go then (t.wgFibres r).foldl (fun t g => t.releaseSb l b g) t else t))

/-! ## The work distributor (R193, R194) -/

/-- The latest configuration keyed below K. -/
def Launch.distBelow (l : Launch) (k : Key) : Option (Key × Nat × Nat) :=
  l.dist.foldl (fun best d => if keyLt d.1 k && (match best with
    | none => true
    | some b => keyLt b.1 d.1) then some d else best) none

/-- The answer to the request with key K (R193). -/
def Launch.distAnswer (l : Launch) (k : Key) : Word :=
  match l.distBelow k with
  | none => 0xFFFFFFFF
  | some d =>
    let i := (l.wdqs.filter fun q => keyLt d.1 q.key && keyLt q.key k).length
    if i < d.2.2 then BitVec.ofNat 32 (d.2.1 + i) else 0xFFFFFFFF

/-- No fibre of the launch, placed or not, can act at or below key K. R299 gives code rewrites the condition of R194, and makes a fetch keyed
above K wait for the rewrite: a fibre that waits so at a clock of K's quantum never reports a clock above it, so that its key counts. DEDUCED,
unsafe, log 18. -/
def State.launchBeyond (s : State) (l : Launch) (k : Key) : Bool :=
  decide (l.wgCount ≤ l.next) && (s.launchFibres l.ref).all (s.beyond l k)

/-- The answer to a request of clock c may be given: every live fibre of the launch reports a clock above c, or waits excluded with a bound
above it; a workgroup that is not placed counts with 0 (R146, R194). -/
def State.distClear (s : State) (l : Launch) (c : Nat) : Bool :=
  decide (l.wgCount ≤ l.next) && (s.launchFibres l.ref).all fun g => match s.bound? l g, s.reported? l g with
    | some b, _ => decide (c < b)
    | none, some r => decide (c < r)
    | none, none => true

/-- WDQ_ANSWER: request n is answered once every fibre of the launch reports a clock above its own; the answer is published with its key and lands
(R193, R194). DEDUCED, unsafe, log 20. -/
def execWdqAnswer (r : LRef) (n : Nat) (s : State) : Host.Outcome State Fault Refusal :=
  runAct s (do
    let l ← s.launch? r
    let q ← l.wdqs.find? fun q => q.n = n ∧ ¬ q.done
    if s.distClear l q.key.clk && (s.wg? q.wref).all (·.core.isSome) then
      let bytes := ((spadLocs q.wref.wg q.ans 4).zip (wordBytes (l.distAnswer q.key))).map fun x => (⟨x.1, x.2, 0xFF⟩ : PubByte)
      let t := s.updL r fun l => { l.publish { key := q.key, rank := 2, release := false, bytes := bytes, src := some q.src } with
        wdqs := l.wdqs.map fun x => if x.n = n then { x with done := true } else x }
      let t := match q.phase with
        | none => t
        | some p => t.updW q.wref fun w => w.updBar q.bar fun b => b.land p 4
      some (t.count l.part ctrLanded 4)
    else none)

/-! ## Code (R299) -/

/-- The bytes of a virtual range as an engine command of the fibre reads them; a byte that does not translate, which no fetch can reach,
counts as 0. DEDUCED, unsafe, log 18. -/
def State.codeBytes (s : State) (l : Launch) (w : Nat) (rd : Rd) (lo n : Nat) : List Byte :=
  (List.range n).map fun k => match s.readAt l w rd (lo + k) with
    | .ok b => b
    | .error _ => 0

/-- The locations of the bytes of a virtual range that translate. -/
def State.codeLocs (s : State) (l : Launch) (w lo n : Nat) : List Loc :=
  s.locsOf l w .read (((List.range n).map (lo + ·)).filter fun a => !inArgs a)

/-- A branch-target register after a range of code has been rewritten (R212). DEDUCED, unsafe, log 18. -/
def BReg.rewritten (lo hi : Nat) (b : BReg) : BReg :=
  if b.st = .prepared ∧ lo ≤ (b.target.signExtend 64).toNat ∧ (b.target.signExtend 64).toNat < hi then { b with st := .stale } else b

/-- The registers of a fibre after rewrite v of a launch: in the launch itself those prepared below its key (R212, R299). DEDUCED, unsafe,
log 18. -/
def Fibre.rewritten (l : LRef) (v : Icinv) (f : Fibre) : Fibre :=
  { f with bregs := ((List.range f.bregs.length).zip f.bregs).map fun x =>
      if f.ref.wref.launch = l ∧ ¬ keyLt (f.bkey x.1) v.key then x.2 else x.2.rewritten v.lo v.hi }

/-- The registers of a fibre as they stand at its own key: rewrites of its launch keyed below it count though they are not applied yet (R299,
R307). DEDUCED, unsafe, log 18. -/
def Launch.bregsNow (l : Launch) (f : Fibre) : List BReg :=
  ((l.icinvs.filter fun v => v.bytes.isNone && keyLt v.key (keyAt l f.ref f.clk)).foldl (fun g v => g.rewritten l.ref v) f).bregs

/-- A fibre belongs to a launch of context c of partition p. DEDUCED, unsafe, log 18. -/
def State.inContext (s : State) (p c : Nat) (f : Fibre) : Bool :=
  match s.launch? f.ref.wref.launch with
  | some l => decide (l.part = p ∧ l.ctx = c)
  | none => false

/-- ICINV_APPLY: code rewrite n takes effect once no fibre of the launch can act at or below its key; prepared targets in its range become
stale (R299). DEDUCED, unsafe, log 18. -/
def execIcinvApply (r : LRef) (n : Nat) (s : State) : Host.Outcome State Fault Refusal :=
  runAct s (do
    let l ← s.launch? r
    let v ← l.icinvs.find? fun v => v.n = n ∧ v.bytes = none
    let xs := s.codeLocs l v.wref.wg v.lo (v.hi - v.lo)
    if s.launchBeyond l v.key && s.ownerPast l v.wref v.key none && s.landed l v.rd.view xs && !s.pendingWrite l (fun k => keyLt k v.key) xs then
      let bs := s.codeBytes l v.wref.wg v.rd v.lo (v.hi - v.lo)
      let t := s.updL r fun l => { l with icinvs := l.icinvs.map fun x => if x.n = n then { x with bytes := some bs } else x }
      some { t with fibres := t.fibres.map fun f =>
        if s.inContext l.part l.ctx f then f.rewritten r v else f }
    else none)

end Sys2Proof.Machine
end

