-- ==== Sys2Proof/Machine/Cores.lean ====
section
/-! DEFINITION. The cores of a partition (R8, R12, R232, R242, R266, R317, R323, R326, R355): which of them are usable, what fits on one, and where
the next workgroups of a launch go. -/

namespace Sys2Proof.Machine

/-- Core k of a partition (4 * logical quad + core) is fenced, with its quad or alone (R266, R317). -/
def State.coreFenced (s : State) (p : Partition) (k : Nat) : Bool :=
  let q := p.quads.getD (k / 4) 0
  s.isFenced 0 (4 * q + k % 4) || s.isFenced 4 q

/-- The die of the core stands at a run level (R355). -/
def State.coreOn (s : State) (p : Partition) (k : Nat) : Bool :=
  match s.dies[p.quads.getD (k / 4) 0 / 16]? with
  | some d => decide (d.state ≤ 7)
  | none => false

/-- The turns of a run of a dual-run step: its quads by one for each run before it, then the cores within the quads, so that a third placement
is neither the first nor the second (R323, R326). DEDUCED, unsafe, log 43. -/
def runShift (quads run : Nat) : Nat × Nat := if quads ≤ 1 then (0, run - 1) else (run % quads, run / quads)

/-- The unfenced cores of a partition, in the order in which they are tried (R323, R326). DEDUCED, unsafe, log 43. -/
def State.cores (s : State) (p : Partition) : List Nat :=
  let n := p.quads.length
  let t := runShift n p.digests.length
  ((List.range (4 * n)).map fun k => 4 * ((k / 4 + t.1) % n) + (k + t.2) % 4).filter fun k => !s.coreFenced p k

/-- The workgroups on a core of a partition, with their launches. -/
def State.onCore (s : State) (p k : Nat) : List (Launch × Workgroup) :=
  s.wgs.filterMap fun w => match s.launch? w.ref.launch with
    | some l => if l.part = p ∧ w.core = some k then some (l, w) else none
    | none => none

/-- n workgroups of a launch fit on core k beside those on it: 48 warps, 1 MiB of scratchpad and 16 tiles (R242). -/
def State.fits (s : State) (p : Partition) (l : Launch) (k n : Nat) : Bool :=
  let o := s.onCore p.id k
  s.coreOn p k && decide ((o.map fun x => x.1.warps).sum + n * l.warps ≤ 48)
    && decide ((o.map fun x => x.1.spadLen).sum + n * l.spadLen ≤ 2 ^ 20)
    && decide ((o.map fun x => x.1.tiles).sum + n * l.tiles ≤ 16)

/-- The cores a workgroup may go to: unfenced and named by the queue's mask, or any unfenced one when the mask leaves none
(R232). -/
def State.allowedCores (s : State) (p : Partition) (l : Launch) : List Nat :=
  let mask := match s.queue? l.ref.queue with
    | some q => q.mask
    | none => 0
  let named := (s.cores p).filter fun k => mask.getLsbD k
  if named.isEmpty then s.cores p else named

/-- The quads whose four cores are among the cores given, in their order. -/
def wholeQuads (cs : List Nat) : List Nat := ((cs.map (· / 4)).eraseDups).filter fun q => (List.range 4).all fun i => cs.contains (4 * q + i)

/-- The cores of a quad among the cores given, in their order. -/
def coresIn (cs : List Nat) (q : Nat) : List Nat := cs.filter fun k => k / 4 = q

/-- Cores for n more members, as many to a core as fit. -/
def packCores (fits : Nat → Nat → Bool) : List Nat → Nat → List Nat
  | [], _ => []
  | k :: r, n =>
    let m := (((List.range (n + 1)).filter (fits k)).getLast?).getD 0
    List.replicate m k ++ packCores fits r (n - m)

/-- How many workgroups of a launch an empty core holds (R242). -/
def Launch.perCore (l : Launch) : Nat :=
  ((List.range 49).filter fun n => decide (n * l.warps ≤ 48 ∧ n * l.spadLen ≤ 2 ^ 20 ∧ n * l.tiles ≤ 16)).getLast?.getD 0

/-- The cores for the n members of a gang (R12, R232, R242): on the four cores of a quad; where no quad has four unfenced cores, on one quad,
else across quads. Where not even all unfenced cores together hold the members, as many start as the cores take now, and the others stand
saved until the rotation gives them a core, so that the launch continues while any core is left. DEDUCED, safe, log 33. -/
def State.gangCores (s : State) (p : Partition) (l : Launch) (n : Nat) : Option (List (Option Nat)) :=
  let free := s.cores p
  let whole := wholeQuads free
  if whole.isEmpty then
    let tries := ((free.map (· / 4)).eraseDups.map fun q => packCores (s.fits p l) (coresIn free q) n) ++ [packCores (s.fits p l) free n]
    match tries.find? fun x => decide (x.length = n) with
    | some x => some (x.map some)
    | none =>
      let some_ := packCores (s.fits p l) free n
      if decide (free.length * l.perCore < n) && !some_.isEmpty then some ((List.range n).map fun i => some_[i]?) else none
  else
    let named := wholeQuads (s.allowedCores p l)
    ((if named.isEmpty then whole else named).find? fun q => ((coresIn free q).take n).all fun k => s.fits p l k 1).map
      fun q => ((coresIn free q).take n).map some

/-- The linear indices that are placed next, and their cores, where they fit now; none for a member that starts saved. -/
def State.nextPlaces (s : State) (p : Partition) (l : Launch) : Option (List (Nat × Option Nat)) :=
  if l.gang then
    let ms := l.gangOf l.next
    (s.gangCores p l ms.length).map ms.zip
  else ((s.allowedCores p l).find? fun k => s.fits p l k 1).map fun k => [(l.next, some k)]

end Sys2Proof.Machine
end

