-- ==== Sys2Proof/Machine/Sequencer.lean ====
section
/-! DEFINITION. The sequencer's steps (R15, R16, R26 to R31, R45, R46, R213, R228, R229): entering a clause, executing a
convergence point whose operands arrived late, the convergence fault and the wait deadlock. -/

namespace Sys2Proof.Machine

/-! ## Fetching a clause (R26 to R30) -/

/-- The 64-bit address of word k of the clause at a header address (R20). -/
def codeAddr (h : BitVec 57) (k : Nat) : BitVec 64 := (h + BitVec.ofNat 57 (4 * k)).signExtend 64

/-- What the fetch of one word gives: the word, a wait for a code rewrite keyed below, or a fault. -/
inductive Fetched where
  | word (w : Word)
  | wait
  | fault (code cause : Nat) (addr : BitVec 64)
  deriving DecidableEq, Repr

/-- The latest rewrite keyed below K that covers an address, among those of the launch itself: what a fetch of another launch of the context
reads in the range is open in the spec, and it reads its own initial image (R26, R299). DEDUCED, unsafe, log 18. -/
def Launch.rewriteAt (l : Launch) (k : Key) (a : Nat) : Option Icinv :=
  l.icinvs.foldl (fun best v => if keyLt v.key k && decide (v.lo ≤ a ∧ a < v.hi) && (match best with
    | none => true
    | some b => keyLt b.key v.key) then some v else best) none

/-- A rewrite keyed below K that covers the address has not been applied yet. DEDUCED, unsafe, log 18. -/
def Launch.rewritePending (l : Launch) (k : Key) (a : Nat) : Bool :=
  l.icinvs.any fun v => v.bytes.isNone && keyLt v.key k && decide (v.lo ≤ a ∧ a < v.hi)

/-- A byte of the launch's initial image (R26, R138). -/
def State.initByte (s : State) (l : Launch) (pa : Nat) : Byte :=
  match (l.old.filter fun x => x.1 = pa).getLast? with
  | some x => x.2
  | none => memGet s.mem pa

/-- Fetches one word at key K (R26, R30). -/
def State.fetchWord (s : State) (l : Launch) (k : Key) (a : BitVec 64) : Fetched :=
  match regionOf a with
  | some (.glob va) =>
    if inArgs va then .fault 0x02 0 a
    else match s.translate l va .fetch with
      | .error c => .fault 0x01 c a
      | .ok pa =>
        if l.rewritePending k a.toNat then .wait
        else match l.rewriteAt k a.toNat with
          | some v => .word (BitVec.ofNat 32 (ofBytes (((v.bytes.getD []).drop (a.toNat - v.lo)).take 4)))
          | none => .word (BitVec.ofNat 32 (ofBytes ((List.range 4).map fun n => s.initByte l (pa + n))))
  | _ => .fault 0x02 0 a

/-- What the fetch of a clause gives. -/
inductive FetchedClause where
  | clause (hdr : Word) (ws : List Word)
  | wait
  | fault (code cause : Nat) (addr : BitVec 64)
  deriving DecidableEq, Repr

/-- Collects fetched words; the lowest word that could not be fetched decides the fault (R30). -/
def collect (hdr : Word) : List Fetched → List Word → Bool → FetchedClause
  | [], ws, w => if w then .wait else .clause hdr ws
  | .word x :: r, ws, w => collect hdr r (ws ++ [x]) w
  | .wait :: r, ws, _ => collect hdr r ws true
  | .fault c k a :: _, _, _ => .fault c k a

/-- The 64-bit value of `ENTRY` (R236). -/
def Launch.entry64 (l : Launch) : BitVec 64 := l.entryTop ++ l.entry

/-- Fetches the clause at a header address at key K; an `ENTRY` that is no 57-bit address is an address fault of the launch's fibres, none of
which gets past it (R27, R30, R236). -/
def State.fetchClause (s : State) (l : Launch) (k : Key) (h : BitVec 57) : FetchedClause :=
  match if h = l.entry ∧ codeAddr h 0 ≠ l.entry64 then .fault 0x02 0 l.entry64 else s.fetchWord l k (codeAddr h 0) with
  | .wait => .wait
  | .fault c x a => .fault c x a
  | .word hdr => collect hdr ((List.range (bits hdr.toNat 31 28)).map fun n => s.fetchWord l k (codeAddr h (n + 1))) [] false

/-! ## Well-formed clauses (R28 to R31) -/

/-- The reserved values and bits of a header are absent (R28, R29). -/
def headerOk (h : Nat) : Bool :=
  decide (bits h 31 28 ≠ 0) && decide (bits h 27 25 ≤ 4) && decide (bits h 19 17 ≤ 4) && decide (bits h 16 15 ≠ 3) && decide (h % 8 = 0)

/-- The last instruction's first word, when the words divide into whole instructions (R32); fuel is their number. -/
def lastWord (tab : Nat → Option Nat) : Nat → List Word → Option Word
  | 0, _ => none
  | _ + 1, [] => none
  | n + 1, w :: r =>
    let len := lenWith tab w
    if r.length + 1 < len then none
    else if r.length + 1 = len then some w
    else lastWord tab n ((w :: r).drop len)

/-- The native opcodes of `jmp`, `call`, `ret` and `halt` (R31, R51). -/
def isTransferOp (op : Nat) : Bool := op = 0x203 || op = 0x204 || op = 0x205 || op = 0x207

/-- `T` agrees with the last instruction (R31). -/
def terminalOk (tab : Nat → Option Nat) (h : Nat) (w : Word) : Bool :=
  let op := tab (w.toNat / 2 ^ 22)
  let tr := match op with
    | some n => isTransferOp n
    | none => false
  if bits h 24 24 = 1 then tr || decide (op = some 0x200) else !tr

/-- The class code of a clause header (R28). -/
def clsCode (c : Cls) : Nat :=
  match c with
  | .V => 0
  | .L => 1
  | .A => 2
  | .M => 3
  | .C => 4

/-- A legal encoding may stand where it does: a transfer last; `nop` in a C clause or as the terminal word; anything else in a
clause of its class (R31). last says that the clause's words end with it. -/
def placeOk (op hdr : Nat) (last : Bool) : Bool :=
  if isTransferOp op then last
  else if op = 0x200 then decide (bits hdr 27 25 = 4) || (last && decide (bits hdr 24 24 = 1))
  else match clsOf op with
    | some c => decide (bits hdr 27 25 = clsCode c)
    | none => false

/-- The clause is not malformed (R29). -/
def clauseOk (tab : Nat → Option Nat) (hdr : Word) (ws : List Word) : Bool :=
  headerOk hdr.toNat && match lastWord tab ws.length ws with
    | some w => terminalOk tab hdr.toNat w
    | none => false

/-- A token of the clause's wait mask is not clear in the fibre (R46). -/
def tokensHeld (f : Fibre) (h : Nat) : Bool := f.outs.any fun o => decide (o.token ≠ 0 ∧ bits h (19 + o.token) (19 + o.token) = 1)

/-- The fibre at the header it is about to enter: its next clause's, or at its start its own (R45). -/
def Fibre.atHeader (f : Fibre) : Fibre := if f.words.isEmpty then f else { f with pc := f.npc, words := [], hdr := 0, widx := 0 }

/-- A fibre waits at a header, for the reason given; once it is known to wait so, nothing changes. -/
def State.waitAtHeader (s : State) (e : Env) (why : Nat) : Option State :=
  if e.f.held = some why then none else some (s.setF { e.f with held := some why })

/-- The stall reason of a fibre whose clause waits for tokens: landing where a load holds one, else the interlock. The spec lists no reason
for tokens (R247). DESIGN CHOICE, safe, log 56. -/
def tokenStall (f : Fibre) (h : Nat) : Nat :=
  if f.outs.any fun o => decide (o.token ≠ 0 ∧ bits h (19 + o.token) (19 + o.token) = 1 ∧ o.kind = .load) then 5 else 6

/-- CLAUSE_ENTRY: the fibre fetches the clause at its header whole, checks it, adds the extra weight and stands at its first
word (R27 to R31, R45, R46, R134, R213). The record of a clock overflow by the extra weight names the header's address and WIDX 0. The spec does
not say what `WORD` holds in that record, nor in one of an address or translation fault of the fetch, where no word, or not every one, was fetched
(R291): it holds 0. DESIGN CHOICE, unsafe, log 9. -/
def execClauseEntry (r : FRef) (s : State) : Host.Outcome State Fault Refusal :=
  runAct s (do
    let e0 ← s.env? r
    let e := { e0 with f := { e0.f.atHeader with held := none } }
    if e.f.st = .enter ∧ e.free ∧ ¬ e0.preStopped then
      let rec0 := mkRec e 0 0 0
      match s.fetchClause e.l e.key e.f.pc with
      | .wait => s.waitAtHeader e0 8
      | .fault c k a => some (s.parkRec e { rec0 with code := c, cause := k, info := a })
      | .clause hdr ws =>
        if ¬ clauseOk e.l.dtab.look hdr ws then
          some (s.parkRec e { rec0 with code := 0x07, word := hdr, info := codeAddr e.f.pc 0 })
        else if overflows e.f (bits hdr.toNat 14 7) then some (s.parkRec e { rec0 with code := 0x0A })
        else if tokensHeld e.f hdr.toNat then s.waitAtHeader e0 (tokenStall e.f hdr.toNat)
        else
          let f := { e.f with hdr := hdr, words := ws, widx := 0, live := none, form := e.l.nextForm e0.f e.f.pc }
          some ((s.moveClock e.l { f with npc := f.seqNext } (e.f.clk + bits hdr.toNat 14 7)).count e.l.part 1 1)
    else none)

/-! ## Convergence points (R15, R16) -/

/-- The scope and the effect of a convergence point. -/
def convFire : Instr → Option (Scope × Fire)
  | .shfl d a b g => some (.warp, fireShfl d a b g)
  | .shflx d a b g => some (.warp, fireShflx d a b g)
  | .bcast d a b g => some (.warp, fireBcast d a b g)
  | .voteany d a g => some (.warp, fireVoteany d a g)
  | .voteall d a g => some (.warp, fireVoteall d a g)
  | .ballot d a g => some (.warp, fireBallot d a g)
  | .redadd d a g => some (.warp, fireRedadd d a g)
  | .redmin d a g => some (.warp, fireRedmin d a g)
  | .redmax d a g => some (.warp, fireRedmax d a g)
  | .scanadd d a g => some (.warp, fireScanadd d a g)
  | .lid d g => some (.warp, fireLid d g)
  | .electw d g => some (.warp, fireElectw d g)
  | .elect d g => some (.wg, fireElect d g)
  | .wsync g => some (.warp, fireWsync g)
  | .uadd d a b g => some (.warp, fireUadd d a b g)
  | .usub d a b g => some (.warp, fireUsub d a b g)
  | .umul d a b g => some (.warp, fireUmul d a b g)
  | .uand d a b g => some (.warp, fireUand d a b g)
  | .uor d a b g => some (.warp, fireUor d a b g)
  | .uxor d a b g => some (.warp, fireUxor d a b g)
  | .ushl d a b g => some (.warp, fireUshl d a b g)
  | .ushr d a b g => some (.warp, fireUshr d a b g)
  | .uaddw d a b g => some (.warp, fireUaddw d a b g)
  | .umov d a g => some (.warp, fireUmov d a g)
  | .uget d a b g => some (.warp, fireUget d a b g)
  | .uaddi d a i => some (.warp, fireUaddi d a i)
  | .uli d g lit => some (.warp, fireUli d g lit)
  | .uldw d a i => some (.warp, fireUldw d a i)
  | .uldd d a i => some (.warp, fireUldd d a i)
  | _ => none

/-- CONVERGENCE_POINT_EXECUTE: the point at which the fibre waits executes, every live fibre of its scope having arrived and
the values it reads being there (R15, R42, R91). -/
def execConvergencePointExecute (r : FRef) (s : State) : Host.Outcome State Fault Refusal :=
  runAct s (do
    let e ← s.env? r
    match e.f.st with
    | .conv i => do
      let x ← convFire i
      if e.moves then tryFire s x.1 i x.2 r else none
    | _ => none)

/-! ## Stuck launches (R16, R208, R228, R229) -/

/-- An act does something in this state: it ticks. -/
def State.canDo (s : State) (act : State → Host.Outcome State Fault Refusal) : Bool :=
  match act s with
  | .next t => decide (t.tick ≠ s.tick)
  | _ => false

/-- The fibre stands at an `mwait` for a batch that is not complete (R127, R229). -/
def State.atMwait (s : State) (f : Fibre) : Bool :=
  match s.env? f.ref with
  | none => false
  | some e => match decodeWith e.l.dtab.look (f.words.drop f.widx) with
    | .ok (.mwait i) _ => guardOn f none && e.w.mcmds.any fun c => decide (c.uid = f.uid ∧ c.batch < f.commits - i % 64) && !c.done
    | _ => false

/-- A fibre of a launch waits in a way that only another fibre, an engine or a fault can end (R229). -/
def State.waitingStatus (s : State) (f : Fibre) : Bool :=
  match f.st with
  | .bar _ _ _ => true
  | .conv _ => true
  | .fork _ _ _ => true
  | .sbwait _ _ _ _ => true
  | .hstall _ _ _ _ _ _ => true
  | .hsync _ _ _ => true
  | .run => s.atMwait f
  | _ => false

/-- No wait of a fibre can end now. -/
def State.fibreStuck (s : State) (f : Fibre) : Bool :=
  s.waitingStatus f && !f.halted && !s.canDo (execBarrierExit f.ref) && !s.canDo (execConvergencePointExecute f.ref)
    && !s.canDo (execTurnCompletion f.ref) && !s.canDo (execForkLaneDecision f.ref) && !s.canDo (execHarpActApply f.ref)
    && (List.range f.outs.length).all fun n => !s.canDo (execLongLatencyResult f.ref n)

/-- No act of a workgroup's stage barriers can be made now. -/
def State.barsStuck (s : State) (w : Workgroup) : Bool :=
  w.sbars.all fun b => !s.canDo (execStageBarrierActApply w.ref b.addr) && !s.canDo (execPhaseSettle w.ref b.addr)

/-- A matrix command of the workgroup can take its effect now (R113). -/
def State.matrixMoves (s : State) (l : Launch) (w : Workgroup) : Bool :=
  w.core.isSome && w.mcmds.any fun c => s.matReady l w c && s.matrixOk l w.ref c.key c.uid

/-- A command of the workgroup in an engine can run now, or waits for the host (R153, R277). -/
def State.enginesMove (s : State) (l : Launch) (w : Workgroup) : Bool :=
  l.ecmds.any fun c => decide (c.wref = w.ref) && !c.done && (c.waiting || s.canDo (execEngineCommandExecute l.ref c.n))

/-- Nothing of the workgroup besides its fibres can act now: its stage barriers and its commands wait. -/
def State.objectsStuck (s : State) (l : Launch) (w : Workgroup) : Bool := s.barsStuck w && !s.matrixMoves l w && !s.enginesMove l w

/-- The state with every saved workgroup of a launch on a core: what could run there could run once it is restored (R229). -/
def State.allOnCores (s : State) (l : LRef) : State :=
  { s with wgs := s.wgs.map fun w => if w.ref.launch = l then { w with core := some (w.core.getD 0) } else w }

/-- A fibre of the workgroup waits at a barrier with members that are not placed yet (R223). DEDUCED, safe, log 33. -/
def State.barUnplaced (s : State) (l : Launch) (w : Workgroup) : Bool :=
  (s.wgFibres w.ref).any fun f => match f.st with
    | .bar g _ _ => match (l.setsOf (warpId l f.ref))[g]? with
      | some t => !l.membersPlaced t
      | none => false
    | _ => false

/-- The rotation places the launch's workgroups in turn when they do not fit at once: it participates, has a distributor, or a workgroup of it waits
at a barrier with a member that is not placed; and so does a launch that drains (R151, R194, R223, R294). -/
def State.rotates (s : State) (l : Launch) : Bool :=
  l.order || l.draining || !l.dist.isEmpty || s.wgs.any fun w => decide (w.ref.launch = l.ref) && s.barUnplaced l w

/-- A workgroup that is not placed could run: the rotation places it, or there is room for it beside what the launch itself holds (R229). DEDUCED,
unsafe, log 13. -/
def State.unplacedRuns (s : State) (l : Launch) : Bool :=
  decide (l.next < l.wgCount) && (s.rotates l || (match s.part? l.part with
    | some p => ({ s with wgs := s.wgs.filter fun w => w.ref.launch = l.ref }.nextPlaces p l).isSome
    | none => false))

/-- Every live fibre of the launch waits for what cannot happen: no command, request or code rewrite of it can make progress, no fault awaits
service, and no workgroup that is not placed or saved could run (R229). DEDUCED, unsafe, log 13. -/
def State.launchStuck (s : State) (l : Launch) : Bool :=
  let t := s.allOnCores l.ref
  (t.launchFibres l.ref).all t.fibreStuck && !s.unplacedRuns l && l.preempt.isNone
    && l.wdqs.all (fun q => q.done || !t.canDo (execWdqAnswer l.ref q.n)) && l.icinvs.all (fun v => v.bytes.isSome || !t.canDo (execIcinvApply l.ref v.n))
    && (t.wgs.filter fun w => w.ref.launch = l.ref).all (t.objectsStuck l)

/-- A waiting fibre counts as waiting at a convergence point that cannot execute: a point at which not every live fibre of its scope waits, or
a fork that another fibre of its warp holds back (R16, R219). DEDUCED, unsafe, log 12. -/
def State.atPoint (s : State) (f : Fibre) : Bool :=
  match f.st with
  | .conv i => match convFire i with
    | some x => !(s.scopeOf x.1 f.ref).all (waitsAt f i)
    | none => false
  | .fork _ _ _ => match s.env? f.ref with
    | some e => s.forkHeld e
    | none => false
  | _ => false

/-- A barrier wait that cannot end: one that still expects one of the fibres given, or any in a launch that waits for what cannot happen.
DEDUCED, unsafe, log 12. -/
def State.barHeld (s : State) (l : Launch) (dead : Bool) (fs : List Fibre) (f : Fibre) : Bool :=
  match f.st with
  | .bar g k _ => match (l.setsOf (warpId l f.ref))[g]? with
    | some t => !s.phaseDone l t k && (dead || fs.any fun x => match l.arrivals? x t with
        | some n => decide (n < k)
        | none => false)
    | none => false
  | _ => false

/-- The fibres of a group meet the conditions of R16: all wait, one at a point, and not all at one instruction. DEDUCED, unsafe, log 12.
-/
def State.convStuck (s : State) (l : Launch) (dead : Bool) (fs : List Fibre) : Bool :=
  fs.all (fun f => !f.halted && (s.atPoint f || s.barHeld l dead fs f)) && fs.any s.atPoint
    && !(fs.all fun f => match fs.head? with
      | some x => decide (f.pc = x.pc ∧ f.widx = x.widx)
      | none => true)

/-- The fibre waits at `elect`. -/
def Fibre.atElect (f : Fibre) : Bool :=
  match f.st with
  | .conv (.elect _ _) => true
  | _ => false

/-- The group of fibres in which a fibre meets R16: its warp; or for `elect` its workgroup, where no warp of that meets the rule by itself, whose
fibres would park and so no longer wait. DEDUCED, unsafe, log 12. -/
def State.convGroup? (s : State) (l : Launch) (dead : Bool) (f : Fibre) : Option (List Fibre) :=
  let ws := s.warpFibres f.ref.wref f.ref.warp
  let gs := s.wgFibres f.ref.wref
  if s.convStuck l dead ws then some ws
  else if gs.any Fibre.atElect && (gs.all fun g => !s.convStuck l dead (s.warpFibres g.ref.wref g.ref.warp)) && s.convStuck l dead gs then some gs
  else none

/-- The launch waits for what cannot happen as a whole: no group of its fibres meets R16 or R208 by itself (R229). DEDUCED, unsafe, log 13. -/
def State.deadlocked (s : State) (l : Launch) : Bool :=
  s.launchStuck l && (s.launchFibres l.ref).all (fun f => (s.convGroup? l false f).isNone)
    && (s.wgs.filter fun w => w.ref.launch = l.ref).all fun w => !s.harpStuck l false w.ref

/-- The fibres given that wait at convergence points park, whether their guards are on or off: R16 and R289 say every waiting fibre, R82 speaks of
those guarded on. DEDUCED, unsafe, log 12. -/
def State.parkPoints (s : State) (fs : List Fibre) : State :=
  (fs.filter s.atPoint).foldl (fun t g => match t.env? g.ref with
    | some x => t.park x 0x0D 0 0
    | none => t) s

/-- The convergence faults and Harp stalls of a deadlocked launch, in which no barrier wait can end; they are raised together, so that which fibres
fault is no matter of the order of acts (R16, R208, R229). DEDUCED, unsafe, log 13. -/
def State.parkDead (s : State) (l : Launch) : Option State :=
  let fs := (s.launchFibres l.ref).filter fun f => (s.convGroup? l true f).isSome
  let ws := (s.wgs.filter fun w => w.ref.launch = l.ref).filter fun w => s.harpStuck l true w.ref
  if fs.isEmpty && ws.isEmpty then none else some (ws.foldl (fun t w => t.parkHarp w.ref) (s.parkPoints fs))

/-- CONVERGENCE_FAULT: every fibre of the group that waits at a convergence point, or at a fork, parks (R16, R219); in a deadlocked launch every
such group does. DEDUCED, unsafe, log 12. -/
def execConvergenceFault (r : FRef) (s : State) : Host.Outcome State Fault Refusal :=
  runAct s (do
    let e ← s.env? r
    if e.l.preempt.isSome then none
    else match s.convGroup? e.l false e.f with
      | some fs => some (s.parkPoints fs)
      | none => if s.deadlocked e.l && (s.convGroup? e.l true e.f).isSome then s.parkDead e.l else none)

/-- HARP_STALL: the fibres of the workgroup that wait in the Harp park when all of its fibres wait for what cannot happen; in a deadlocked launch
every such workgroup's do (R208). DEDUCED, unsafe, log 17. -/
def execHarpStall (w : WRef) (s : State) : Host.Outcome State Fault Refusal :=
  runAct s (do
    let l ← s.launch? w.launch
    if s.harpStuck l false w then some (s.parkHarp w)
    else if s.harpStuck l true w && s.deadlocked l then s.parkDead l else none)

/-- The sync set that a fibre waits for. DEDUCED, unsafe, log 13. -/
def barSet (f : Fibre) : Option Nat :=
  match f.st with
  | .bar g _ _ => some g
  | _ => none

/-- WAIT_DEADLOCK: every barrier waiter of a deadlocked launch parks, unless the convergence fault or the Harp stall applies (R229). DEDUCED,
unsafe, log 13. -/
def execWaitDeadlock (r : LRef) (s : State) : Host.Outcome State Fault Refusal :=
  runAct s (do
    let l ← s.launch? r
    let fs := s.launchFibres r
    if fs.any (fun f => (barSet f).isSome) && s.deadlocked l && (s.parkDead l).isNone then
      some (fs.foldl (fun t g => match barSet g, t.env? g.ref with
        | some n, some x => t.park x 0x0F 0 (BitVec.ofNat 64 n)
        | _, _ => t) s)
    else none)

end Sys2Proof.Machine
end

