-- ==== Sys2Proof/Machine/Special.lean ====
section
/-! DEFINITION. Predicate instructions (R99) and special registers (R65, R84, R100, R101). -/

namespace Sys2Proof.Machine

/-- `pand`: p(d) := p(a) and p(b) (R99). -/
def execPand (d a b g : Nat) (s : State) : Host.Outcome State Fault Refusal := runP2 s g d a b fun x y => x && y

/-- `por`: p(d) := p(a) or p(b) (R99). -/
def execPor (d a b g : Nat) (s : State) : Host.Outcome State Fault Refusal := runP2 s g d a b fun x y => x || y

/-- `pxor`: p(d) := p(a) xor p(b) (R99). -/
def execPxor (d a b g : Nat) (s : State) : Host.Outcome State Fault Refusal := runP2 s g d a b fun x y => x != y

/-- `pandn`: p(d) := p(a) and not p(b) (R99). -/
def execPandn (d a b g : Nat) (s : State) : Host.Outcome State Fault Refusal := runP2 s g d a b fun x y => x && !y

/-- `pset`: p(d) := imm[0], under the clause guard (R99). -/
def execPset (d i : Nat) (s : State) : Host.Outcome State Fault Refusal :=
  runPlain s none 1 1 fun e => .ok (pset1 e.f d (i % 2 = 1))

/-- `pget`: v d := the predicate word (R99). -/
def execPget (d g : Nat) (s : State) : Host.Outcome State Fault Refusal :=
  runPlain s (some g) 1 1 fun e => do
    vchk e.f [d]
    .ok (vset e.f d (e.f.preds.setWidth 32))

/-- `pput`: p2 to p15 := bits [15:2] of v a (R99). -/
def execPput (a g : Nat) (s : State) : Host.Outcome State Fault Refusal :=
  runPlain s (some g) 1 1 fun e => do
    vchk e.f [a]
    let x ← vget e.f a
    .ok (psetWord e.f (x.extractLsb' 0 16))

/-- The value of a special register (R100); the unassigned ones read 0. -/
def specialReg (e : Env) (i : Nat) : Word :=
  let n := e.f.ref.wref.wg
  BitVec.ofNat 32 (match i with
    | 0 => e.f.clk % 2 ^ 32
    | 1 => e.f.clk / 2 ^ 32
    | 2 => warpId e.l e.f.ref
    | 3 => e.f.ref.lane
    | 4 => n % e.l.gx
    | 5 => n / e.l.gx % e.l.gy
    | 6 => n / e.l.gx / e.l.gy
    | 7 => e.l.gx
    | 8 => e.l.gy
    | 9 => e.l.gz
    | 10 => e.l.warps
    | 11 => e.l.qlog
    | 12 => e.f.fflags.toNat
    | 13 => rmodeCode e.f.rmode
    | 14 => e.f.seed.toNat
    | 15 => e.f.view % 2 ^ 32
    | _ => 0)

/-- `rdsr`: d := the special register i (R101). -/
def execRdsr (d i : Nat) (s : State) : Host.Outcome State Fault Refusal :=
  runPlain s none 1 1 fun e => do
    vchk e.f [d]
    .ok (vset e.f d (specialReg e i))

/-- `wrsr`: the special register 12, 13 or 14 := v a; a mode outside 0 to 4 is an illegal operand (R65, R101). -/
def execWrsr (a i : Nat) (s : State) : Host.Outcome State Fault Refusal :=
  runPlain s none 1 1 fun e => do
    vchk e.f [a]
    let x ← vget e.f a
    match i with
    | 12 => .ok { e.f with fflags := x.extractLsb' 0 6 }
    | 13 => if 4 < x.toNat then .error (.fault 0x0B 0 (x.setWidth 64)) else .ok { e.f with rmode := rmodeOf x.toNat }
    | _ => .ok { e.f with seed := x }

end Sys2Proof.Machine
end

