-- ==== Sys2Proof/Machine/Press.lean ====
section
/-! DEFINITION. The Press (R47, R251 to R260): which words are static, what a clause is folded into, how transfers are resolved and loops
unrolled, the limits, and the back-map. A residual clause's words take effect as the original words that they copy or stand for, at those
words' clocks (R254); so the machine runs the original words and keeps, for a fibre, the form in which it stands. DEDUCED, safe, log 31. -/

namespace Sys2Proof.Machine

/-! ## Static values (R251, R252) -/

/-- What is static on a path: physical vector registers, predicates, uniform registers, branch-target registers and the window base; none
for a dynamic one (R251). -/
structure PFacts where
  v : List (Option Word)
  p : List (Option Bool)
  s : List (Option Word)
  b : List (Option BReg)
  w : Option Nat
  deriving DecidableEq, Repr

/-- At the entry every register holds its reset value (R17, R251). -/
def Launch.pressStart (l : Launch) : PFacts :=
  { v := List.replicate l.regs (some 0), p := (List.range 16).map fun n => some (n = 0), s := List.replicate 64 (some 0),
    b := List.replicate 8 (some ⟨.unprepared, 0⟩), w := some 0 }

/-- Registers by name: vector registers within the window, predicates, uniform registers. -/
structure Names where
  v : List Nat
  p : List Nat
  s : List Nat
  deriving DecidableEq, Repr

/-- A word that may be static (R252): its sources, its destinations and its meaning. -/
structure PWord where
  src : Names
  dst : Names
  run : State → Host.Outcome State Fault Refusal

/-- A word on vector registers. -/
def pwV (run : State → Host.Outcome State Fault Refusal) (d a : List Nat) : Option PWord := some ⟨⟨a, [], []⟩, ⟨d, [], []⟩, run⟩

/-- An integer compare into predicate pair d. -/
def pwC (run : State → Host.Outcome State Fault Refusal) (d : Nat) (a : List Nat) : Option PWord := some ⟨⟨a, [], []⟩, ⟨[], [d, d + 1], []⟩, run⟩

/-- A uniform word. -/
def pwU (run : State → Host.Outcome State Fault Refusal) (d a : List Nat) : Option PWord := some ⟨⟨[], [], a⟩, ⟨[], [], d⟩, run⟩

/-- A word on predicates. -/
def pwP (run : State → Host.Outcome State Fault Refusal) (d : Nat) (a : List Nat) : Option PWord := some ⟨⟨[], a, []⟩, ⟨[], [d], []⟩, run⟩

/-- The words that are static when their sources and guard are; the uniform loads apart (R252). -/
def pressWord : Instr → Option PWord
  | .add d a b g => pwV (execAdd d a b g) [d] [a, b]
  | .sub d a b g => pwV (execSub d a b g) [d] [a, b]
  | .mul d a b g => pwV (execMul d a b g) [d] [a, b]
  | .mulh d a b g => pwV (execMulh d a b g) [d] [a, b]
  | .mulhu d a b g => pwV (execMulhu d a b g) [d] [a, b]
  | .mad d a b g => pwV (execMad d a b g) [d] [a, b, d]
  | .and d a b g => pwV (execAnd d a b g) [d] [a, b]
  | .or d a b g => pwV (execOr d a b g) [d] [a, b]
  | .xor d a b g => pwV (execXor d a b g) [d] [a, b]
  | .shl d a b g => pwV (execShl d a b g) [d] [a, b]
  | .shr d a b g => pwV (execShr d a b g) [d] [a, b]
  | .sar d a b g => pwV (execSar d a b g) [d] [a, b]
  | .min d a b g => pwV (execMin d a b g) [d] [a, b]
  | .max d a b g => pwV (execMax d a b g) [d] [a, b]
  | .minu d a b g => pwV (execMinu d a b g) [d] [a, b]
  | .maxu d a b g => pwV (execMaxu d a b g) [d] [a, b]
  | .abs d a g => pwV (execAbs d a g) [d] [a]
  | .neg d a g => pwV (execNeg d a g) [d] [a]
  | .clz d a g => pwV (execClz d a g) [d] [a]
  | .popc d a g => pwV (execPopc d a g) [d] [a]
  | .brev d a g => pwV (execBrev d a g) [d] [a]
  | .bfe d a b g => pwV (execBfe d a b g) [d] [a, b]
  | .bfi d a b g => pwV (execBfi d a b g) [d] [a, b, d]
  | .sel d a b p => some ⟨⟨[a, b], [p], []⟩, ⟨[d], [], []⟩, execSel d a b p⟩
  | .div d a b g => pwV (execDiv d a b g) [d] [a, b]
  | .divu d a b g => pwV (execDivu d a b g) [d] [a, b]
  | .rem d a b g => pwV (execRem d a b g) [d] [a, b]
  | .remu d a b g => pwV (execRemu d a b g) [d] [a, b]
  | .addw d a b g => pwV (execAddw d a b g) [d, d + 1] [a, a + 1, b, b + 1]
  | .subw d a b g => pwV (execSubw d a b g) [d, d + 1] [a, a + 1, b, b + 1]
  | .shlw d a b g => pwV (execShlw d a b g) [d, d + 1] [a, a + 1, b]
  | .mov d a g => pwV (execMov d a g) [d] [a]
  | .dp4a d a b g => pwV (execDp4a d a b g) [d] [a, b, d]
  | .addi d a i => pwV (execAddi d a i) [d] [a]
  | .andi d a i => pwV (execAndi d a i) [d] [a]
  | .ori d a i => pwV (execOri d a i) [d] [a]
  | .xori d a i => pwV (execXori d a i) [d] [a]
  | .shli d a i => pwV (execShli d a i) [d] [a]
  | .shri d a i => pwV (execShri d a i) [d] [a]
  | .sari d a i => pwV (execSari d a i) [d] [a]
  | .muli d a i => pwV (execMuli d a i) [d] [a]
  | .addwi d a i => pwV (execAddwi d a i) [d, d + 1] [a, a + 1]
  | .movi d i => pwV (execMovi d i) [d] []
  | .li d g x => pwV (execLi d g x) [d] []
  | .icmpEq d a b g => pwC (execIcmpEq d a b g) d [a, b]
  | .icmpNe d a b g => pwC (execIcmpNe d a b g) d [a, b]
  | .icmpLt d a b g => pwC (execIcmpLt d a b g) d [a, b]
  | .icmpLe d a b g => pwC (execIcmpLe d a b g) d [a, b]
  | .icmpLtu d a b g => pwC (execIcmpLtu d a b g) d [a, b]
  | .icmpLeu d a b g => pwC (execIcmpLeu d a b g) d [a, b]
  | .icmpiEq d a i => pwC (execIcmpiEq d a i) d [a]
  | .icmpiNe d a i => pwC (execIcmpiNe d a i) d [a]
  | .icmpiLt d a i => pwC (execIcmpiLt d a i) d [a]
  | .icmpiLe d a i => pwC (execIcmpiLe d a i) d [a]
  | .icmpiLtu d a i => pwC (execIcmpiLtu d a i) d [a]
  | .icmpiLeu d a i => pwC (execIcmpiLeu d a i) d [a]
  | .movs d a g => some ⟨⟨[], [], [a]⟩, ⟨[d], [], []⟩, execMovs d a g⟩
  | .uadd d a b g => pwU (execUadd d a b g) [d] [a, b]
  | .usub d a b g => pwU (execUsub d a b g) [d] [a, b]
  | .umul d a b g => pwU (execUmul d a b g) [d] [a, b]
  | .uand d a b g => pwU (execUand d a b g) [d] [a, b]
  | .uor d a b g => pwU (execUor d a b g) [d] [a, b]
  | .uxor d a b g => pwU (execUxor d a b g) [d] [a, b]
  | .ushl d a b g => pwU (execUshl d a b g) [d] [a, b]
  | .ushr d a b g => pwU (execUshr d a b g) [d] [a, b]
  | .uaddw d a b g => pwU (execUaddw d a b g) [d, d + 1] [a, a + 1, b, b + 1]
  | .umov d a g => pwU (execUmov d a g) [d] [a]
  | .uaddi d a i => pwU (execUaddi d a i) [d] [a]
  | .uli d g x => pwU (execUli d g x) [d] []
  | .pand d a b g => pwP (execPand d a b g) d [a, b]
  | .por d a b g => pwP (execPor d a b g) d [a, b]
  | .pxor d a b g => pwP (execPxor d a b g) d [a, b]
  | .pandn d a b g => pwP (execPandn d a b g) d [a, b]
  | .pset d i => pwP (execPset d i) d []
  | _ => none

/-- n registers from d. -/
def fromReg (d n : Nat) : List Nat := (List.range n).map (d + ·)

/-- The registers that a word writes which is never static (R251). -/
def otherWrites : Instr → Names
  | .adds d _ _ _ => ⟨[d], [], []⟩ | .subs d _ _ _ => ⟨[d], [], []⟩
  | .shfl d _ _ _ => ⟨[d], [], []⟩ | .shflx d _ _ _ => ⟨[d], [], []⟩ | .bcast d _ _ _ => ⟨[d], [], []⟩
  | .voteany d _ _ => ⟨[], [d, d + 1], []⟩ | .voteall d _ _ => ⟨[], [d, d + 1], []⟩ | .ballot d _ _ => ⟨[d], [], []⟩
  | .redadd d _ _ => ⟨[d], [], []⟩ | .redmin d _ _ => ⟨[d], [], []⟩ | .redmax d _ _ => ⟨[d], [], []⟩
  | .scanadd d _ _ => ⟨[d], [], []⟩ | .elect d _ => ⟨[], [d, d + 1], []⟩ | .electw d _ => ⟨[], [d, d + 1], []⟩
  | .lid d _ => ⟨[d], [], []⟩ | .rdsr d _ => ⟨[d], [], []⟩
  | .uget d _ _ _ => ⟨[], [], [d]⟩ | .uldw d _ _ => ⟨[], [], [d]⟩ | .uldd d _ _ => ⟨[], [], [d, d + 1]⟩
  | .pget d _ => ⟨[d], [], []⟩ | .pput _ _ => ⟨[], fromReg 2 14, []⟩
  | .fadd d _ _ _ => ⟨[d], [], []⟩ | .fsub d _ _ _ => ⟨[d], [], []⟩ | .fmul d _ _ _ => ⟨[d], [], []⟩
  | .ffma d _ _ _ => ⟨[d], [], []⟩ | .ffms d _ _ _ => ⟨[d], [], []⟩ | .fmin d _ _ _ => ⟨[d], [], []⟩
  | .fmax d _ _ _ => ⟨[d], [], []⟩ | .fabs d _ _ => ⟨[d], [], []⟩ | .fneg d _ _ => ⟨[d], [], []⟩
  | .fdiv d _ _ _ => ⟨[d], [], []⟩ | .fsqrt d _ _ => ⟨[d], [], []⟩ | .frcp d _ _ => ⟨[d], [], []⟩
  | .frsq d _ _ => ⟨[d], [], []⟩ | .fex2 d _ _ => ⟨[d], [], []⟩ | .flg2 d _ _ => ⟨[d], [], []⟩
  | .frnd d _ _ => ⟨[d], [], []⟩ | .fcls d _ _ => ⟨[d], [], []⟩ | .fscl d _ _ _ => ⟨[d], [], []⟩
  | .fcmpEq d _ _ _ => ⟨[], [d, d + 1], []⟩ | .fcmpLt d _ _ _ => ⟨[], [d, d + 1], []⟩
  | .fcmpLe d _ _ _ => ⟨[], [d, d + 1], []⟩ | .fcmpUn d _ _ _ => ⟨[], [d, d + 1], []⟩
  | .hadd2 d _ _ _ => ⟨[d], [], []⟩ | .hmul2 d _ _ _ => ⟨[d], [], []⟩ | .hfma2 d _ _ _ => ⟨[d], [], []⟩
  | .badd2 d _ _ _ => ⟨[d], [], []⟩ | .bmul2 d _ _ _ => ⟨[d], [], []⟩ | .bfma2 d _ _ _ => ⟨[d], [], []⟩
  | .dp2h d _ _ _ => ⟨[d], [], []⟩ | .dp2b d _ _ _ => ⟨[d], [], []⟩
  | .cvtfi d _ _ => ⟨[d], [], []⟩ | .cvtfu d _ _ => ⟨[d], [], []⟩ | .cvtif d _ _ => ⟨[d], [], []⟩ | .cvtuf d _ _ => ⟨[d], [], []⟩
  | .cvth d _ _ _ => ⟨[d], [], []⟩ | .cvthl d _ _ => ⟨[d], [], []⟩ | .cvthh d _ _ => ⟨[d], [], []⟩
  | .cvtb d _ _ _ => ⟨[d], [], []⟩ | .cvtbl d _ _ => ⟨[d], [], []⟩ | .cvtbh d _ _ => ⟨[d], [], []⟩
  | .cvte4 d _ _ _ => ⟨[d], [], []⟩ | .cvte4f d _ _ => ⟨[d], [], []⟩ | .cvte5 d _ _ _ => ⟨[d], [], []⟩ | .cvte5f d _ _ => ⟨[d], [], []⟩
  | .fork _ _ a => ⟨[a], [], []⟩ | .mrd d _ _ _ => ⟨[d], [], []⟩
  | .ldb d _ _ => ⟨[d], [], []⟩ | .ldsb d _ _ => ⟨[d], [], []⟩ | .ldh d _ _ => ⟨[d], [], []⟩ | .ldsh d _ _ => ⟨[d], [], []⟩
  | .ldw d _ _ => ⟨[d], [], []⟩ | .ldd d _ _ => ⟨fromReg d 2, [], []⟩ | .ldq d _ _ => ⟨fromReg d 4, [], []⟩
  | .ldbx d _ _ _ => ⟨[d], [], []⟩ | .ldhx d _ _ _ => ⟨[d], [], []⟩ | .ldwx d _ _ _ => ⟨[d], [], []⟩ | .lddx d _ _ _ => ⟨fromReg d 2, [], []⟩
  | .amoadd d _ _ _ => ⟨[d], [], []⟩ | .amomin d _ _ _ => ⟨[d], [], []⟩ | .amomax d _ _ _ => ⟨[d], [], []⟩
  | .amominu d _ _ _ => ⟨[d], [], []⟩ | .amomaxu d _ _ _ => ⟨[d], [], []⟩ | .amoand d _ _ _ => ⟨[d], [], []⟩
  | .amoor d _ _ _ => ⟨[d], [], []⟩ | .amoxor d _ _ _ => ⟨[d], [], []⟩ | .amoxchg d _ _ _ => ⟨[d], [], []⟩
  | .amocas d _ _ _ => ⟨[d], [], []⟩ | .amofadd d _ _ _ => ⟨[d], [], []⟩ | .amofmin d _ _ _ => ⟨[d], [], []⟩
  | .amofmax d _ _ _ => ⟨[d], [], []⟩ | .amoaddw d _ _ _ => ⟨fromReg d 2, [], []⟩
  | .sbtest d _ _ _ => ⟨[], [d, d + 1], []⟩ | .hnext d _ _ => ⟨[d], [], []⟩ | .dbgm d _ _ => ⟨[d], [], []⟩
  | _ => ⟨[], [], []⟩

/-- The registers that a word writes. -/
def wordWrites (i : Instr) : Names :=
  match pressWord i with
  | some w => w.dst
  | none => otherWrites i

/-- A vector register is in the allocation, with the physical number. -/
def PFacts.phys (x : PFacts) (n : Nat) : Option Nat :=
  match x.w with
  | some w => if w + n < x.v.length then some (w + n) else none
  | none => none

def PFacts.vAt (x : PFacts) (n : Nat) : Option Word := (x.phys n).bind fun k => (x.v[k]?).join
def PFacts.pAt (x : PFacts) (n : Nat) : Option Bool := (x.p[n]?).join
def PFacts.sAt (x : PFacts) (n : Nat) : Option Word := (x.s[n]?).join

/-- The registers named become dynamic; a vector register does so wherever the window may stand, and the constant registers stay (R251). -/
def PFacts.lose (x : PFacts) (n : Names) : PFacts :=
  { x with v := n.v.foldl (fun v d => match x.w with
             | some w => setAt v (w + d) none
             | none => v.map fun _ => none) x.v,
           p := n.p.foldl (fun p d => if d < 2 then p else setAt p d none) x.p,
           s := n.s.foldl (fun s d => if d = 0 then s else setAt s d none) x.s }

/-- A machine of one fibre with the static values as its registers, which stands at a word of a clause with the header given. -/
def pressState (l : Launch) (x : PFacts) (hdr : Word) : State :=
  let l := { l with ref := ⟨0, 0⟩, preempt := none }
  let r : FRef := ⟨⟨l.ref, 0⟩, 0, 0⟩
  let f := { l.newFibre r 0 with
    regs := x.v.map (·.getD 0), wbase := x.w.getD 0, hdr := hdr, words := [0], st := .run,
    preds := BitVec.ofNat 16 ((List.range 16).map fun n => if (x.pAt n).getD false then 2 ^ n else 0).sum }
  { State.reset with launches := [l], wgs := [l.newWg 0 0], cur := r, fibres := [f],
                     warps := [{ wref := r.wref, j := 0, sregs := x.s.map (·.getD 0), slot := 0, active := true, halts := [] }] }

/-- The static values after a word is evaluated: its destinations take what the word itself computes (R251, R252). -/
def PFacts.eval (l : Launch) (x : PFacts) (hdr : Word) (w : PWord) : PFacts :=
  match w.run (pressState l x hdr) with
  | .next t => match t.fibres, t.warps with
    | f :: _, p :: _ =>
      let regs := f.outs.foldl (fun r o => writeOuts r o.dst (o.vals.getD [])) f.regs
      { x with v := w.dst.v.foldl (fun v d => let k := x.w.getD 0 + d; setAt v k (some (regs.getD k 0))) x.v,
               p := w.dst.p.foldl (fun q d => setAt q d (some (f.pred d))) x.p,
               s := w.dst.s.foldl (fun q d => setAt q d (some (sget p d))) x.s }
    | _, _ => x
  | _ => x

/-- Byte o of the argument window is a static argument byte (R239, R251). -/
def Launch.staticByte (l : Launch) (o : Nat) : Bool := decide (o < l.args.length) && (l.smap.getD (o / 8) 0).getLsbD (o % 8)

/-- The words of a uniform load of n bytes at a static address that covers only static argument bytes (R252). -/
def PFacts.uload (l : Launch) (x : PFacts) (a i n : Nat) : Option (List Word) := do
  let lo ← x.sAt a
  let hi ← x.sAt (a + 1)
  let ea := (pair64 lo hi + imm64 i).toNat
  let o := ea % 65536
  if ea % n = 0 ∧ inArgs ea ∧ ea < 2 ^ 56 ∧ (List.range n).all fun k => l.staticByte (o + k) then
    some (loadWords n false ((List.range n).map fun k => l.args.getD (o + k) 0))
  else none

/-- A word is static; the static values after it (R252). none is a word that is not. -/
def PFacts.word (l : Launch) (x : PFacts) (hdr w0 : Word) (i : Instr) : Option PFacts := do
  let g ← x.pAt (guardWith l.dtab.look w0 (bits hdr.toNat 6 3))
  match i with
  | .uldw d a k => do
    let ws ← x.uload l a k 4
    some (if g ∧ d ≠ 0 then { x with s := setAt x.s d (some (ws.getD 0 0)) } else x)
  | .uldd d a k => do
    let ws ← x.uload l a k 8
    some (if g then { x with s := setAt (if d = 0 then x.s else setAt x.s d (some (ws.getD 0 0))) (d + 1) (some (ws.getD 1 0)) } else x)
  | _ => do
    let w ← pressWord i
    if w.src.v.all (fun n => (x.vAt n).isSome) && w.src.p.all (fun n => (x.pAt n).isSome) && w.src.s.all (fun n => (x.sAt n).isSome)
        && w.dst.v.all (fun n => (x.phys n).isSome) then
      some (if g then x.eval l hdr w else x)
    else none

/-! ## Residual words (R255) -/

/-- A piece of residual code: words that copy or stand for the len original words from idx on (none for materialising words), whether they need
an unguarded V clause, and the weight that goes before them. -/
structure PItem where
  idx : Option Nat
  len : Nat
  words : List Word
  plain : Bool
  gap : Nat
  deriving DecidableEq, Repr

/-- A value as a 10-bit immediate, where it is one (R43). -/
def asImm (x : Word) : Option Nat := if imm32 (x.toNat % 1024) = x then some (x.toNat % 1024) else none

/-- The materialising word for vector register n. -/
def matV (n : Nat) (x : Word) : List Word :=
  match asImm x with
  | some i => encode (.movi n i)
  | none => encode (.li n 0 x)

/-- The materialising word for uniform register n (R255). -/
def matS (n : Nat) (x : Word) : List Word :=
  match asImm x with
  | some i => encode (.uaddi n 0 i)
  | none => encode (.uli n 0 x)

/-- A static word: its index, words and weight, whether it is a convergence point, and the registers it writes, none where its guard is false. -/
structure PStatic where
  k : Nat
  words : List Word
  n : Nat
  conv : Bool
  dst : Names

/-- Static words on their way to residual ones: the pieces so far, what vector registers and predicates have still to take, the uniform registers
that have and those that have taken their value, the weight that is free, and the weight that a stand-in has taken of the words after it. -/
structure PMat where
  items : List PItem
  mats : List (List Word)
  us : List Nat
  set : List Nat
  free : Nat
  owed : Nat
  ok : Bool

/-- The materialising words, in order, that fit into free weight; the others; and the weight left. -/
def takeMats : Nat → List (List Word) → List (List Word) × List (List Word) × Nat
  | n, [] => ([], [], n)
  | n, m :: r => if m.length ≤ n then (m :: (takeMats (n - m.length) r).1, (takeMats (n - m.length) r).2) else ([], m :: r, n)

/-- The materialising words that fit now. -/
def PMat.fill (y : PMat) : PMat :=
  let x := takeMats y.free y.mats
  { y with items := y.items ++ x.1.map fun m => ⟨none, 0, m, true, 0⟩, mats := x.2.1, free := x.2.2 }

/-- A static word's weight becomes free; at a convergence point stands, at its clock, a write of the next uniform register that has still to take
its value, or of none (R255). -/
def PMat.step (x : PFacts) (y : PMat) (w : PStatic) : PMat :=
  if w.conv then
    let y := { y with ok := y.ok && y.owed = 0 }.fill
    let us := y.us ++ w.dst.s.filter fun d => d ≠ 0 && !y.us.contains d && !y.set.contains d
    let m := match us with
      | [] => encode (.uaddi 0 0 0)
      | d :: _ => matS d ((x.sAt d).getD 0)
    { y with items := y.items ++ [⟨some w.k, w.words.length, m, true, y.free⟩], us := us.drop 1, set := us.take 1 ++ y.set,
             free := w.n - m.length, owed := m.length - w.n }
  else { y with free := y.free + (w.n - y.owed), owed := y.owed - w.n }

/-- The registers that static words write, each once, the one written last coming last. -/
def lastWrites (f : Names → List Nat) (ws : List PStatic) : List Nat :=
  ws.foldl (fun vs w => vs.filter (fun a => !(f w.dst).contains a) ++ f w.dst) []

/-- What a group of static words gives way to, with the free weight wt before it and n after it, and the weight left; none where the materialising
words do not fit. x holds the static values after the group (R255). -/
def materialise (x : PFacts) (wt n : Nat) (ws : List PStatic) : Option (List PItem × Nat) :=
  let ms := ((lastWrites (·.v) ws).map fun r => matV r ((x.vAt r).getD 0))
    ++ ((lastWrites (·.p) ws).filter (2 ≤ ·)).map fun r => encode (.pset r (if (x.pAt r).getD false then 1 else 0))
  let y := ws.foldl (PMat.step x) ⟨[], ms, [], [], wt, 0, true⟩
  let z := { y with free := y.free + (n - y.owed), owed := y.owed - n }.fill
  if z.ok ∧ z.owed = 0 ∧ z.mats.isEmpty ∧ z.us.isEmpty then some (z.items, z.free) else none

/-- A clause as it is folded: the residual pieces in order, the weight left before the static words that have not been placed, these words, the
static values, and the children of forks. ok is false once materialising words do not fit in an S clause. -/
structure PFold where
  items : List PItem
  wt : Nat
  grp : List PStatic
  facts : PFacts
  forks : List (Nat × BitVec 57 × PFacts)
  ok : Bool

/-- The static words so far give way to materialising words, within their weight and n; where these do not fit, the words of a U clause are copied,
and an S clause is not folded (R253, R255). -/
def PFold.flush (strict : Bool) (n : Nat) (y : PFold) : PFold :=
  match materialise y.facts y.wt n y.grp with
  | some x => { y with items := y.items ++ x.1, wt := x.2, grp := [] }
  | none => if strict then { y with ok := false, grp := [] } else
    { y with items := y.items ++ ((List.range y.grp.length).zip y.grp).map (fun w => ⟨some w.2.k, w.2.words.length, w.2.words, false, if w.1 = 0 then y.wt else 0⟩),
             wt := n, grp := [] }

/-- A copy of original word k; the weight left over goes before it (R256). -/
def PFold.keep (strict : Bool) (y : PFold) (k : Nat) (ws : List Word) : PFold :=
  let z := y.flush strict 0
  { z with items := z.items ++ [⟨some k, ws.length, ws, false, z.wt⟩], wt := 0 }

/-- The static values after a `ph`: the registers that it does not leave live become dynamic, all but those it names where the window base is not
static (R251, R300). -/
def PFacts.afterPh (x : PFacts) (flags : Nat) (lo hi : Word) : PFacts :=
  match x.w with
  | some w => { x with v := (x.v.zip (phLiveAt x.v.length w flags lo hi)).map fun y => if y.2 then y.1 else none }
  | none => { x with v := x.v.map fun _ => none }

/-- What a kept word does to the static values: it makes its registers dynamic, and `prep` prepares a static target (R251, R257). -/
def PFacts.after (l : Launch) (x : PFacts) (pc : BitVec 57) (hdr w0 : Word) (i : Instr) : PFacts :=
  let g := x.pAt (guardWith l.dtab.look w0 (bits hdr.toNat 6 3))
  match i with
  | .prep t k => match g with
    | some true => { x with b := setAt x.b t (some ⟨.prepared, pc + BitVec.ofInt 57 (4 * sx 19 k)⟩) }
    | some false => x
    | none => { x with b := setAt x.b t none }
  | .prepr t _ _ => if g = some false then x else { x with b := setAt x.b t none }
  | .ph flags lo hi _ _ => if g = some false then x else x.afterPh flags lo hi
  | _ => if g = some false then x else x.lose (wordWrites i)

/-- The target of branch-target register t, where it is static (R257). -/
def PFacts.target (x : PFacts) (t : Nat) : Option (BitVec 57) :=
  match (x.b[t]?).join with
  | some ⟨.prepared, a⟩ => some a
  | _ => none

/-- One word of a clause, at index k with words ws: folded when it is static and fold says how, for an S clause or for a U clause; else kept. -/
def PFold.step (l : Launch) (pc : BitVec 57) (hdr : Word) (fold : Option Bool) (k : Nat) (ws : List Word) (i : Instr) (y : PFold) : PFold :=
  let w0 := ws.getD 0 0
  match if fold.isSome then y.facts.word l hdr w0 i else none with
  | some x =>
    let g := (y.facts.pAt (guardWith l.dtab.look w0 (bits hdr.toNat 6 3))).getD false
    { y with facts := x, grp := y.grp ++ [⟨k, ws, weightWith l.dtab.look w0, (convFire i).isSome, if g then wordWrites i else ⟨[], [], []⟩⟩] }
  | none =>
    let z := y.keep (fold.getD false) k ws
    let x := z.facts.after l pc hdr w0 i
    let f := match i with
      | .fork t g _ => match z.facts.target t with
        | some a => if z.facts.pAt g = some false then [] else [(k, a, x)]
        | none => []
      | _ => []
    { z with facts := x, forks := z.forks ++ f }

/-- The instructions of a clause with their index and words; the list ends at an illegal word, which faults. -/
def clauseInstrs (tab : Nat → Option Nat) (hdr : Word) : Nat → Nat → List Word → List (Nat × List Word × Instr)
  | 0, _, _ => []
  | _ + 1, _, [] => []
  | n + 1, k, w :: r => match decodeWith tab (w :: r) with
    | .ok i rest => if placeOk ((tab (w.toNat / 2 ^ 22)).getD 0) hdr.toNat rest.isEmpty then
        (k, (w :: r).take (lenWith tab w), i) :: clauseInstrs tab hdr n (k + lenWith tab w) rest
      else []
    | .bad _ => []

/-- A way out of a clause: the address and the static values there. -/
abbrev POut := List (BitVec 57 × PFacts)

/-- The ways out of a clause whose last word is i, with the static values x before it; and whether that word is a transfer to be removed: a `jmp`
through a register that is not static is kept, also where its guard is false (R257). -/
def transferOuts (x : PFacts) (next : BitVec 57) (i : Instr) : POut × Bool :=
  let outs := fun (g : Option Bool) (taken : POut) (rm : Bool) => match g with
    | some true => (taken, rm)
    | some false => ([(next, x)], rm)
    | none => (taken ++ [(next, x)], false)
  let link := fun (y : PFacts) (t : Option (BitVec 57)) => match t with
    | some a => [(a, y)]
    | none => []
  match i with
  | .jmp t g => outs (x.pAt g) (link x (x.target t)) (x.target t).isSome
  | .call t g f => outs (x.pAt g) (link ({ x with w := x.w.map (· + 8 * f), b := setAt x.b 7 (some ⟨.prepared, next⟩) }.lose ⟨[0, 1], [], []⟩) (x.target t)) false
  | .ret g f => outs (x.pAt g) (link { x with w := x.w.bind fun w => if w < 8 * f then none else some (w - 8 * f) } (x.target 7)) false
  | .halt g => outs (x.pAt g) [] false
  | _ => ([(next, x)], false)

/-- A transfer's guard is static. -/
def transferStatic (x : PFacts) : Instr → Bool
  | .jmp _ g => (x.pAt g).isSome
  | .call _ g _ => (x.pAt g).isSome
  | .ret g _ => (x.pAt g).isSome
  | .halt g => (x.pAt g).isSome
  | _ => false

/-- The word is a terminal transfer (R31). -/
def isTransfer : Instr → Bool
  | .jmp _ _ => true
  | .call _ _ _ => true
  | .ret _ _ => true
  | .halt _ => true
  | _ => false

/-- A clause gone through word by word, its last word apart where that is a transfer. -/
def foldClause (l : Launch) (pc : BitVec 57) (hdr : Word) (fold : Option Bool) (x : PFacts) (is : List (Nat × List Word × Instr)) : PFold :=
  is.foldl (fun y w => y.step l pc hdr fold w.1 w.2.1 w.2.2) ⟨[], 0, [], x, [], true⟩

/-- The residual pieces of a clause under its mark, the weight left at its end, its ways out and its forks (R253, R255, R257). -/
structure PClause where
  items : List PItem
  carry : Nat
  outs : POut
  forks : List (Nat × BitVec 57 × PFacts)

/-- Every word is static, one after the other (R253). -/
def allStatic (l : Launch) (hdr : Word) : PFacts → List (Nat × List Word × Instr) → Bool
  | _, [] => true
  | x, (_, ws, i) :: r => match x.word l hdr (ws.getD 0 0) i with
    | some y => allStatic l hdr y r
    | none => false

/-- The clause treated as its mark says: an S clause that meets its condition is folded, where the materialising words fit; of a U clause the static
words are, where they fit; every other clause is copied, and what it writes becomes dynamic (R47, R253). -/
def pressClause (l : Launch) (pc : BitVec 57) (hdr : Word) (ws : List Word) (x : PFacts) : PClause :=
  let is := clauseInstrs l.dtab.look hdr ws.length 0 ws
  let last := is.getLast?.bind fun w => if isTransfer w.2.2 then some w else none
  let body := if last.isSome then is.dropLast else is
  let next := pc + BitVec.ofNat 57 (4 * (1 + ws.length))
  let whole := decide ((is.map fun w => w.2.1.length).sum = ws.length)
  let strict := decide (bits hdr.toNat 16 15 = 1)
  let y := foldClause l pc hdr (some strict) x body
  let ends := last.map fun w => transferStatic y.facts w.2.2
  let cond : Bool := whole && (if strict then allStatic l hdr x body && ends.getD true else decide (bits hdr.toNat 16 15 = 2) && ends.getD false)
  let folded : PFold × POut := match last with
    | some w =>
      let o := transferOuts y.facts next w.2.2
      (if o.2 then y.flush strict (weightWith l.dtab.look (w.2.1.getD 0 0)) else y.keep strict w.1 w.2.1, o.1)
    | none => (y.flush strict 0, [(next, y.facts)])
  if cond ∧ folded.1.ok then ⟨folded.1.items, folded.1.wt, folded.2, folded.1.forks⟩
  else
    let z := foldClause l pc hdr none x body
    let rest := (is.map fun w => w.2.1.length).sum
    let items : List PItem := (is.map fun w => ⟨some w.1, w.2.1.length, w.2.1, false, 0⟩)
      ++ (if whole then [] else [⟨some rest, (ws.drop rest).length, ws.drop rest, false, 0⟩])
    let outs := if !whole then [] else match last with
      | some w => (transferOuts z.facts next w.2.2).1
      | none => [(next, z.facts)]
    ⟨items, 0, outs, z.forks⟩

/-! ## Residual clauses and the back-map (R255, R256, R260) -/

/-- A residual clause: header fields, words, and their `WMAP` fields. -/
structure RClause where
  cls : Nat
  term : Bool
  wait : Nat
  set : Nat
  xw : Nat
  cg : Nat
  words : List Word
  wmap : List Nat
  mapped : Bool
  deriving DecidableEq, Repr

/-- The words of a residual clause with its header (R28). -/
def RClause.all (c : RClause) : List Word :=
  BitVec.ofNat 32 (c.words.length * 2 ^ 28 + c.cls * 2 ^ 25 + (if c.term then 2 ^ 24 else 0) + c.wait * 2 ^ 20 + c.set * 2 ^ 17 + c.xw * 2 ^ 7
    + c.cg * 8) :: c.words

/-- Inserted clauses of one `clk` word that carry weight w until at most r of it is left; fuel bounds their number (R256). -/
def clkClauses (r : Nat) : Nat → Nat → List RClause × Nat
  | 0, w => ([], w)
  | n + 1, w =>
    if w ≤ r then ([], w)
    else
      let xw := min 255 (w - 1)
      let k := min 1023 (w - 1 - xw)
      let x := clkClauses r n (w - 1 - xw - k)
      ({ cls := 4, term := false, wait := 0, set := 0, xw := xw, cg := 0, words := encode (.clk k), wmap := [15], mapped := false } :: x.1, x.2)

/-- A piece as a clause of its own, after the weight before it; the inserted clauses that the weight needs come first. hdr is the original
header, xw the weight that its entry adds. -/
def PItem.clauses (hdr : Word) (first : Bool) (xw : Nat) (it : PItem) : List RClause :=
  let n := xw + it.gap
  let c := clkClauses 255 n n
  let h := hdr.toNat
  c.1 ++ [{ cls := if it.plain then 0 else bits h 27 25, term := decide (¬ it.plain ∧ bits h 24 24 = 1 ∧ it.idx = some (bits h 31 28 - 1)), wait := if first then bits h 23 20 else 0,
            set := if it.plain then 0 else bits h 19 17, xw := c.2, cg := if it.plain then 0 else bits h 6 3, words := it.words,
            wmap := match it.idx with
              | some k => (List.range it.words.length).map fun i => k + min i (it.len - 1)
              | none => it.words.map fun _ => 15,
            mapped := false }]

/-- Two neighbouring residual clauses make one where their headers allow it. -/
def RClause.join (a b : RClause) : Option RClause :=
  if a.cls = b.cls ∧ a.cg = b.cg ∧ a.set = b.set ∧ b.wait = 0 ∧ b.xw = 0 ∧ ¬ a.term ∧ a.words.length + b.words.length ≤ 15 then
    some { a with words := a.words ++ b.words, wmap := a.wmap ++ b.wmap, term := b.term }
  else none

/-- Residual clauses with neighbours joined. -/
def joinClauses : List RClause → List RClause
  | [] => []
  | c :: r => match joinClauses r with
    | [] => [c]
    | d :: q => match c.join d with
      | some x => x :: q
      | none => c :: d :: q

/-- The residual clauses of a clause's pieces, entered with weight carried (R255, R256); and the weight carried on. -/
def residualOf (hdr : Word) (carried : Nat) (c : PClause) : List RClause × Nat :=
  let xw := bits hdr.toNat 14 7 + carried
  let n := c.items.length
  let cs := ((List.range n).zip c.items).flatMap fun x => x.2.clauses hdr (x.1 = 0) (if x.1 = 0 then xw else 0)
  let js := joinClauses cs
  (match js with
    | [] => []
    | x :: r => { x with mapped := carried = 0 } :: r, if n = 0 then xw + c.carry else c.carry)

/-- A back-map entry (R260). -/
def backEntry (oaddr : BitVec 57) (iter : Nat) (c : RClause) : BitVec 128 :=
  BitVec.ofNat 128 (oaddr.toNat + (c.wmap.foldr (fun m n => n * 16 + m) 0) * 2 ^ 60 + iter * 2 ^ 120 + (if c.mapped then 2 ^ 127 else 0))

/-! ## Forms, unrolling and limits (R257 to R259) -/

/-- A form as it is built: what it is found by, its clauses and its back-map, and its links. -/
structure PBuilt where
  addr : BitVec 57
  facts : PFacts
  carry : Nat
  iter : Nat
  clauses : List RClause
  links : List (BitVec 57 × Nat)
  forks : List (Nat × Nat)
  /-- the words that an exit at its end would need for the weight that it carries on (R256, R258) -/
  spare : Nat

/-- Where a form is wanted from: none for the entry, else a form's index with the fork's word, if it is one. -/
structure PWant where
  src : Option (Nat × Option Nat)
  addr : BitVec 57
  facts : PFacts
  carry : Nat
  /-- the back-edges taken on the path, latest first: from, to, times -/
  path : List (BitVec 57 × BitVec 57 × Nat)

/-- The Press at work: forms, the original clauses that it has reached with their words, and whether the kernel may be specialised. -/
structure PBuild where
  forms : List PBuilt
  reached : List (BitVec 57 × List Word)
  ok : Bool

/-- The words of residual clauses, headers included. -/
def rWords (cs : List RClause) : Nat := (cs.map fun c => 1 + c.words.length).sum

/-- A form's link to form n, from a transfer or a fork. -/
def PBuild.link (b : PBuild) (w : PWant) (n : Nat) : PBuild :=
  match w.src with
  | none => b
  | some (k, kind) => { b with forms := (List.range b.forms.length).zip b.forms |>.map fun x =>
      if x.1 = k then (match kind with
        | none => { x.2 with links := (w.addr, n) :: x.2.links, spare := 0 }
        | some i => { x.2 with forks := (i, n) :: x.2.forks })
      else x.2 }

/-- An exit (R258): weight still carried is spent before the boundary, which is mapped. -/
def PBuild.exit (b : PBuild) (w : PWant) : PBuild :=
  match w.src with
  | some (k, none) => { b with forms := (List.range b.forms.length).zip b.forms |>.map fun x =>
      if x.1 = k then { x.2 with clauses := x.2.clauses ++ (clkClauses 0 w.carry w.carry).1, spare := 0 } else x.2 }
  | _ => b

/-- The unroll iteration of a clause on a path: how often the latest back-edge around it was taken, 0 outside loops (R260). DEDUCED, safe, log
31. -/
def iterOf (path : List (BitVec 57 × BitVec 57 × Nat)) (a : BitVec 57) : Nat :=
  ((path.find? fun e => decide (e.2.1 ≤ a ∧ a ≤ e.1)).map (·.2.2)).getD 0

/-- The path after a transfer: a back-edge is one to an address not above its clause (R257). -/
def pathTo (path : List (BitVec 57 × BitVec 57 × Nat)) (src dst : BitVec 57) : List (BitVec 57 × BitVec 57 × Nat) :=
  if dst ≤ src then
    let n := ((path.find? fun e => e.1 = src ∧ e.2.1 = dst).map (·.2.2)).getD 0
    (src, dst, n + 1) :: path.filter fun e => ¬ (e.1 = src ∧ e.2.1 = dst)
  else path

/-- One form is built where it is wanted and the limits allow it: at most 64 iterations of a loop, four times the words reached, 256 KiB, the
words that exits would need counted (R257, R259); the forms wanted next. The order in which forms are built is the model's choice; so is that
the code in which an `icinv` is looked for (R253, R299) is that of the clauses which the Press follows to, and not what lies behind an exit.
DESIGN CHOICE, safe, log 31. -/
def PBuild.build (fetch : BitVec 57 → Option (Word × List Word)) (l : Launch) (b : PBuild) (w : PWant) : PBuild × List PWant :=
  match (List.range b.forms.length).find? fun k => match b.forms[k]? with
      | some f => decide (f.addr = w.addr ∧ f.facts = w.facts ∧ f.carry = w.carry)
      | none => false with
  | some k => (b.link w k, [])
  | none => match fetch w.addr with
    | none => (b.exit w, [])
    | some (hdr, ws) =>
      if ¬ clauseOk l.dtab.look hdr ws ∨ w.path.any fun e => decide (64 ≤ e.2.2) then (b.exit w, [])
      else
        let c := pressClause l w.addr hdr ws w.facts
        let r := residualOf hdr w.carry c
        let reached := if b.reached.any fun x => x.1 = w.addr then b.reached else b.reached ++ [(w.addr, hdr :: ws)]
        let spare := rWords (clkClauses 0 r.2 r.2).1
        let total := (b.forms.map fun f => rWords f.clauses + f.spare).sum + rWords r.1 + spare
        let icinv := (clauseInstrs l.dtab.look hdr ws.length 0 ws).any fun x => match x.2.2 with
          | .icinv _ _ _ => true
          | _ => false
        if 4 * (reached.map fun x => x.2.length).sum < total ∨ 65536 < total then ({ b with ok := b.ok && !icinv }.exit w, [])
        else
          let k := b.forms.length
          let new : PBuilt := { addr := w.addr, facts := w.facts, carry := w.carry, iter := iterOf w.path w.addr, clauses := r.1, links := [], forks := [], spare := spare }
          let b := { b with forms := b.forms ++ [new], reached := reached, ok := b.ok && !icinv }
          (b.link w k, (c.outs.map fun o => { src := some (k, none), addr := o.1, facts := o.2, carry := r.2, path := pathTo w.path w.addr o.1 })
            ++ c.forks.map fun f => { src := some (k, some f.1), addr := f.2.1, facts := f.2.2, carry := 0, path := pathTo w.path w.addr f.2.1 })

/-- Builds the forms wanted, depth first; fuel bounds their number, which the limits do too. -/
def PBuild.all (fetch : BitVec 57 → Option (Word × List Word)) (l : Launch) : Nat → PBuild → List PWant → PBuild
  | 0, b, _ => b
  | _ + 1, b, [] => b
  | n + 1, b, w :: r =>
    let x := b.build fetch l w
    PBuild.all fetch l n x.1 (x.2 ++ r)

/-- What the Press makes of a launch's kernel (R251 to R260). -/
def pressBuild (fetch : BitVec 57 → Option (Word × List Word)) (l : Launch) : PBuild :=
  PBuild.all fetch l (2 ^ 18) ⟨[], [], true⟩ [⟨none, l.entry, l.pressStart, 0, []⟩]

/-- Its forms as a cache entry holds them. -/
def PBuild.forms' (b : PBuild) : List PressForm :=
  b.forms.map fun f => ⟨f.addr, decide (f.carry = 0), f.links, f.forks, (f.clauses.flatMap (·.wmap)).filter (· ≠ 15)⟩

/-- Its residual clauses, in the order of the forms (R255). -/
def PBuild.residual (b : PBuild) : List (List Word) := b.forms.flatMap fun f => f.clauses.map RClause.all

/-- Its back-map, an entry for each residual clause (R260). -/
def PBuild.backMap (b : PBuild) : List (BitVec 128) := b.forms.flatMap fun f => f.clauses.map (backEntry f.addr f.iter)

/-- The words that it reached: their virtual addresses, in the order of reaching (R262). -/
def PBuild.words (b : PBuild) : List Nat := b.reached.flatMap fun x => (List.range x.2.length).map fun k => x.1.toNat + 4 * k

end Sys2Proof.Machine
end

