-- ==== Sys2Proof/Machine/Dispatcher.lean ====
section
/-! DEFINITION. From launch packet to launch (R142, R143, R231 to R241, R264, R283, R344): the dispatcher's reads, the checks of
the two passes, refusal and completion, acceptance, and the Press cache. -/

namespace Sys2Proof.Machine

/-! ## Reads of the dispatcher (R237, R344) -/

/-- A physical byte under the host writes completed before notify write number n (R344). -/
def hostByte (s : State) (p : Partition) (n a : Nat) : Byte :=
  p.writes.foldl (fun b w => if w.stamp < n ∧ w.addr ≤ a ∧ a < w.addr + w.bytes.length then w.bytes.getD (a - w.addr) b else b)
    (memGet s.mem a)

/-- The pages of 64 KiB that n bytes from va touch. -/
def pagesOf (va n : Nat) : List Nat :=
  if n = 0 then [] else (List.range ((va + n - 1) / 65536 - va / 65536 + 1)).map fun k => (va / 65536 + k) * 65536

/-- n bytes at a 64-bit address of a context, read at a packet's boundary; none where they do not translate (R237). DEDUCED, unsafe, log
27. -/
def dispRead (s : State) (p : Partition) (c : Context) (stamp a n : Nat) : Option (List Byte) :=
  if n = 0 then some []
  else match regionOf (BitVec.ofNat 64 a) with
    | some (.glob va) =>
      if inArgs va || inArgs (va + n - 1) || decide ((regionBounds a).2 < a + n) then none
      else do
        let fs ← (pagesOf va n).mapM fun g => match walkFrom s.mem p c g .read [4, 3, 2, 1, 0] c.root with
          | .ok pa => some pa
          | .error _ => none
        some ((List.range n).map fun k => hostByte s p stamp (fs.getD ((va + k) / 65536 - va / 65536) 0 + (va + k) % 65536))
    | _ => none

/-! ## Completion (R231, R234, R238) -/

/-- A completion record (R238). -/
def recordBytes (seq : Word) (status detail : Nat) : List Byte := toBytes 16 (seq.toNat + status * 2 ^ 32 + detail * 2 ^ 64)

/-- Writes a completion record at a virtual address of a context, where that is aligned and translates for a write. DEDUCED, unsafe, log
27. -/
def State.writeRecord (s : State) (p : Partition) (c : Context) (a : Nat) (bs : List Byte) : State :=
  if a % 16 ≠ 0 then s
  else match regionOf (BitVec.ofNat 64 a) with
    | some (.glob va) =>
      if inArgs va then s
      else match walkFrom s.mem p c va .write [4, 3, 2, 1, 0] c.root with
        | .ok pa => { s with mem := memPut s.mem pa bs }
        | .error _ => s
    | _ => s

/-- The completed number advances over every packet that has completed (R231). -/
def advanceDone : Nat → Queue → Queue
  | 0, q => q
  | n + 1, q =>
    if q.done.contains (q.doneSeq + 1) then
      advanceDone n { q with doneSeq := q.doneSeq + 1, done := q.done.filter (· ≠ q.doneSeq + 1) }
    else q

/-- Packet seq of the queue has completed with a status (R231, R234). -/
def Queue.complete (q : Queue) (seq : Word) (status : Nat) : Queue :=
  let f := q.fails.filter (· ≠ seq)
  let r := { q with done := seq :: q.done, fails := if status = 0 then f else seq :: f }
  advanceDone r.done.length r

/-- The queue past its next packet. -/
def Queue.advance (q : Queue) : Queue :=
  { q with nextSeq := q.nextSeq + 1, packet := none, nots := q.nots.filter fun x => x.1 ≠ q.nextSeq + 1 }

/-- The number of the notify write that declared the queue's next packet; in replay that of the first run (R319, R344). -/
def noteOf (p : Partition) (q : Queue) : Nat :=
  match p.replay with
  | some r => match r.order.head? with
    | some x => x.2
    | none => p.notifies
  | none => match q.nots.find? fun x => decide (0 < (x.1 - q.nextSeq).toNat ∧ (x.1 - q.nextSeq).toNat ≤ 2 ^ q.rsize) with
    | some x => x.2
    | none => p.notifies

/-- A partition past one more acceptance or refusal, of packet r with notify number n. DEDUCED, unsafe, log 28. -/
def Partition.accepted (p : Partition) (r : LRef) (n : Nat) : Partition :=
  { p with accs := p.accs + 1, order := p.order ++ [(r, n)],
           replay := p.replay.map fun x => { x with order := x.order.tail } }

/-- A bound scale-out port has a completion to report (R354). -/
def reportPorts (p : Nat) (ps : List Port) : List Port := ps.map fun x => if x.part = some p then { x with report := true } else x

/-- A packet of a partition has completed: its record is written where done says, the completed number advances, and bound ports have
something to report (R231, R238, R354). DEDUCED, unsafe, log 27. -/
def State.completed (s : State) (p : Partition) (c : Context) (q : Nat) (seq : Word) (status detail : Nat) (done : Option Nat) : State :=
  let bs := recordBytes seq status detail
  let t := match done with
    | none => s
    | some a => s.writeRecord p c a bs
  let t := t.updQ q fun x => x.complete seq status
  let t := t.updP p.id fun x => { x with records := x.records ++ [(q, seq, bs)] }
  { t with ports := reportPorts p.id t.ports }

/-- Refuses the queue's next packet: record, completed number, next number (R237, R238). done is where the record goes, if the packet
could be read. DEDUCED, unsafe, log 27; DEDUCED, unsafe, log 28. -/
def State.refuse (s : State) (p : Partition) (q : Queue) (c : Context) (status detail : Nat) (done : Option Nat) : State :=
  ((s.completed p c q.id q.nextSeq status detail done).updQ q.id Queue.advance).updP p.id fun x =>
    x.accepted ⟨q.id, q.nextSeq.toNat⟩ (noteOf p q)

/-! ## The first pass (R236, R237) -/

/-- Bits hi to lo of a packet. -/
def pf (x : Packet) (hi lo : Nat) : Nat := bits x.toNat hi lo

/-- Queue n belongs to the partition of queue q. -/
def State.sameOwner (s : State) (q : Queue) (n : Nat) : Bool :=
  match s.queue? n with
  | some x => decide (x.part = q.part)
  | none => false

/-- The address lies in the global region. -/
def inGlobal (a : Nat) : Bool :=
  match regionOf (BitVec.ofNat 64 a) with
  | some (.glob _) => true
  | _ => false

/-- The fields of a packet in bit order, each with whether it fails check 2 (R236, R237). -/
def State.check2 (s : State) (q : Queue) (x : Packet) : List (Nat × Bool) :=
  [(0, decide (pf x 63 0 % 4 ≠ 0)),
   (256, if pf x 826 826 = 1 then decide (pf x 319 256 % 4 ≠ 0) else decide (pf x 319 256 ≠ 0)),
   (384, decide (pf x 447 384 % 16 ≠ 0)),
   (448, decide (pf x 479 448 = 0)), (480, decide (pf x 511 480 = 0)), (512, decide (pf x 543 512 = 0)),
   (608, decide (pf x 639 639 = 1) && !s.sameOwner q (pf x 615 608)),
   (616, decide (pf x 638 616 ≠ 0)),
   (672, decide (pf x 703 703 = 1) && !s.sameOwner q (pf x 679 672)),
   (680, decide (pf x 702 680 ≠ 0)),
   (704, decide (pf x 735 704 ≠ q.nextSeq.toNat)),
   (736, decide (pf x 751 736 ≠ 0)),
   (752, decide (4096 < pf x 767 752)),
   (768, decide (pf x 773 768 = 0 ∨ 32 < pf x 773 768)),
   (774, decide (pf x 775 774 ≠ 0)),
   (776, decide (16 < pf x 780 776)),
   (781, decide (pf x 783 781 ≠ 0)),
   (784, decide (pf x 789 784 = 0 ∨ 32 < pf x 789 784)),
   (790, decide (pf x 791 790 ≠ 0)),
   (792, decide (pf x 797 792 = 0 ∨ 32 < pf x 797 792)),
   (798, decide (pf x 799 798 ≠ 0)),
   (800, decide (pf x 804 800 < 6 ∨ 16 < pf x 804 800)),
   (805, decide (pf x 807 805 ≠ 0)),
   (808, decide (4096 < pf x 820 808)),
   (821, decide (pf x 823 821 ≠ 0)),
   (828, decide (pf x 831 828 ≠ 0)),
   (832, if pf x 927 896 = 0 then decide (pf x 895 832 ≠ 0) else decide (pf x 895 832 % 65536 ≠ 0) || !inGlobal (pf x 895 832)),
   (928, decide (pf x 1023 928 ≠ 0))]

/-- Acceptances of the first run are still to be made again (R319). -/
def Partition.replaying (p : Partition) : Bool :=
  match p.replay with
  | some r => !r.order.isEmpty
  | none => false

/-- Extents of 2 MiB written to zero (R283). -/
def zeroExtents (m : Memory) (p : Partition) (ks : List Nat) : Memory := ks.foldl (fun m k => memZero m (vaultAddr p (k * 2 ^ 21)) (2 ^ 21)) m

/-- A context with extents added, and others freed (R283). -/
def Context.setExtents (c : Context) (added freed : List Nat) : Context :=
  { c with extents := (c.extents ++ added.map fun k => (k, 1)).filter fun e => !freed.contains e.1 }

/-- One journalled record of tables applied again at its boundary (R319). -/
def State.applyTableRec (s : State) (p : Nat) (r : JRec) : State :=
  match r with
  | .table _ c es cp _ =>
    let m := match cp with
      | some x => memCopy s.mem x.1 x.2.1 x.2.2
      | none => s.mem
    { s with mem := es.foldl (fun m (e : Nat × BitVec 64) => memPutNat m e.1 8 e.2.toNat) m }.updP p (Partition.codeMoved c)
  | .extents _ c add free => match s.part? p with
    | some x => ({ s with mem := zeroExtents s.mem x free }.updP p fun x => x.updC c fun y => y.setExtents add free).refitPins p
    | none => s
  | .dtab _ c t => s.updP p fun x => x.updC c fun y => { y with dtab := t }
  | .descs _ c d => s.updP p fun x => x.updC c fun y => { y with descs := d }
  | _ => s

/-- The journal record belongs to acceptance number n. -/
def JRec.isTableOf (n : Nat) : JRec → Bool
  | .table a _ _ _ _ => decide (a = n)
  | .extents a _ _ _ => decide (a = n)
  | .dtab a _ _ => decide (a = n)
  | .descs a _ _ => decide (a = n)
  | _ => false

/-- The context at whose launches' end the record took effect, none for one that took effect at once (R276, R283). -/
def JRec.waitedFor : JRec → Option Nat
  | .table _ c _ _ true => some c
  | .extents _ c _ (_ :: _) => some c
  | _ => none

/-- In replay, a Restrict update of the next boundary waits until no launch of its context is running, as it did in the first run (R276, R319). -/
def State.tablesWait (s : State) (p : Partition) : Bool :=
  match p.replay with
  | none => false
  | some r => (r.recs.filter (JRec.isTableOf (p.accs + 1))).any fun x => match x.waitedFor with
    | some c => s.launches.any fun l => decide (l.part = p.id ∧ l.ctx = c)
    | none => false

/-- In replay, the tables of the next boundary are put in force before its packet is read, once (R319). DEDUCED, unsafe, log 41. -/
def State.replayTables (s : State) (p : Partition) : State :=
  match p.replay with
  | none => s
  | some r =>
    ((r.recs.filter (JRec.isTableOf (p.accs + 1))).foldl (fun t x => t.applyTableRec p.id x) s).updP p.id fun y =>
      { y with replay := some { r with recs := r.recs.filter fun x => !x.isTableOf (p.accs + 1) } }

/-- A due step mark keeps the queue from accepting past its listed packet (R314). -/
def Partition.markHolds (p : Partition) (q : Queue) : Bool :=
  match p.mark with
  | none => false
  | some m => m.2.any fun x => decide (x.1 = q.id ∧ (q.nextSeq - x.2 - 1).toNat < 2 ^ 31)

/-- In replay, packets are accepted in the order of the first run (R319, R344). -/
def Partition.replayTurn (p : Partition) (q : Queue) : Bool :=
  match p.replay with
  | none => true
  | some r => match r.order.head? with
    | none => true
    | some x => decide (x.1 = ⟨q.id, q.nextSeq.toNat⟩)

/-- The partition's work goes on: it is neither stopped nor unrecoverable (R319, R328). -/
def Partition.active (p : Partition) : Bool := !p.stopped && !p.dead

/-- PACKET_FETCH: the dispatcher reads queue n's next packet, once declared, and makes check 1 for it and check 2 (R237, R352). -/
def execPacketFetch (n : Nat) (s : State) : Host.Outcome State Fault Refusal :=
  runAct s (do
    let q ← s.queue? n
    let p0 ← s.part? (← q.part)
    let s0 := s
    let s := s.replayTables p0
    let p ← s.part? p0.id
    let c ← p.ctx? q.ctx
    if q.en && q.packet.isNone && decide (q.nextSeq ≠ q.tail) && p.active && !p.markHolds q && p.replayTurn q && !s0.tablesWait p0 then
      match dispRead s p c (noteOf p q) (q.ring.toNat + 128 * (q.nextSeq.toNat % 2 ^ q.rsize)) 128 with
      | none => some (s.refuse p q c 7 0 none)
      | some bs =>
        let x : Packet := BitVec.ofNat 1024 (ofBytes bs)
        match (s.check2 q x).find? (·.2) with
        | some d => some (s.refuse p q c 1 d.1 (some (pf x 447 384)))
        | none => some (s.updQ n fun y => { y with packet := some x })
    else none)

/-! ## Dependences (R234) -/

/-- The valid dependences of a packet. -/
def depsOf (x : Packet) : List (Nat × Word) :=
  (if pf x 639 639 = 1 then [(pf x 615 608, BitVec.ofNat 32 (pf x 607 576))] else [])
    ++ (if pf x 703 703 = 1 then [(pf x 679 672, BitVec.ofNat 32 (pf x 671 640))] else [])

/-- A dependence is met (R234). -/
def State.depMet (s : State) (d : Nat × Word) : Bool :=
  match s.queue? d.1 with
  | some q => decide ((q.doneSeq - d.2).toNat < 2 ^ 31)
  | none => false

/-- The packet named by a dependence has completed with another status than 0 (R234). DEDUCED, unsafe, log 28. -/
def State.depFailed (s : State) (d : Nat × Word) : Bool :=
  match s.queue? d.1 with
  | some q => q.fails.contains d.2
  | none => false

/-! ## The tables (R142, R143, R240, R241) -/

/-- A range-table entry of 128 bits (R142). -/
def entryOf (e : Nat) : Range :=
  { cls := if e / 2 ^ 126 = 0 then .constant else if e / 2 ^ 126 = 1 then .exclusive else .ordered,
    owner := bits e 121 96, len := bits e 95 64, start := e % 2 ^ 57 }

/-- An entry breaks R143 on its own. -/
def entryBad (e data dataLen : Nat) : Bool :=
  let r := entryOf e
  let st := e % 2 ^ 64
  let top := if st < 2 ^ 56 then 2 ^ 56 else 2 ^ 57
  decide (bits e 127 126 = 3 ∨ bits e 125 122 ≠ 0 ∨ (r.cls ≠ .exclusive ∧ r.owner ≠ 0) ∨ r.len = 0 ∨ st % 65536 ≠ 0
    ∨ st < 2 ^ 32 ∨ (2 ^ 56 ≤ st ∧ st < 0xFF00000000000000) ∨ top < r.start + r.len * 65536
    ∨ (r.cls ≠ .constant ∧ dataLen ≠ 0 ∧ r.start < data + dataLen ∧ data < r.start + r.len * 65536))

/-- The lowest index of an entry that fails check 4; prev is the end of the range before (R143, R238). DEDUCED, unsafe, log 29. -/
def entriesBad (data dataLen : Nat) : List Nat → Nat → Nat → Option Nat
  | [], _, _ => none
  | e :: r, i, prev =>
    if entryBad e data dataLen || decide ((entryOf e).start < prev) then some i
    else entriesBad data dataLen r (i + 1) ((entryOf e).start + (entryOf e).len * 65536)

/-- Little-endian numbers of n bytes each, k of them. -/
def numbersOf (n : Nat) : Nat → List Byte → List Nat
  | 0, _ => []
  | k + 1, bs => ofBytes (bs.take n) :: numbersOf n k (bs.drop n)

/-- The four ranges of a set break R241. -/
def setBad (rs : List Nat) : Bool :=
  rs.any fun r => decide (bits r 62 58 ≠ 0 ∨ bits r 31 26 ≠ 0) || (decide (bits r 63 63 = 1 ∧ bits r 57 32 < bits r 25 0))

/-- The used ranges of a set. -/
def setRanges (rs : List Nat) : List (Nat × Nat) := (rs.filter fun r => bits r 63 63 = 1).map fun r => (bits r 25 0, bits r 57 32)

/-- The lowest number of a set that fails check 5 for a launch of n warps; seen holds the sets below (R13, R238). A warp that five sets
name exists when one of their ranges starts at such a warp. DEDUCED, unsafe, log 29. -/
def setsBad (n : Nat) : List (List Nat) → Nat → List (List (Nat × Nat)) → Option Nat
  | [], _, _ => none
  | rs :: r, i, seen =>
    let cur := setRanges rs
    let all := cur :: seen
    if setBad rs || (all.flatten.any fun x =>
        decide (x.1 < n) && inRanges cur x.1 && decide (5 ≤ (all.filter fun y => inRanges y x.1).length)) then some i
    else setsBad n r (i + 1) all

/-- The 256 sets of a table's bytes, four ranges each. -/
def setWords (bs : List Byte) : Nat → List (List Nat)
  | 0 => []
  | k + 1 => setWords bs k ++ [numbersOf 8 4 ((bs.drop (32 * k)).take 32)]

/-- The sets that name some warp, with their table indices. -/
def usedSets (ws : List (List Nat)) : List (Nat × List (Nat × Nat)) :=
  ((List.range ws.length).zip (ws.map setRanges)).filter fun x => !x.2.isEmpty

/-! ## Addressed storage (R283) -/

/-- Extents allocated in vault v of a partition. -/
def Partition.extentsIn (p : Partition) (v : Nat) : Nat :=
  (p.ctxs.flatMap fun c => c.extents).foldl (fun n x => n + ((List.range x.2).filter fun k => (x.1 + k) / 128 = v).length) 0

/-- The unfenced capacity, in extents, of the vault under logical quad v: 8 in each of its 16 banks (R309). DEDUCED, unsafe, log 29. -/
def State.vaultRoom (s : State) (p : Partition) (v : Nat) : Nat :=
  8 * ((List.range 16).filter fun b => !s.isFenced 1 (16 * p.quads.getD v 0 + b)).length

/-- Every vault that holds an extent of the context has the capacity for what is allocated in it (R283). DEDUCED, unsafe, log 29. -/
def State.extentsFit (s : State) (p : Partition) (c : Context) : Bool :=
  (List.range p.quads.length).all fun v =>
    !(c.extents.any fun x => (List.range x.2).any fun k => (x.1 + k) / 128 = v) || decide (p.extentsIn v ≤ s.vaultRoom p v)

/-! ## The Press cache (R253, R262 to R264) -/

/-- The 57-bit value as bytes. -/
def addrBytes (a : BitVec 57) : List Byte := toBytes 8 a.toNat

/-- The code digest over the entry, `REGS8` and the code words at physical addresses. The spec says what is digested; that the entry stands
first in 8 bytes, `REGS8` in one, the words in the order in which the Press reached them, and that the first 16 bytes of the output are kept, is
the model's choice (R262). DESIGN CHOICE, safe, log 31. -/
def codeDigest (s : State) (entry : BitVec 57) (regs8 : Nat) (reach : List Nat) : List Byte :=
  (shake256 (addrBytes entry ++ [BitVec.ofNat 8 regs8] ++ reach.flatMap fun a => memBytes s.mem a 4)).take 16

/-- The argument bytes that the static map marks. -/
def staticBytes (args smap : List Byte) : List Byte :=
  ((List.range args.length).filter fun i => (smap.getD (i / 8) 0).getLsbD (i % 8)).map fun i => args.getD i 0

/-- The static digest, its input `SMAP` and then the bytes, its first 16 bytes kept (R262). DESIGN CHOICE, safe, log 31. -/
def staticDigest (args smap : List Byte) : List Byte := (shake256 (smap ++ staticBytes args smap)).take 16

/-- The 4 KiB of a decode table (R49). -/
def tableWords (t : DecTab) : List Byte :=
  match t with
  | .loaded ws => ws.flatMap wordBytes
  | .native => (List.range 1024).flatMap fun i => wordBytes (match nativeTable i with
    | some n => BitVec.ofNat 32 (2 ^ 31 + n)
    | none => 0)

/-- The decode-table id: the low 64 bits of the digest (R50). -/
def tableId (t : DecTab) : List Byte := (shake256 (tableWords t)).take 8

/-- The digest that the Press keeps for the launch's entry. R262 keeps one for each entry address, though it covers `REGS8`, and code stands at an
address within a context: the model keeps one for each context, entry and register allocation. DESIGN CHOICE, safe, log 31. -/
def Partition.pressCode? (p : Partition) (l : Launch) : Option PressCode :=
  p.pressCode.find? fun x => decide (x.ctx = l.ctx ∧ x.entry = l.entry ∧ x.regs = l.regs)

/-- The cache entry has the four parts of the launch's key, whose code digest is given (R262). -/
def PressEntry.keyed (l : Launch) (code : List Byte) (x : PressEntry) : Bool :=
  decide (x.code = code ∧ x.static = staticDigest l.args l.smap ∧ x.table = tableId l.dtab ∧ x.rev = 1)

/-- The pages of the code words are all Constant in the launch's range table (R253). -/
def constantCode (l : Launch) (vas : List Nat) : Bool := vas.all fun a => decide ((classOf l a).1 = .constant)

/-- The cache entry that the launch's key finds: its code digest has not been cleared, and R253 does not forbid specialisation (R262, R264). -/
def pressHit (p : Partition) (l : Launch) : Option PressEntry :=
  match p.pressCode? l with
  | some c => if l.noPress ∨ ¬ constantCode l c.virt then none else p.press.find? (PressEntry.keyed l c.digest)
  | none => none

/-- The entry is the one used last (R263). -/
def usedLast (x : PressEntry) (xs : List PressEntry) : List PressEntry := x :: xs.filter (· ≠ x)

/-- A launch with its Press lookup made: on a hit its fibres start in residual code, and the lookup is counted (R263, R264, R341). DEDUCED,
unsafe, log 31. -/
def State.pressLookup (s : State) (p : Partition) (l : Launch) : State × Launch :=
  if l.noPress then (s, l)
  else match pressHit p l with
    | some x => ((s.updP p.id fun y => { y with press := usedLast x y.press }).count p.id 18 1, { l with residual := some x })
    | none => (s.count p.id 19 1, l)

/-! ## Acceptance (R237 to R241) -/

/-- The class of a page under a range table (R142). -/
def pageClass (defOrdered : Bool) (rs : List Range) (data dataLen va : Nat) : MClass :=
  if inArgs va || decide (data ≤ va ∧ va < data + dataLen) then .constant
  else match rs.find? fun r => decide (r.start ≤ va ∧ va < r.start + r.len * 65536) with
    | some r => r.cls
    | none => if defOrdered then .ordered else .constant

/-- The range table of a packet: its header as a number, and its entries, none where the count breaks R143 (R142, R143, R237). -/
def State.rangeTable (s : State) (p : Partition) (c : Context) (stamp rtab : Nat) : Option (Nat × List Nat) := do
  let hdr ← if rtab = 0 then some [] else dispRead s p c stamp rtab 16
  let n := if 4096 < ofBytes hdr % 2 ^ 32 then 0 else ofBytes hdr % 2 ^ 32
  let ents ← dispRead s p c stamp (rtab + 16) (16 * n)
  some (ofBytes hdr, numbersOf 16 n ents)

/-- The second pass: the tables are read and checks 1 and 3 to 7 made. The error is the status with its detail (R237). DEDUCED, unsafe,
log 29. -/
def State.checkLaunch (s : State) (p : Partition) (q : Queue) (c : Context) (x : Packet) (stamp : Nat) : Except (Nat × Nat) Launch := do
  let read := fun a n => match dispRead s p c stamp a n with
    | some bs => Except.ok bs
    | none => Except.error (7, 0)
  let tab ← match s.rangeTable p c stamp (pf x 191 128) with
    | some y => Except.ok y
    | none => Except.error (7, 0)
  let h := tab.1
  let hbad := decide (h / 2 ^ 34 ≠ 0 ∨ h / 2 ^ 32 % 2 = 1 ∨ 4096 < h % 2 ^ 32)
  let sst ← if pf x 255 192 = 0 then .ok [] else read (pf x 255 192) 8192
  let alen := pf x 767 752
  let smap ← if pf x 383 320 = 0 then .ok [] else read (pf x 383 320) ((alen + 7) / 8)
  let args ← read (pf x 127 64) alen
  let cnt ← if pf x 826 826 = 1 then read (pf x 319 256) 12 else .ok []
  let gx := pf x 479 448
  let gy := pf x 511 480
  let gz := pf x 543 512
  let w := pf x 789 784
  if 2 ^ 26 < gx * gy * gz * w then .error (2, 0)
  let data := pf x 895 832 % 2 ^ 57
  let dlen := pf x 927 896
  if hbad then .error (4, 0xFFFFFFFF)
  let es := tab.2
  match entriesBad data dlen es 0 0 with
    | some i => .error (4, i)
    | none => .ok ()
  let cs := numbersOf 4 3 cnt
  let ind := pf x 826 826 = 1
  let ex := if ind then min gx (cs.getD 0 0) else gx
  let ey := if ind then min gy (cs.getD 1 0) else gy
  let ez := if ind then min gz (cs.getD 2 0) else gz
  let sets := if sst.isEmpty then [] else setWords sst 256
  match setsBad (ex * ey * ez * w) sets 0 [] with
    | some i => .error (3, i)
    | none => .ok ()
  let dord := decide (h / 2 ^ 32 % 4 = 2)
  let rs := es.map entryOf
  let gv := pf x 319 256 % 2 ^ 57
  if ind ∧ ¬ (pageClass dord rs data dlen gv = .constant ∧ pageClass dord rs data dlen (gv + 11) = .constant) then .error (1, 256)
  if ¬ s.extentsFit p c then .error (6, 0)
  .ok { ref := ⟨q.id, q.nextSeq.toNat⟩, part := p.id, ctx := c.id, pgx := gx, pgy := gy, pgz := gz, gx := ex, gy := ey, gz := ez,
        warps := w, fibres := pf x 797 792, regs := 8 * pf x 773 768, scratch := pf x 820 808, tiles := pf x 780 776,
        qlog := pf x 804 800, order := decide (pf x 824 824 = 1), gang := decide (pf x 825 825 = 1),
        noPress := decide (pf x 827 827 = 1), lseed := BitVec.ofNat 32 (pf x 575 544), entry := BitVec.ofNat 57 (pf x 63 0), entryTop := BitVec.ofNat 7 (pf x 63 57),
        data := pf x 895 832, dataLen := dlen, args := args, smap := smap, doneAddr := pf x 447 384, defOrdered := dord, ranges := rs,
        sets := usedSets sets, dtab := if p.replaying then c.dtab else c.newDtab.getD c.dtab, dbase := if p.replaying then c.descs else c.newDescs.getD c.descs, acc := p.accs + 1, stamp := stamp,
        old := [], next := 0, exits := [], pubs := [], bars := [], ecmds := [], icinvs := [], dist := [], wdqs := [], fresh := 0,
        draining := false, preempt := none }

/-- The context's pending tables take effect at a launch boundary of it, and the journal says so; in replay the journal gives the tables of each
boundary, and what is pending waits until the first run's acceptances have been made again (R50, R318, R319, R347). -/
def Partition.takeTables (p : Partition) (c : Context) : Partition :=
  if p.replaying then p else
  let js := (match c.newDtab with
      | some t => [JRec.dtab (p.accs + 1) c.id t]
      | none => []) ++ (match c.newDescs with
      | some m => [JRec.descs (p.accs + 1) c.id m]
      | none => [])
  { p.updC c.id fun x => { x with dtab := x.newDtab.getD x.dtab, descs := x.newDescs.getD x.descs, newDtab := none, newDescs := none }
    with journal := p.journal ++ js }

/-- A host write completed before notify number n, and not yet bound, is bound to packet r's boundary (R344). -/
def HostWrite.bind (w : HostWrite) (r : LRef) (acc n : Nat) : HostWrite :=
  if w.boundary.isNone && decide (w.stamp < n) then { w with boundary := some (r, acc) } else w

/-- Such writes are bound, and the journal names the boundary of those already in effect (R318, R344). DEDUCED, unsafe, log 28. -/
def Partition.bindWrites (p : Partition) (r : LRef) (n : Nat) : Partition :=
  { p with writes := p.writes.map fun w => w.bind r (p.accs + 1) n,
           journal := p.journal.map fun j => match j with
             | .write w => .write (w.bind r (p.accs + 1) n)
             | x => x }

/-- In replay, a launch that the host aborted ends at its start (R320). -/
def Partition.wasAborted (p : Partition) (r : LRef) : Bool :=
  match p.replay with
  | none => false
  | some x => x.recs.contains (.abort r)

/-! ## Which packet is next (R145, R235, R240) -/

/-- Some page may be written under the launch's table (R145). DEDUCED, safe, log 30. -/
def Launch.mayWrite (l : Launch) : Bool := l.defOrdered || l.ranges.any fun r => r.cls ≠ .constant

/-- Launch o goes before launch l of its context, where both may not run together (R145). -/
def Launch.before (o l : Launch) : Bool :=
  decide (0 < o.next ∨ o.stamp < l.stamp ∨ (o.stamp = l.stamp ∧ o.acc < l.acc))

/-- Two launches of one context may not run together: both participate, or one may write a page, which the other has as a page that may be
written or as a Constant one. Every page of the global region lies in a table, by an entry or by the default class, and which of its Constant
pages a launch will read is not known when it starts; a page that only one may write is therefore held to be read by the other (R142, R145).
DEDUCED, safe, log 30. -/
def Launch.conflicts (o l : Launch) : Bool := o.mayWrite || l.mayWrite || (o.order && l.order)

/-- Queue x can accept no packet before launch l has ended: the packet in its hand depends on the launch, or on a packet of a queue that waits
so, or on a launch that is held until l has ended. n bounds the chain (R145, R234). DEDUCED, safe, log 30. -/
def State.behind (s : State) (l : Launch) : Nat → Queue → Bool
  | 0, _ => false
  | n + 1, x => match x.packet with
    | none => false
    | some y => (depsOf y).any fun d => !s.depMet d &&
      (decide (d.1 = l.ref.queue ∧ (d.2 - BitVec.ofNat 32 l.ref.seq).toNat < 2 ^ 31)
        || (s.launches.any fun o => decide (o.ref.queue = d.1 ∧ o.ref ≠ l.ref ∧ (d.2 - BitVec.ofNat 32 o.ref.seq).toNat < 2 ^ 31 ∧ o.next = 0)
            && l.conflicts o && l.before o)
        || match s.queue? d.1 with
          | some z => decide ((d.2 - z.nextSeq).toNat < 2 ^ 31) && s.behind l n z
          | none => false)

/-- Queue x has a declared packet of the launch's context, with an earlier notify write, that may still come before it: no dependence orders it
after the launch (R145). DEDUCED, safe, log 30. -/
def State.mayPrecede (s : State) (p : Partition) (l : Launch) (x : Queue) : Bool :=
  decide (x.part = some p.id ∧ x.ctx = l.ctx ∧ x.en = true ∧ x.nextSeq ≠ x.tail ∧ noteOf p x < l.stamp) && p.replay.isNone && p.active
    && !p.markHolds x && ((p.ctx? l.ctx).map fun c => c.held.isEmpty).getD true && !s.behind l 256 x

/-- A launch of which only its place in the order is known and what its range table and flags say of writing. -/
def Launch.claim (ref : LRef) (part ctx : Nat) (order defOrdered : Bool) (ranges : List Range) (acc stamp : Nat) : Launch :=
  { ref := ref, part := part, ctx := ctx, pgx := 0, pgy := 0, pgz := 0, gx := 0, gy := 0, gz := 0, warps := 0, fibres := 0, regs := 0, scratch := 0,
    tiles := 0, qlog := 0, order := order, gang := false, noPress := true, lseed := 0, entry := 0, data := 0, dataLen := 0, args := [], smap := [],
    doneAddr := 0, defOrdered := defOrdered, ranges := ranges, sets := [], dtab := .native, dbase := [], acc := acc, stamp := stamp, old := [],
    next := 0, exits := [], pubs := [], bars := [], ecmds := [], icinvs := [], dist := [], wdqs := [], fresh := 0, draining := false, preempt := none }

/-- The launch that queue q's packet in hand will be, as the hold of R145 sees it. -/
def State.claimOf (s : State) (p : Partition) (q : Queue) (c : Context) (x : Packet) : Launch :=
  let tab := (s.rangeTable p c (noteOf p q) (pf x 191 128)).getD (0, [])
  Launch.claim ⟨q.id, q.nextSeq.toNat⟩ p.id c.id (decide (pf x 824 824 = 1)) (decide (tab.1 / 2 ^ 32 % 4 = 2)) (tab.2.map entryOf) (p.accs + 1) (noteOf p q)

/-- A launch of the context that goes before the packet's may still write the counts, which are those of the initial image of the packet's own
launch: one that has been accepted, or a declared packet's (R138, R145, R240). DEDUCED, safe, log 28. -/
def State.countsOpen (s : State) (p : Partition) (q : Queue) (c : Context) (x : Packet) : Bool :=
  (s.launches.any fun o => decide (o.part = p.id ∧ o.ctx = c.id ∧ (0 < o.next ∨ o.stamp ≤ noteOf p q)) && o.mayWrite)
    || s.queues.any fun y => decide (y.id ≠ q.id) && s.mayPrecede p (s.claimOf p q c x) y

/-- Nothing but the order among the queues holds the acceptance of a packet in hand: its dependences are met, or one has failed (R234, R240, R314,
R319, R347). DEDUCED, safe, log 28. -/
def State.ready (s : State) (p : Partition) (q : Queue) (c : Context) (x : Packet) : Bool :=
  p.active && p.replayTurn q && (c.held.isEmpty || p.replaying) && !p.markHolds q
    && ((depsOf x).any s.depFailed || ((depsOf x).all s.depMet && !(decide (pf x 826 826 = 1) && s.countsOpen p q c x)))

/-- Another queue of the partition has a ready packet in hand that goes first (R235). DEDUCED, safe, log 30. -/
def State.goesFirst (s : State) (p : Partition) (q : Queue) : Bool :=
  s.queues.any fun x => decide (x.part = some p.id ∧ x.id ≠ q.id ∧ (q.prio < x.prio ∨ (q.prio = x.prio ∧ x.id < q.id))) &&
    match x.packet, p.ctx? x.ctx with
    | some y, some c => s.ready p x c y
    | _, _ => false

/-- ACCEPTANCE: queue n's packet, its dependences met, is checked against the tables and becomes a launch, or is refused (R233 to R241,
R344). With an empty effective grid it completes at once. DEDUCED, unsafe, log 28; DEDUCED, unsafe, log 29. -/
def execAcceptance (n : Nat) (s : State) : Host.Outcome State Fault Refusal :=
  runAct s (do
    let q ← s.queue? n
    let p ← s.part? (← q.part)
    let x ← q.packet
    let done := some (pf x 447 384)
    let c ← p.ctx? q.ctx
    if !s.ready p q c x then none
    else if (depsOf x).any s.depFailed then some (s.refuse p q c 9 0 done)
    else if p.replay.isNone && s.goesFirst p q then none
    else
      let stamp := noteOf p q
      match s.checkLaunch p q c x stamp with
      | .error e => some (s.refuse p q c e.1 e.2 done)
      | .ok l =>
        let t := s.updP p.id fun y => ((y.takeTables c).bindWrites l.ref stamp).accepted l.ref stamp
        let t := t.updQ n Queue.advance
        if l.wgCount = 0 ∨ p.wasAborted l.ref then
          some (t.completed p c n q.nextSeq (if p.wasAborted l.ref then 8 else 0) 0 (some l.doneAddr))
        else
          let r := t.pressLookup p l
          some { r.1 with launches := r.1.launches ++ [r.2] })

/-! ## Building residual code (R252 to R264) -/

/-- The bytes of a residual form: its words and its back-map. -/
def PressEntry.size (x : PressEntry) : Nat := (x.residual.map fun c => 4 * c.length).sum + 16 * x.backMap.length

/-- The bytes of entries. -/
def pressSize (xs : List PressEntry) : Nat := (xs.map PressEntry.size).sum

/-- Entries, latest used first, without the least recently used ones that must leave until they hold at most cap bytes; used ones stay. n is
how many may leave (R263). -/
def trimPress (used : PressEntry → Bool) (cap : Nat) : Nat → List PressEntry → List PressEntry
  | 0, xs => xs
  | n + 1, xs => if pressSize xs ≤ cap then xs else
    match xs.reverse.find? fun x => !used x with
    | some x => trimPress used cap n (xs.reverse.erase x).reverse
    | none => xs

/-- The code words that the Press fetches for a launch, a clause at a time: at addresses that translate, outside the argument window (R26). -/
def State.pressFetch (s : State) (l : Launch) (a : BitVec 57) : Option (Word × List Word) := do
  let word := fun (k : Nat) => match regionOf (codeAddr a k) with
    | some (.glob va) => if inArgs va then none else match s.translate l va .fetch with
      | .ok pa => some (BitVec.ofNat 32 (memNat s.mem pa 4))
      | .error _ => none
    | _ => none
  let h ← word 0
  let ws ← (List.range (bits h.toNat 31 28)).mapM fun k => word (k + 1)
  some (h, ws)

/-- The physical address of a code word. -/
def State.codePhys (s : State) (l : Launch) (a : Nat) : Option Nat :=
  match s.translate l (a % 2 ^ 57) .fetch with
  | .ok pa => some pa
  | .error _ => none

/-- PRESS_BUILD: after a miss the Press builds a residual form behind the running launch, for later launches, where R253 allows it; it computes
the entry's code digest and watches the pages that it reached (R253, R262 to R264). DEDUCED, unsafe, log 31. -/
def execPressBuild (r : LRef) (s : State) : Host.Outcome State Fault Refusal :=
  runAct s (do
    let l ← s.launch? r
    let p ← s.part? l.part
    if l.noPress || l.residual.isSome || (pressHit p l).isSome || codeAddr l.entry 0 ≠ l.entry64 then none
    else
      let b := pressBuild (s.pressFetch l) l
      let vas := b.words
      let pas ← vas.mapM (s.codePhys l)
      let code : PressCode := { ctx := l.ctx, entry := l.entry, regs := l.regs, digest := codeDigest s l.entry (l.regs / 8) pas, phys := pas, virt := vas.map (· % 2 ^ 57) }
      let x : PressEntry := { code := code.digest, static := staticDigest l.args l.smap, table := tableId l.dtab, rev := 1,
                              residual := b.residual, backMap := b.backMap, forms := b.forms' }
      let used := fun (y : PressEntry) => s.launches.any fun o => decide (o.part = p.id ∧ o.residual = some y)
      let press := trimPress used (2 ^ 22 * p.quads.length) (p.press.length + 1) (usedLast x (p.press.filter fun y => !y.keyed l x.code))
      if b.ok && !vas.isEmpty && constantCode l code.virt && press.contains x && decide (pressSize press ≤ 2 ^ 22 * p.quads.length) then
        some (s.updP p.id fun y => { y with press := press, pressCode := code :: y.pressCode.filter fun z => ¬ (z.ctx = l.ctx ∧ z.entry = l.entry ∧ z.regs = l.regs) })
      else none)

end Sys2Proof.Machine
end

