-- ==== Sys2Proof/Machine/Image.lean ====
section
/-! DEFINITION. The context image (R190, R210, R291, R303, R304, R306, R307): the records that a save writes, and what a restore takes from
them. Where the spec gives a part no layout, the layout is the model's own. DESIGN CHOICE, unsafe, log 36. -/

namespace Sys2Proof.Machine

/-! ## The fibre record (R291, R307) -/

/-- The 512 bits of a fault record (R291). -/
def recBits (r : FaultRec) (tag : Nat) : Nat :=
  r.ctx * 2 ^ 228 + tag * 2 ^ 232 + r.info.toNat * 2 ^ 240 + r.word.toNat * 2 ^ 304 + r.widx * 2 ^ 348 + r.oaddr.toNat * 2 ^ 352
    + r.clk * 2 ^ 409 + r.lane * 2 ^ 465 + r.warp * 2 ^ 470 + r.cause * 2 ^ 496 + r.code * 2 ^ 504

/-- The state field of a branch-target register (R307). -/
def bstBits (b : BSt) : Nat :=
  match b with
  | .unprepared => 0
  | .prepared => 1
  | .stale => 2

/-- How a fibre stands stopped (R307): 0 at a pre-emption point, 1 at a word boundary, 2 parked, 3 in the wait of its word or at a header, 4
halted by the debugger. -/
def stopBits (f : Fibre) : Nat :=
  let at_ := if f.halted then 4 else if f.held.isSome then 3 else if f.live.isSome then 0 else 1
  match f.st with
  | .enter => at_
  | .run => at_
  | .parked _ _ => 2
  | _ => if f.halted then 4 else 3

/-- `PC` and `WIDX` of a fibre's record: past the end of its clause before the clause that follows, and at a transfer's target with word 0 once
the transfer is taken (R216, R307). -/
def savedPc (f : Fibre) : BitVec 57 × Nat :=
  if f.words.length ≤ f.widx ∧ ¬ f.words.isEmpty ∧ f.npc ≠ f.pc + BitVec.ofNat 57 (4 * (1 + f.words.length)) then (f.npc, 0) else (f.pc, f.widx)

/-- The sectors of a fibre's pending stores, by the address they count for (R135). -/
def pendSectors (f : Fibre) : List Nat := (f.pend.map fun b => b.addr / 32).eraseDups

/-- An outstanding result of a word at which the fibre still waits. -/
def waitOut (l : Launch) (f : Fibre) (kind : OutKind) (dst : List (Option Nat)) (addr size : Nat) : Outst :=
  { kind := kind, dst := dst, token := 0, key := keyAt l f.ref f.clk, addr := addr, size := size, sext := false, vals := none,
    rd := ⟨keyAt l f.ref f.clk, f.view, []⟩, locs := [] }

/-- The records of the word at which a fibre waits: an atomic whose turn has completed, an `hnext` whose act is not applied, an `mrd` whose
element is not read (R304). -/
def waitOuts (l : Launch) (f : Fibre) : List Outst :=
  match f.st with
  | .atom a => if f.performed then [] else [waitOut l f .atomic (a.dst.map some) a.addr (4 * a.dst.length)]
  | .harp (.hnext d a _) => [waitOut l f .harp (f.dsts d 1) a 4]
  | .tile => match decodeWith l.dtab.look (f.words.drop f.widx) with
    | .ok (.mrd d a b _) _ => [waitOut l f .tile (f.dsts d 1) (a + 16 * (f.regs.getD (f.phys b) 0).toNat) 4]
    | _ => []
  | _ => []

/-- A result that still has a register to write, or an operation to make. -/
def Outst.counts (o : Outst) : Bool := decide (o.kind ≠ .arith) && (o.dst.any (·.isSome) || !o.sdst.isEmpty)

/-- The outstanding results that an image records (R304). -/
def savedOuts (l : Launch) (f : Fibre) : List Outst := f.outs.filter Outst.counts ++ waitOuts l f

/-- The fault record of a parked fibre with its tag, else 0 (R291, R307). -/
def faultBits (f : Fibre) : Nat :=
  match f.st with
  | .parked r (.tag n) => recBits r n
  | .parked r _ => recBits r 0
  | _ => 0

/-- The 2,048 bits of a fibre record (R307). -/
def fibreBits (l : Launch) (f : Fibre) : Nat :=
  let bs := l.bregsNow f
  faultBits f + (savedOuts l f).length * 2 ^ 1280 + (pendSectors f).length * 2 ^ 1286 + 2 ^ 1294 + stopBits f * 2 ^ 1295
    + rmodeCode f.rmode * 2 ^ 1298 + f.fflags.toNat * 2 ^ 1301 + f.seed.toNat * 2 ^ 1307 + f.preds.toNat * 2 ^ 1339
    + f.wbase * 2 ^ 1355 + (savedPc f).2 * 2 ^ 1363 + (savedPc f).1.toNat * 2 ^ 1367 + f.view * 2 ^ 1424 + f.clk * 2 ^ 1480
    + ((List.range 8).map fun i => ((bs.getD i ⟨.unprepared, 0⟩).target.toNat
        + bstBits (bs.getD i ⟨.unprepared, 0⟩).st * 2 ^ 62) * 2 ^ (1536 + 64 * i)).sum

/-! ## The sections of a workgroup record (R306) -/

/-- The arrival state of a warp in 64 bytes. For each of `g0` to `g3`: the lowest arrival count of its live fibres in 7 bytes, the mask of the
lanes that have arrived once more in 4, the mask of those with an outstanding arrival in 4; counts of one warp differ by at most one (R221). Last
the mask of lanes at a convergence point. The spec names the contents and not their places. DESIGN CHOICE, unsafe, log 36. -/
def arrBytes (fs : List Fibre) : List Byte :=
  let mask := fun (p : Fibre → Bool) => toBytes 4 (fs.map fun f => if p f then 2 ^ f.ref.lane else 0).sum
  let low := fun (g : Nat) => match fs with
    | [] => 0
    | f :: r => r.foldl (fun n x => min n (x.arr.getD g 0)) (f.arr.getD g 0)
  (List.range 4).flatMap (fun g => toBytes 7 (low g) ++ mask (fun f => f.arr.getD g 0 ≠ low g) ++ mask fun f => f.arrOut.getD g false)
    ++ mask Fibre.atConv

/-- The 320 bytes of a warp. -/
def warpBytes (fs : List Fibre) (v : Warp) : List Byte := v.sregs.flatMap wordBytes ++ arrBytes fs

/-- Which registers of a fibre an image holds: those its `ph` left live where it stands at a pre-emption point, or all (R303). -/
def savedRegs (f : Fibre) : List Nat :=
  match stopBits f, f.live with
  | 0, some bs => (List.range f.regs.length).filter fun k => bs.getD k false
  | _, _ => List.range f.regs.length

/-- The registers section of a fibre. -/
def regBytes (f : Fibre) : List Byte :=
  toBytes 32 ((savedRegs f).map fun k => 2 ^ k).sum ++ (savedRegs f).flatMap fun k => wordBytes (f.regs.getD k 0)

/-- One sector of pending stores. -/
def sectorBytes (f : Fibre) (n : Nat) : List Byte :=
  let bs := f.pend.filter fun b => b.addr / 32 = n
  toBytes 8 (32 * n) ++ toBytes 4 ((bs.map fun b => 2 ^ (b.addr % 32)).sum) ++ toBytes 4 0
    ++ (List.range 32).map fun i => match bs.find? fun b => b.addr % 32 = i with
      | some b => b.val
      | none => 0

/-- A result's reply is in the image: it is known and no longer than the field, a longer one being loaded again (R304, R306). -/
def Outst.replied (o : Outst) : Bool := o.vals.isSome && decide (o.size ≤ 8)

/-- One outstanding record (R306). The size field holds the logarithm of the size in bytes. DESIGN CHOICE, unsafe, log 36. -/
def outBytes (f : Fibre) (o : Outst) : List Byte :=
  let dst := match o.sdst, o.dst.find? Option.isSome with
    | s :: _, _ => s + 2 ^ 6
    | _, some (some k) => (k - f.wbase) % 64
    | _, _ => 0
  let kind := match o.kind with
    | .atomic => 1
    | .load => 2
    | .tile => 3
    | .harp => 3 + 4
    | .arith => 0
  let reply := if o.replied then ofBytes ((o.vals.getD []).flatMap wordBytes) else 0
  toBytes 64 (dst + kind * 2 ^ 8 + Nat.log2 o.size * 2 ^ 12 + (if o.replied then 2 ^ 16 else 0) + o.key.clk * 2 ^ 72
    + o.addr % 2 ^ 64 * 2 ^ 128 + o.rd.view * 2 ^ 192 + reply * 2 ^ 256)

/-- The release blocks of a workgroup in key order, its unapplied publications taken as applied (R303). -/
def State.relNow (l : Launch) (w : Workgroup) : List Nat :=
  l.pubs.foldl (fun rel p => p.bytes.foldl (fun r b => match b.loc with
    | .spad n o => if n = w.ref.wg then relAfter p.release o r else r
    | _ => r) rel) w.rel

/-- The 256-byte blocks of the scratchpad that unfinished commands still read (R120). -/
def State.readBlocks (s : State) (l : Launch) (w : Workgroup) : List Nat :=
  let xs := ((w.mcmds.filter fun c => !c.done).flatMap (s.matSrc l w.ref.wg)) ++ (l.ecmds.filter fun c => !c.done).flatMap (s.ecSrc l)
  (xs.filterMap fun x => match x with
    | .spad n o => if n = w.ref.wg then some (o / 256) else none
    | _ => none).eraseDups

/-- The blocks that an image holds: every one but those last written by a release, and of these the ones that unfinished commands read (R120,
R303). -/
def State.savedBlocks (s : State) (l : Launch) (w : Workgroup) : List Nat :=
  (List.range l.scratch).filter fun b => !(State.relNow l w).contains b || (s.readBlocks l w).contains b

/-- The scratchpad section: the map and the saved blocks (R306). -/
def State.spadBytes (s : State) (l : Launch) (w : Workgroup) : List Byte :=
  toBytes 512 ((s.savedBlocks l w).map fun b => 2 ^ b).sum ++ (s.savedBlocks l w).flatMap fun b => memBytes w.spad (256 * b) 256

/-- A tile and its status word (R122, R130, R306). -/
def tileBytes (t : Tile) : List Byte :=
  (List.range 16384).flatMap (fun i => wordBytes (match t.elems.find? fun x => x.1 = i with
    | some x => x.2
    | none => 0)) ++ toBytes 4 t.status.toNat

/-! ## The Objects section (R120, R190, R191, R210, R306) -/

/-- Numbers as 16 bytes each. -/
def objNums (xs : List Nat) : List Byte := xs.flatMap (toBytes 16)

/-- A list of numbers after their count. -/
def objList (xs : List Nat) : List Byte := objNums (xs.length :: xs)

/-- A key as a number (R10). -/
def keyNum (k : Key) : Nat := k.clk * 2 ^ 31 + k.warp * 2 ^ 5 + k.lane

/-- A signed number as one of 128 bits. -/
def intNum (x : Int) : Nat := (BitVec.ofInt 128 x).toNat

/-- A part of the section after its 32-bit length. -/
def objPart (bs : List Byte) : List Byte := toBytes 4 bs.length ++ bs

/-- A descriptor as the 512 bits of R75. -/
def descBits (d : Desc) : Nat :=
  let s48 := fun (x : Int) => (BitVec.ofInt 48 x).toNat
  d.base.toNat + d.fmt * 2 ^ 64 + (d.rank - 1) * 2 ^ 68 + d.swz * 2 ^ 70 + d.ch * 2 ^ 74 + d.sfmt * 2 ^ 76 + d.resv * 2 ^ 78 + d.pad.toNat * 2 ^ 96
    + ((List.range 4).map fun i => d.dim i * 2 ^ (128 + 32 * i) + d.box i * 2 ^ (256 + 16 * i)).sum + s48 d.soff * 2 ^ 320
    + ([1, 2, 3].map fun i => s48 (d.stride i) * 2 ^ (320 + 48 * i)).sum

/-- A location as a number. -/
def locNum : Loc → Nat
  | .phys a => a * 4
  | .spad n o => n * 2 ^ 40 + o * 4 + 1
  | .desc n o => n * 2 ^ 40 + o * 4 + 2

/-- A read context: its key, view, and the fibre's own bytes. -/
def rdBytes (r : Rd) : List Byte := objNums [keyNum r.key, r.view] ++ objList (r.own.flatMap fun x => [locNum x.1, x.2.toNat])

/-- A matrix command not yet complete: encoding, key, fibre, batch, predecessors, descriptors and origins as read at issue (R120). -/
def mcmdBytes (c : MCmd) : List Byte :=
  objNums [c.n, keyNum c.key, c.uid, c.batch, c.tile, c.id, c.o0.toNat, c.o1.toNat] ++ objList ((encode c.i).map (·.toNat)) ++ objList c.pres
    ++ toBytes 64 (descBits c.da) ++ toBytes 64 (descBits c.db) ++ rdBytes c.rd

/-- An engine command not yet finished (R190). -/
def ecmdBytes (c : ECmd) : List Byte :=
  objNums [c.n, keyNum c.key, c.addr.toNat, c.bar, (c.phase.map (· + 1)).getD 0, c.bytes, c.cancelled.toNat, c.cause, c.waiting.toNat, c.skip.toNat]
    ++ objList ((encode c.i).map (·.toNat)) ++ objList (c.coords.map intNum) ++ objList c.idx ++ toBytes 64 (descBits c.da)
    ++ toBytes 64 (descBits c.db) ++ rdBytes c.rd

/-- A commit or a wait of a fibre (R116, R117). -/
def mlogBytes : MLog → List Byte
  | .commit u n k => objNums [0, u, n, keyNum k]
  | .wait u n k => objNums [1, u, n, keyNum k]

/-- Bytes as runs: adjacent locations of one value and mask make one run of location, length, value and mask. -/
def byteRuns (bs : List PubByte) : List (Nat × Nat × Nat × Nat) :=
  (bs.foldl (fun (r : List (Nat × Nat × Nat × Nat)) b => match r with
    | (a, n, v, m) :: t =>
      if locNum b.loc = a + 4 * n ∧ b.val.toNat = v ∧ b.mask.toNat = m then (a, n + 1, v, m) :: t
      else (locNum b.loc, 1, b.val.toNat, b.mask.toNat) :: r
    | [] => [(locNum b.loc, 1, b.val.toNat, b.mask.toNat)]) []).reverse

/-- A publication's bytes, in runs. -/
def pubBytes (p : Pub) : List Byte :=
  objNums [keyNum p.key, p.rank, p.release.toNat] ++ objList ((byteRuns p.bytes).flatMap fun x => [x.1, x.2.1, x.2.2.1, x.2.2.2])

/-- The publication carries a byte of the workgroup's scratchpad or descriptor table. -/
def Pub.reaches (n : Nat) (p : Pub) : Bool := p.bytes.any fun b => match b.loc with
  | .spad m _ => decide (m = n)
  | .desc m _ => decide (m = n)
  | .phys _ => false

/-- A complete command holds its tile open at some key at which a live fibre of the workgroup can still act: no `mwait` below the lowest clock of
its fibres covers its batch (R117). -/
def State.opensTile (s : State) (w : Workgroup) (c : MCmd) : Bool :=
  let low := horizonOf ((s.wgFibres w.ref).map (·.clk))
  c.done && !(w.mlog.any fun x => match x with
    | .wait uid n k => decide (uid = c.uid ∧ c.batch < n ∧ k.clk < low)
    | .commit _ _ _ => false)

/-- The matrix command state: unfinished commands of both kinds, the tiles that complete ones hold open, the batch sequences, and the publications
held for later (R17, R117, R120, R190). -/
def State.cmdBytes (s : State) (l : Launch) (w : Workgroup) : List Byte :=
  let ms := w.mcmds.filter fun c => !c.done
  let ts := w.mcmds.filter (s.opensTile w)
  let es := l.ecmds.filter fun c => decide (c.wref = w.ref) && !c.done
  let ps := l.pubs.filter (Pub.reaches w.ref.wg)
  objNums [ms.length] ++ ms.flatMap mcmdBytes ++ objList (ts.flatMap fun c => [c.tile, c.uid, c.batch, keyNum c.key]) ++ objNums [es.length] ++ es.flatMap ecmdBytes
    ++ objList ((s.wgFibres w.ref).flatMap fun f => [f.uid, f.commits]) ++ objNums [w.mlog.length] ++ w.mlog.flatMap mlogBytes
    ++ objNums [ps.length] ++ ps.flatMap pubBytes

/-- The 512 bits of a stage barrier (R182). -/
def StageBar.bits (b : StageBar) : Nat :=
  b.phase % 2 ^ 31 + b.arrive * 2 ^ 32 + b.pend.toNat % 2 ^ 16 * 2 ^ 48 + b.oexp % 2 ^ 32 * 2 ^ 64 + b.oreg % 2 ^ 32 * 2 ^ 96
    + b.oland % 2 ^ 32 * 2 ^ 128 + b.ocause * 2 ^ 160 + b.ostat.toNat * 2 ^ 168 + b.op * 2 ^ 192 + b.creg % 2 ^ 32 * 2 ^ 256
    + b.cland % 2 ^ 32 * 2 ^ 288 + b.ccause * 2 ^ 320 + b.cstat.toNat * 2 ^ 328 + b.cdone.toNat * 2 ^ 329 + b.cp * 2 ^ 352 + 2 ^ 511

/-- An unapplied act: key, kind and amount (R183, R190). -/
def sbActNums (x : SbAct) : List Nat :=
  keyNum x.key :: match x.kind with
    | .exp b => [0, b, 0]
    | .arv b => [1, b, 0]
    | .reg c n => [2, c, n]
    | .wdq r => [3, r, 0]

/-- A stage barrier with its address, its `sbinit`'s key and its unapplied acts. -/
def sbarBytes (b : StageBar) : List Byte :=
  objNums [b.addr, keyNum b.made] ++ toBytes 64 b.bits ++ objList (b.acts.flatMap sbActNums)

/-- A stream: state, NB, F, constraints with their progress, the clock of the latest retirement, which alone a later act may need, and for each
body how far its last group lies beyond F (R196, R200, R205, R210). -/
def streamBytes (h : Stream) : List Byte :=
  let st := match h.st with
    | .closed => 0
    | .opened => 1
    | .draining => 2
  let cs := fun (c : Constraint) => [c.payload, c.group, match c.st with
    | .waiting => 0
    | .handed => 1
    | .done => 2]
  objNums [st, h.nb, h.f] ++ objList (h.cons.flatMap cs) ++ objNums [h.retiredAt h.f]
    ++ (List.range h.nb).map fun b => BitVec.ofNat 8 (h.last.foldl (fun n x => if x.1 = b then max n (x.2 - h.f) else n) 0)

/-- The descriptor entries that the workgroup has written: number and 64 bytes (R191). -/
def descEntries (l : Launch) (w : Workgroup) : List Byte :=
  ((List.range 256).filter fun i => memBytes w.desc (64 * i) 64 ≠ memBytes l.dbase (64 * i) 64).flatMap fun i => toBytes 4 i ++ memBytes w.desc (64 * i) 64

/-- The bytes that an Objects section has at most: four streams of 2^24 bodies and 65,536 constraints each, and 2^24 for the rest (R200, R203,
R301). DESIGN CHOICE, unsafe, log 36. -/
def objMax : Nat := 4 * (2 ^ 24 + 48 * 2 ^ 16) + 2 ^ 24

/-- The Objects section (R306), cut at `objMax` bytes, since the spec bounds neither the commands nor the publications that may wait; the device
keeps all of it. DESIGN CHOICE, unsafe, log 36. -/
def State.objBytes (s : State) (l : Launch) (w : Workgroup) : List Byte :=
  (objPart (s.cmdBytes l w) ++ objPart (w.sbars.flatMap sbarBytes) ++ objPart (w.harp.flatMap streamBytes) ++ objPart (descEntries l w)).take objMax

/-! ## Records (R306) -/

/-- The fibres of a workgroup by lane slot. -/
def State.slotFibres (s : State) (l : Launch) (w : Workgroup) : List (Option Fibre) :=
  (List.range l.warps).flatMap fun j => (List.range 32).map fun i => (s.warpFibres w.ref j).find? fun f => f.ref.lane = i

/-- The sections of a workgroup's record after its header, before the Objects. -/
def State.wgSections (s : State) (l : Launch) (w : Workgroup) : List Byte :=
  let slots := s.slotFibres l w
  let live := slots.filterMap id
  (List.range l.warps).flatMap (fun j => match s.warp? w.ref j with
      | some v => warpBytes (s.warpFibres w.ref j) v
      | none => List.replicate 320 0)
    ++ slots.flatMap (fun x => match x with
      | some f => toBytes 256 (fibreBits l f)
      | none => List.replicate 256 0)
    ++ live.flatMap regBytes ++ live.flatMap (fun f => (pendSectors f).flatMap (sectorBytes f))
    ++ live.flatMap (fun f => (savedOuts l f).flatMap (outBytes f)) ++ s.spadBytes l w ++ w.tiles.flatMap tileBytes

/-- A workgroup record with its header. -/
def State.wgRecord (s : State) (l : Launch) (w : Workgroup) : List Byte :=
  let body := s.wgSections l w ++ s.objBytes l w
  toBytes 64 (w.ref.wg + l.warps * 2 ^ 32 + l.regs / 8 * 2 ^ 40 + l.scratch * 2 ^ 48 + l.tiles * 2 ^ 64 + (64 + body.length) * 2 ^ 96)
    ++ body

/-- The image header (R306). -/
def imageHeader (l : Launch) (n : Nat) : List Byte :=
  toBytes 64 (2 ^ 16 + n * 2 ^ 32 + l.ctx * 2 ^ 84 + l.ref.queue * 2 ^ 88 + l.ref.seq * 2 ^ 96)

/-! ## Reading a record back (R308) -/

/-- What a restore has read so far: the next address of the section under way. -/
abbrev Cursor := Nat

/-- The fields that a fibre record holds, put into the fibre; what no field holds stays as the device kept it: the fetched words, the latest own
publication, the keys of prepared registers (R307, R308). DESIGN CHOICE, unsafe, log 36. -/
def Fibre.fromRecord (x : Nat) (f : Fibre) : Fibre :=
  let st := fun (n : Nat) => if n = 0 then BSt.unprepared else if n = 1 then BSt.prepared else BSt.stale
  let pc := BitVec.ofNat 57 (bits x 1423 1367)
  let g := { f with
    clk := bits x 1535 1480, view := bits x 1479 1424, wbase := bits x 1362 1355, preds := BitVec.ofNat 16 (bits x 1354 1339),
    seed := BitVec.ofNat 32 (bits x 1338 1307), fflags := BitVec.ofNat 6 (bits x 1306 1301),
    rmode := [RMode.rne, .rtz, .rdn, .rup, .sr].getD (bits x 1300 1298) .rne,
    bregs := (List.range 8).map fun i => ⟨st (bits x (1536 + 64 * i + 63) (1536 + 64 * i + 62)), BitVec.ofNat 57 (bits x (1536 + 64 * i + 56) (1536 + 64 * i))⟩,
    halted := decide (bits x 1297 1295 = 4), live := none, form := none, leaving := false }
  if savedPc f = (pc, bits x 1366 1363) then g else { g with pc := pc, npc := pc, words := [], hdr := 0, widx := 0, st := .enter }

/-- The registers of a fibre from its section at address a: those saved, the others 0; and the next address. -/
def readRegs (m : Memory) (a n : Nat) : List Word × Nat :=
  let mask := memNat m a 32
  (List.range n).foldl (fun (r : List Word × Nat) k =>
    if mask.testBit k then (r.1 ++ [BitVec.ofNat 32 (memNat m r.2 4)], r.2 + 4) else (r.1 ++ [0], r.2)) ([], a + 32)

/-- The pending stores of a fibre from n sectors at address a. -/
def readPend (m : Memory) (a n : Nat) (pend : List PByte) : List PByte :=
  pend.filterMap fun b =>
    ((List.range n).find? fun k => memNat m (a + 48 * k) 8 = b.addr / 32 * 32).bind fun k =>
      if (memNat m (a + 48 * k + 8) 4).testBit (b.addr % 32) then some { b with val := memGet m (a + 48 * k + 16 + b.addr % 32) } else none

/-- The words of the reply of record k at address a, where it is valid. -/
def readReply (m : Memory) (a k : Nat) : Option (List Word) :=
  let x := memNat m (a + 64 * k) 64
  if bits x 16 16 = 1 then some [BitVec.ofNat 32 (bits x 287 256), BitVec.ofNat 32 (bits x 319 288)] else none

/-- The outstanding results of a fibre with the replies of the image, which are there to be written to their registers (R308). -/
def readOuts (l : Launch) (m : Memory) (a : Nat) (f : Fibre) : List Outst :=
  let saved := savedOuts l f
  f.outs.map fun o => match (saved.idxOf? o).bind (readReply m a) with
    | some ws => { o with vals := some (ws.take (o.size / 4)), token := 0 }
    | none => { o with token := 0 }

/-- The fibre after valid replies have been written to its registers (R308). -/
def Fibre.replies (f : Fibre) : Fibre :=
  let now := f.outs.filter fun o => o.replied && o.sdst.isEmpty
  { f with regs := now.foldl (fun r o => writeOuts r o.dst (o.vals.getD [])) f.regs, outs := f.outs.filter fun o => !(o.replied && o.sdst.isEmpty) }

/-- The warp's uniform registers and its fibres' arrival state from its 320 bytes at address a. -/
def readWarp (m : Memory) (a : Nat) (v : Warp) : Warp := { v with sregs := (List.range 64).map fun i => BitVec.ofNat 32 (memNat m (a + 4 * i) 4) }

def readArr (m : Memory) (a : Nat) (f : Fibre) : Fibre :=
  let at_ := fun (g : Nat) => a + 256 + 15 * g
  { f with arr := (List.range 4).map fun g => memNat m (at_ g) 7 + (if (memNat m (at_ g + 7) 4).testBit f.ref.lane then 1 else 0),
           arrOut := (List.range 4).map fun g => (memNat m (at_ g + 11) 4).testBit f.ref.lane }

/-- The scratchpad from its section at address a: the saved blocks, the others 0; and the next address. -/
def readSpad (m : Memory) (a n : Nat) : Memory × Nat :=
  let map := memNat m a 512
  (List.range n).foldl (fun (r : Memory × Nat) b =>
    if map.testBit b then (memPut r.1 (256 * b) (memBytes m r.2 256), r.2 + 256) else r) ([], a + 512)

/-- A tile from its 65,540 bytes at address a. -/
def readTile (m : Memory) (a : Nat) : Tile :=
  { elems := ((List.range 16384).map fun i => (i, BitVec.ofNat 32 (memNat m (a + 4 * i) 4))).filter fun x => x.2 ≠ 0,
    status := BitVec.ofNat 2 (memNat m (a + 65536) 4) }

/-- Where the record of a fibre stands in the workgroup record at address a (R306). -/
def recordPlace (l : Launch) (a : Nat) (r : FRef) : Nat := a + 64 + 320 * l.warps + 256 * (32 * r.warp + r.lane)

/-- The record of a fibre in the workgroup record at address a. -/
def State.recordAt (s : State) (l : Launch) (a : Nat) (r : FRef) : Nat := memNat s.mem (recordPlace l a r) 256

/-- `PENDN` and `OUTN` of a fibre record (R307). -/
def pendCount (x : Nat) : Nat := bits x 1293 1286

def outCount (x : Nat) : Nat := bits x 1285 1280

/-- The fibre leaves the word of its atomic. -/
def State.leaveAtomic (s : State) (l : Launch) (f : Fibre) : State := (s.moveClock l (f.past 1) (f.clk + 1)).count l.part 0 1

/-- A workgroup's recorded state is written back from its record at address a; a fibre whose atomic has performed leaves its word, so that the atomic
is performed once (R304, R308). w is the workgroup as the device kept it. -/
def State.readRecord (s : State) (l : Launch) (w : Workgroup) (a : Nat) : State :=
  let m := s.mem
  let wa := a + 64
  let fa := wa + 320 * l.warps
  let live := (s.slotFibres l w).filterMap id
  -- registers of every fibre, then pending stores, then outstanding records
  let r := live.foldl (fun (r : List Fibre × Cursor) f =>
    let x := readRegs m r.2 f.regs.length
    (r.1 ++ [{ f with regs := x.1 }], x.2)) ([], fa + 8192 * l.warps)
  let p := r.1.foldl (fun (r : List Fibre × Cursor) f =>
    let n := pendCount (s.recordAt l a f.ref)
    (r.1 ++ [{ f with pend := readPend m r.2 n f.pend }], r.2 + 48 * n)) ([], r.2)
  let o := p.1.foldl (fun (r : List Fibre × Cursor) f =>
    let n := outCount (s.recordAt l a f.ref)
    (r.1 ++ [{ f with outs := readOuts l m r.2 f }], r.2 + 64 * n)) ([], p.2)
  let fs := o.1.map fun f => (readArr m (wa + 320 * f.ref.warp) f).fromRecord (s.recordAt l a f.ref)
  let sp := readSpad m o.2 l.scratch
  let t := fs.foldl (fun (t : State) f => if f.performed then (t.setF f.replies).leaveAtomic l f.replies else t.setF f.replies) s
  let t := { t with warps := t.warps.map fun (v : Warp) => if v.wref = w.ref then readWarp m (wa + 320 * v.j) v else v }
  t.updW w.ref fun x => { x with spad := sp.1, tiles := (List.range l.tiles).map fun k => readTile m (sp.2 + 65540 * k) }

/-- Where the outstanding results of a fibre begin, in the workgroup record at address a (R306). -/
def State.outsAt (s : State) (l : Launch) (w : Workgroup) (a : Nat) (r : FRef) : Cursor :=
  let live := (s.slotFibres l w).filterMap id
  live.foldl (fun c f => (readRegs s.mem c f.regs.length).2) (a + 64 + 320 * l.warps + 8192 * l.warps)
    + (live.map fun f => 48 * pendCount (s.recordAt l a f.ref)).sum
    + ((live.takeWhile fun f => f.ref ≠ r).map fun f => 64 * outCount (s.recordAt l a f.ref)).sum

/-- The image that the rotation keeps of a workgroup, as it stands now (R151). -/
def State.remakeSaved (s : State) (l : Launch) (w : Workgroup) : State :=
  let image := imageHeader l 1 ++ s.wgRecord l w
  s.updW w.ref fun x => { x with saved := image }

/-- The old value of a saved fibre's atomic goes into its record, in the image or in what the rotation wrote (R304). -/
def State.patchOuts (s : State) (l : Launch) (w : Workgroup) (f : Fibre) : State :=
  match w.image with
  | some a => { s with mem := memPut s.mem (s.outsAt l w a f.ref) ((savedOuts l f).flatMap (outBytes f)) }
  | none => s.remakeSaved l w

/-- The length of the record at address a, from its header (R306). -/
def State.recordLen (s : State) (a : Nat) : Nat := memNat s.mem (a + 12) 4

/-- The Objects section of the record at address a is the one that the save wrote, of which the device keeps a copy. -/
def State.objectsKept (s : State) (w : Workgroup) (a : Nat) : Bool :=
  decide (memBytes s.mem (a + (s.recordLen a - w.saved.length)) w.saved.length = w.saved)

/-- The record of a saved fibre is written anew, where the host's answer has changed the fibre; all registers of a parked fibre are saved, and its
sections stay as long as they are. The spec does not say what an answer does there. DESIGN CHOICE, unsafe, log 36. -/
def State.patchFibre (s : State) (r : FRef) : State :=
  match s.env? r with
  | none => s
  | some e =>
    let f := { e.f with live := none }
    let t := s.setF f
    match e.w.image with
    | some a =>
      let old := s.recordAt e.l a r
      let x := fibreBits e.l f - (savedOuts e.l f).length * 2 ^ 1280 - (pendSectors f).length * 2 ^ 1286
      { t with mem := memPut t.mem (recordPlace e.l a r) (toBytes 256 (x + outCount old * 2 ^ 1280 + pendCount old * 2 ^ 1286)) }
    | none => if e.w.core.isNone then t.remakeSaved e.l e.w else s

/-! ## Atomics (R139, R147, R304) -/

/-- The fibres of a workgroup whose atomics performed while it was saved leave their words (R308). -/
def State.leaveAtomics (s : State) (l : Launch) (w : WRef) : State :=
  (s.wgFibres w).foldl (fun t f => if f.performed then t.leaveAtomic l f else t) s

/-- ATOMIC_PERFORM: an atomic whose turn has completed performs its operation in key order, once; where its workgroup is saved, its old value
goes into the image, and the fibre leaves the word when it is restored (R139, R147, R304). -/
def execAtomicPerform (r : FRef) (s : State) : Host.Outcome State Fault Refusal :=
  runAct s (do
    let e ← s.env? r
    match e.f.st with
    | .atom a =>
      if !e.f.performed && s.atomOk e a && !(a.direct && s.intoImage e.l.ref a.locs) then do
        let t ← s.perform e a
        let f ← t.fibre? r
        some (if e.w.core.isSome then t.leaveAtomic e.l f else t.patchOuts e.l e.w f)
      else none
    | _ => none)

end Sys2Proof.Machine
end

