-- ==== Sys2Proof/Machine/Manage.lean ====
section
/-! DEFINITION. How a management command runs and is answered (R345, R347), the transfer area (R346), and the report of a
pre-emption (R302). -/

namespace Sys2Proof.Machine

/-- What a management command does now: it waits, it has begun and is answered later, or it is answered with a status and reply
words. -/
inductive Answer where
  | wait
  | go (t : State)
  | done (status : Nat) (ws : List Word) (t : State)
  deriving DecidableEq, Repr

/-- The reply block of a status, the tag of the command and reply words (R347). -/
def replyBlock (block : List Word) (status : Nat) (ws : List Word) : List Word :=
  (BitVec.ofNat 32 (status * 2 ^ 24 + bits (block.getD 0 0).toNat 23 16 * 2 ^ 16) :: ws ++ List.replicate 15 0).take 16

/-- The command under way is answered (R345, R347). -/
def State.reply (s : State) (status : Nat) (ws : List Word) : State :=
  { s with mgmt := { s.mgmt with reply := replyBlock s.mgmt.block status ws, busy := none } }

/-- Runs the command that is under way; act gets its arguments by number. DEDUCED, unsafe, log 37. -/
def runMgmt (s : State) (i : Instr) (act : (Nat → Nat) → Answer) : Host.Outcome State Fault Refusal :=
  if s.mgmt.busy = some i then
    match act fun n => (s.mgmt.block.getD (n + 1) 0).toNat with
    | .wait => .next s
    | .go t => .next t.ticked
    | .done st ws t => .next (t.reply st ws).ticked
  else .next s

/-- A 64-bit argument in two words, low word first (R347). -/
def arg64 (a : Nat → Nat) (n : Nat) : Nat := a n + a (n + 1) * 2 ^ 32

/-- A value as two reply words, low word first. -/
def words64 (x : Nat) : List Word := [BitVec.ofNat 32 x, BitVec.ofNat 32 (x / 2 ^ 32)]

/-- n bytes of the transfer area from offset o (R346). -/
def State.xferBytes (s : State) (o n : Nat) : List Byte := memBytes s.mgmt.xfer o n

/-- Bytes put at the start of the transfer area. -/
def State.putXfer (s : State) (bs : List Byte) : State := { s with mgmt := { s.mgmt with xfer := memPut s.mgmt.xfer 0 bs } }

/-- Size of the transfer area. -/
def xferLen : Nat := 16384

/-- An answer for a command about partition P: status 1 where it does not exist. DEDUCED, unsafe, log 37. -/
def withPart (s : State) (p : Nat) (k : Partition → Answer) : Answer :=
  match s.part? p with
  | some x => k x
  | none => .done 1 [] s

/-- An answer for a command about a context of a partition. DEDUCED, unsafe, log 37. -/
def withCtx (s : State) (p c : Nat) (k : Partition → Context → Answer) : Answer :=
  withPart s p fun x => match x.ctx? c with
    | some y => k x y
    | none => .done 1 [] s

/-- When the last workgroup of a launch ends while it is being pre-empted, the command is answered with the numbers of workgroups saved and ended
(R302, R305). -/
def State.reportPreempt (s : State) (r : LRef) : State :=
  match s.launch? r with
  | some l => match l.preempt with
    | some p =>
      if s.mgmt.busy = some .preEmpt ∧ (s.mgmt.block.getD 2 0).toNat = r.queue ∧ (s.mgmt.block.getD 3 0).toNat = r.seq ∧ s.wgs.all (fun w => decide (w.ref.launch ≠ r)) then
        s.reply 0 [BitVec.ofNat 32 p.saved, BitVec.ofNat 32 p.ended]
      else s
    | none => s
  | none => s

end Sys2Proof.Machine
end

