-- ==== Sys2Proof/Machine/Placement.lean ====
section
/-! DEFINITION. From launch to completion record (R11, R12, R145, R151, R223, R235, R238, R242 to R246, R344): which launches are
held, cores and their capacity, placement, exits, completion, the rotation, and the schedulers' sets. -/

namespace Sys2Proof.Machine

/-! ## Held launches (R145, R344) -/

/-- A launch that has not started is held (R145, R344). DEDUCED, safe, log 30. -/
def State.launchHeld (s : State) (p : Partition) (l : Launch) : Bool :=
  decide (l.next = 0) && ((s.queues.any (s.mayPrecede p l)) ||
    ((p.writes.any fun w => match w.boundary with
        | some b => decide (b.2 ≤ l.acc)
        | none => false)
      || s.launches.any fun o => decide (o.part = l.part ∧ o.ctx = l.ctx ∧ o.ref ≠ l.ref) && o.conflicts l && o.before l))

/-! ## Placement (R17, R242 to R244) -/

/-- The free warp slots of a core, lowest first (R244). -/
def State.freeSlots (s : State) (p k : Nat) : List Nat :=
  let used := (s.onCore p k).flatMap fun x => (s.warps.filter fun v => v.wref = x.2.ref).map (·.slot)
  (List.range 48).filter fun i => !used.contains i

/-- Warps of the active set of a core's scheduler c. -/
def State.activeWarps (s : State) (p k c : Nat) : List Warp :=
  (s.onCore p k).flatMap fun x => s.warps.filter fun v => v.wref = x.2.ref ∧ v.active ∧ v.slot % 4 = c

/-- A warp of a workgroup that has just come to core k takes slot i: in the active set where there is room (R244). -/
def State.seatWarp (s : State) (p : Nat) (r : WRef) (k : Nat) (x : Nat × Nat) : State :=
  s.updWarp r x.1 fun v => { v with slot := x.2, active := decide ((s.activeWarps p k (x.2 % 4)).length < 8) }

/-- A workgroup stands on core k: its warps take free slots, and the core counts among those that the run used (R244, R326). -/
def State.seat (s : State) (l : Launch) (r : WRef) (k : Nat) : State :=
  let slots := s.freeSlots l.part k
  let t := { s with warps := s.warps.map fun (v : Warp) => if v.wref = r then { v with active := false } else v }
  let t := t.updW r fun x => { x with core := some k }
  (((List.range l.warps).zip slots).foldl (fun t y => t.seatWarp l.part r k y) t).updP l.part fun p =>
    { p with ran := if p.ran.contains k then p.ran else k :: p.ran }

/-- Places workgroup n of a launch on a core, or where it has none as one that is saved: its scratchpad, tiles, warps and fibres at their reset
values (R9, R17, R242). -/
def State.placeWg (l : Launch) (s : State) (x : Nat × Option Nat) : State :=
  let r : WRef := ⟨l.ref, x.1⟩
  let t := { s with wgs := s.wgs ++ [{ l.newWg x.1 0 with core := none }],
                    warps := s.warps ++ (List.range l.warps).map fun (j : Nat) =>
                      ({ wref := r, j := j, sregs := List.replicate 64 0, slot := 0, active := false, halts := [] } : Warp) }
  let t := match x.2 with
    | some k => t.seat l r k
    | none => t
  let base := match t.launch? l.ref with
    | some y => y.fresh
    | none => 0
  let fs := (List.range l.warps).flatMap fun (j : Nat) => (List.range l.fibres).map fun (i : Nat) =>
    l.newFibre ⟨r, j, i⟩ (base + j * l.fibres + i)
  { t with fibres := t.fibres ++ fs }.updL l.ref fun y => { y with fresh := y.fresh + l.warps * l.fibres }

/-! ## Waits of a workgroup (R151, R223) -/

/-- No outstanding result holds the fibre, or one can arrive. -/
def State.resultsMove (s : State) (f : Fibre) : Bool :=
  f.outs.isEmpty || (List.range f.outs.length).any fun n => s.canDo (execLongLatencyResult f.ref n)

/-- A fibre at a word or a header is not known to wait there, or a result that it may wait for can arrive. -/
def State.wordMoves (s : State) (f : Fibre) : Bool := !f.halted && (f.held.isNone || (!f.outs.isEmpty && s.resultsMove f))

/-- Some act of a fibre's own can be made now, or one of the stage barrier at which it waits. -/
def State.fibreCanAct (s : State) (f : Fibre) : Bool :=
  match f.st with
  | .enter => s.wordMoves f
  | .run => s.wordMoves f
  | .turn _ _ => s.canDo (execTurnCompletion f.ref)
  | .conv _ => s.canDo (execConvergencePointExecute f.ref)
  | .bar _ _ _ => s.canDo (execBarrierExit f.ref)
  | .atom _ => f.performed || s.canDo (execAtomicPerform f.ref)
  | .fork _ _ _ => s.canDo (execForkLaneDecision f.ref)
  | .tile => s.wordMoves f
  | .keyed => s.wordMoves f
  | .peer _ => s.canDo (execPeerWindowAccess f.ref)
  | .excl => s.canDo (execDirectExclusiveAccess f.ref)
  | .sbwait a _ _ _ => s.canDo (execPhaseSettle f.ref.wref a) || s.canDo (execStageBarrierActApply f.ref.wref a)
  | .harp _ => s.canDo (execHarpActApply f.ref)
  | .hstall _ _ _ _ _ _ => s.canDo (execHarpActApply f.ref)
  | .hsync _ _ _ => s.canDo (execHarpActApply f.ref)
  | .parked _ _ => true

/-- The cores that a saved workgroup can return to: those the queue's mask names; a member of a gang goes to the quad on which a member of its
gang stands, where that quad's four cores are unfenced, and there to a core on which none stands (R8, R12, R232, R242). -/
def State.returnCores (s : State) (p : Partition) (l : Launch) (w : Workgroup) : List Nat :=
  let mates := if l.gang then s.wgs.filterMap fun x =>
      if x.ref.launch = l.ref ∧ x.ref.wg / 4 = w.ref.wg / 4 ∧ x.ref ≠ w.ref then x.core else none
    else []
  match mates with
  | k :: _ => if (wholeQuads (s.cores p)).contains (k / 4) then (coresIn (s.cores p) (k / 4)).filter fun i => !mates.contains i else s.cores p
  | [] => if l.gang then
      let named := wholeQuads (s.allowedCores p l)
      let whole := if named.isEmpty then wholeQuads (s.cores p) else named
      if whole.isEmpty then s.cores p else (s.cores p).filter fun k => whole.contains (k / 4)
    else s.allowedCores p l

/-- A core that a saved workgroup can return to now. -/
def State.returnCore (s : State) (p : Partition) (l : Launch) (w : Workgroup) : Option Nat := (s.returnCores p l w).find? fun k => s.fits p l k 1

/-- The fibre is parked (R289). -/
def Fibre.isParked (f : Fibre) : Bool :=
  match f.st with
  | .parked _ _ => true
  | _ => false

/-- None of the workgroup's fibres can act, a parked one of a launch that drains among them, and nothing of its own is under way. DEDUCED, safe,
log 33. -/
def State.wgStill (s : State) (l : Launch) (w : Workgroup) : Bool :=
  (s.wgFibres w.ref).all (fun f => !s.fibreCanAct f || (l.draining && f.isParked)) && s.objectsStuck l w

/-- A saved workgroup that could go on if it stood on core k. DEDUCED, safe, log 33. -/
def State.wouldAct (s : State) (l : Launch) (w : Workgroup) (k : Nat) : Bool :=
  !(s.updW w.ref fun x => { x with core := some k }).wgStill l { w with core := some k }

/-- A workgroup saved by the rotation: one that has ended and is only kept for later accesses is none (R150, R151). -/
def Launch.rotated (l : Launch) (w : Workgroup) : Bool :=
  w.core.isNone && decide (w.ref.launch = l.ref) && l.preempt.isNone && w.image.isNone && !l.exits.any fun x => x.1 = w.ref.wg

/-- A workgroup saved by the rotation can return to a core now: it can go on there, or nothing of its launch waits to be placed (R151). DEDUCED,
safe, log 33. -/
def State.returns (s : State) (p : Partition) (l : Launch) (w : Workgroup) : Option Nat :=
  match s.returnCore p l w with
  | some k => if l.rotated w && (s.wouldAct l w k || decide (l.wgCount ≤ l.next)) then some k else none
  | none => none

/-- Launch o can use a core that is free now: for the workgroups that it places next, or for one that the rotation saved (R235, R243). DEDUCED,
safe, log 30. -/
def State.wantsCore (s : State) (p : Partition) (o : Launch) : Bool :=
  o.preempt.isNone && ((decide (o.next < o.wgCount) && !s.launchHeld p o && (s.nextPlaces p o).isSome) || s.wgs.any fun w => (s.returns p o w).isSome)

/-- Another launch that can use a free core goes first: cores are offered by priority, then by queue number (R235, R243). DEDUCED, safe, log
30. -/
def State.placesFirst (s : State) (p : Partition) (l : Launch) : Bool :=
  let prio := fun (r : LRef) => match s.queue? r.queue with
    | some q => q.prio
    | none => 0
  s.launches.any fun o => decide (o.part = l.part ∧ o.ref ≠ l.ref)
    && decide (prio l.ref < prio o.ref ∨ (prio l.ref = prio o.ref ∧ o.ref.queue < l.ref.queue)) && s.wantsCore p o

/-- WORKGROUP_PLACEMENT: the launch's next workgroup, or gang, in linear order goes to a fitting core (R11, R12, R242, R243). -/
def execWorkgroupPlacement (r : LRef) (s : State) : Host.Outcome State Fault Refusal :=
  runAct s (do
    let l ← s.launch? r
    let p ← s.part? l.part
    if l.next < l.wgCount ∧ l.preempt = none ∧ ¬ s.launchHeld p l ∧ ¬ s.placesFirst p l then
      let xs ← s.nextPlaces p l
      some ((xs.foldl (fun t x => t.placeWg l x) s).updL r fun y => { y with next := y.next + xs.length })
    else none)

/-! ## Exit and completion (R120, R150, R210, R238) -/

/-- The exit key of a workgroup whose fibres have all halted. DEDUCED, unsafe, log 32. -/
def Launch.exitOf (l : Launch) (n : Nat) : Option Key := (l.exits.find? fun x => x.1 = n).map (·.2)

/-- Some access keyed at or below the exit may still have to read or write the workgroup's scratchpad. DEDUCED, unsafe, log 32. -/
def State.padNeeded (s : State) (l : Launch) (n : Nat) : Bool :=
  let here := fun (x : Loc) => match x with
    | .spad m _ => decide (m = n)
    | _ => false
  (s.launchFibres l.ref).any (fun f => f.outs.any fun o => o.vals.isNone && o.locs.any here)
    || l.ecmds.any (fun c => !c.done && ((s.ecSrc l c).any here || (s.ecDst l c).any here))

/-- A fibre of the gang that waits excluded can go on below clock c, so that an access keyed below an exit of that clock may still come (R150). -/
def State.excludedBelow (s : State) (l : Launch) (n c : Nat) : Bool :=
  (s.launchFibres l.ref).any fun f => (l.gangOf n).contains f.ref.wref.wg && (s.bound? l f).any fun b => decide (b ≤ c)

/-- WORKGROUP_EXIT: a workgroup whose last fibre has halted gives up its core once its commands are complete and the horizon lies above its
exit; it ends when no access keyed below its exit can still come, and its streams and barriers end with it (R120, R150, R210). DEDUCED, unsafe,
log 32. -/
def execWorkgroupExit (r : WRef) (s : State) : Host.Outcome State Fault Refusal :=
  runAct s (do
    let w ← s.wg? r
    let l ← s.launch? r.launch
    let k ← l.exitOf r.wg
    if (s.wgFibres r).isEmpty && w.mcmds.all (·.done) && (l.ecmds.all fun c => c.done || decide (c.wref ≠ r))
        && (l.wdqs.all fun q => q.done || decide (q.wref ≠ r)) && decide (k.clk < s.quadHorizon l r.wg) && !s.padNeeded l r.wg then
      if s.excludedBelow l r.wg k.clk then if w.core.isSome then some (s.updW r fun x => { x with core := none }) else none
      else
      let t := { s with wgs := s.wgs.filter fun x => x.ref ≠ r, warps := s.warps.filter fun v => v.wref ≠ r }
      let t := t.updL r.launch fun y => { y with preempt := y.preempt.map fun x => { x with ended := x.ended + 1 } }
      some (t.reportPreempt r.launch)
    else none)

/-- The tag under which a fibre's record stands unanswered in the stop queue. -/
def stopTag (f : Fibre) : Option Nat :=
  match f.st with
  | .parked _ (.tag n) => some n
  | _ => none

/-- The tags of unanswered records of some fibres, which go, stay in use until they are answered (R350). -/
def Partition.keepTags (p : Partition) (fs : List Fibre) : Partition := { p with stopTags := p.stopTags ++ fs.filterMap stopTag }

/-- A launch ends: its record is written with a status, the completed number advances, its pins go, and bound ports have something to
report (R166, R238, R350, R354). DEDUCED, unsafe, log 34. -/
def State.endLaunch (s : State) (l : Launch) (status : Nat) : State :=
  let t := match s.part? l.part with
    | none => s
    | some p => match p.ctx? l.ctx with
      | none => s
      | some c => s.completed p c l.ref.queue (BitVec.ofNat 32 l.ref.seq) status 0 (some l.doneAddr)
  let t := t.updP l.part fun p => (p.updC l.ctx fun c => { c with pins := c.pins.filter fun x => x.owner ≠ l.ref }).keepTags (s.launchFibres l.ref)
  let t := t.updP l.part fun p => { p with toldOf := if p.replay.isSome then p.toldOf else p.toldOf.filter fun x => x.1 ≠ l.ref }
  let t := { t with wgs := t.wgs.filter fun w => w.ref.launch ≠ l.ref }.reportPreempt l.ref
  { t with launches := t.launches.filter fun x => x.ref ≠ l.ref,
           warps := t.warps.filter fun v => v.wref.launch ≠ l.ref, fibres := t.fibres.filter fun f => f.ref.wref.launch ≠ l.ref }

/-- COMPLETION_RECORD_WRITE: once the last workgroup has ended and every publication is applied, the record is written: status
0, or 8 for a launch that the host has ended (R237, R238). -/
def execCompletionRecordWrite (r : LRef) (s : State) : Host.Outcome State Fault Refusal :=
  runAct s (do
    let l ← s.launch? r
    if decide (l.wgCount ≤ l.next) && l.pubs.isEmpty && (s.wgs.all fun w => w.ref.launch ≠ r)
        && l.ecmds.all (·.done) then
      some (s.endLaunch l (if l.draining then 8 else 0))
    else none)

/-! ## The rotation (R151, R223) -/

/-- A placed workgroup with live fibres waits. DEDUCED, safe, log 33. -/
def State.wgWaits (s : State) (l : Launch) (w : Workgroup) : Bool :=
  w.core.isSome && w.halt = .none && !(s.wgFibres w.ref).isEmpty && s.wgStill l w

/-- A save may begin: no arithmetic result is still outstanding (R304). -/
def State.resultsIn (s : State) (w : WRef) : Bool := (s.wgFibres w).all fun f => f.outs.all fun o => o.kind ≠ .arith

/-- A workgroup is saved whole without a command of the host: its context image is written, and it leaves its core. The spec names no place for the
image; the device keeps it (R151, R303, R306, R317). DEDUCED, safe, log 33. -/
def State.putAside (s : State) (l : Launch) (w : Workgroup) : State :=
  let image := imageHeader l 1 ++ s.wgRecord l w
  { s with fibres := s.fibres.map fun (f : Fibre) => if f.ref.wref = w.ref then { f with held := none } else f }.updW w.ref fun x =>
    { x with core := none, saved := image }

/-- ROTATION_SAVE: every placed workgroup of the launch that has live fibres waits, another cannot be placed or go on for want of a core, and this one is the
lowest that may be saved (R151, R194, R223, R228). DEDUCED, safe, log 33. -/
def execRotationSave (r : WRef) (s : State) : Host.Outcome State Fault Refusal :=
  runAct s (do
    let w ← s.wg? r
    let l ← s.launch? r.launch
    let p ← s.part? l.part
    let mine := s.wgs.filter fun x => x.ref.launch = l.ref
    let placed := mine.filter fun x => x.core.isSome && !(s.wgFibres x.ref).isEmpty
    let free := placed.filter fun x => !s.barUnplaced l x
    let pool := if free.isEmpty then placed else free
    let needs := (decide (l.next < l.wgCount) && s.rotates l && (s.nextPlaces p l).isNone)
      || mine.any fun x => l.rotated x && (s.returnCore p l x).isNone && s.wouldAct l x 0
    if l.preempt.isNone && needs && placed.all (s.wgWaits l) && s.resultsIn r
        && pool.contains w && pool.all (fun x => decide (r.wg ≤ x.ref.wg)) then
      some (s.putAside l w)
    else none)

/-- A workgroup whose state was saved stands on core k again: its warps take free slots, and its tokens are clear (R8, R17, R244,
R308). -/
def State.putOnCore (s : State) (l : Launch) (r : WRef) (k : Nat) : State :=
  let t := s.seat l r k
  let fs := t.fibres.map fun (f : Fibre) => if f.ref.wref = r then { f with outs := f.outs.map (fun o => { o with token := 0 }), form := none, held := none } else f
  (({ t with fibres := fs }.leaveAtomics l r).updW r fun x => { x with image := none, saved := [] }).refitPins l.part

/-- ROTATION_RESTORE: a workgroup saved by the rotation returns to a free core when it can go on, or when nothing of its launch waits to be
placed, in the order in which cores are offered (R151, R235, R243, R308). DEDUCED, safe, log 33. -/
def execRotationRestore (r : WRef) (s : State) : Host.Outcome State Fault Refusal :=
  runAct s (do
    let w ← s.wg? r
    let l ← s.launch? r.launch
    let p ← s.part? l.part
    let k ← s.returns p l w
    if s.placesFirst p l then none else some (s.putOnCore l r k))

/-! ## The schedulers (R244, R246) -/

/-- The clock of a warp: the lowest among its live fibres (R246). -/
def State.warpClk (s : State) (v : Warp) : Nat := horizonOf ((s.warpFibres v.wref v.j).map (·.clk))

/-- The warp id of a warp (R10). -/
def State.warpNo (s : State) (v : Warp) : Nat :=
  match s.launch? v.wref.launch with
  | some l => v.wref.wg * l.warps + v.j
  | none => 0

/-- No batch of the warp can become eligible without an outside event: each of its fibres waits, in a state of its own or at a word or header
where it has been found to wait (R246). -/
def State.warpWaits (s : State) (v : Warp) : Bool :=
  (s.warpFibres v.wref v.j).all fun f => match f.st with
    | .enter => f.halted || f.held.isSome
    | .run => f.halted || f.held.isSome
    | _ => true

/-- Sets a warp's place in the active set. -/
def State.setActive (s : State) (v : Warp) (b : Bool) : State := s.updWarp v.wref v.j fun x => { x with active := b }

/-- Of two warps the one of lower clock goes first, on equal clocks that of lower warp id (R246). -/
def State.warpFirst (s : State) (v y : Warp) : Bool :=
  decide (s.warpClk v < s.warpClk y ∨ (s.warpClk v = s.warpClk y ∧ s.warpNo v ≤ s.warpNo y))

/-- The pending warps of a core's scheduler c. -/
def State.pendingWarps (s : State) (p k c : Nat) : List Warp :=
  (s.onCore p k).flatMap fun x => s.warps.filter fun y => y.wref = x.2.ref ∧ ¬ y.active ∧ y.slot % 4 = c

/-- WARP_PROMOTION: a warp that waits leaves the active set where the pending set has room for it; a pending warp whose event has occurred, the
first by clock and id, enters where there is room, else in exchange for a waiting active warp, else for the active warp of highest clock, if that
is higher. The pending set holds at most 4 (R244, R246). DESIGN CHOICE, safe, log 59. -/
def execWarpPromotion (r : WRef) (j : Nat) (s : State) : Host.Outcome State Fault Refusal :=
  runAct s (do
    let v ← s.warp? r j
    let w ← s.wg? r
    let l ← s.launch? r.launch
    let k ← w.core
    let act := s.activeWarps l.part k (v.slot % 4)
    let pend := s.pendingWarps l.part k (v.slot % 4)
    if v.active then if s.warpWaits v && decide (pend.length < 4) then some (s.setActive v false) else none
    else if s.warpWaits v || !(pend.all fun y => s.warpWaits y || s.warpFirst v y) then none
    else if act.length < 8 then some (s.setActive v true)
    else match act.find? s.warpWaits with
      | some y => some ((s.setActive y false).setActive v true)
      | none =>
        let top := act.foldl (fun m y => max m (s.warpClk y)) 0
        match act.find? fun y => s.warpClk y = top with
        | some y => if s.warpClk v < top then some ((s.setActive y false).setActive v true) else none
        | none => none)

end Sys2Proof.Machine
end

