-- ==== Sys2Proof/Machine/Service.lean ====
section
/-! DEFINITION. Service of stops (R277, R278, R291 to R294, R320, R350): the host fault
queue and the stop queue, the host's answers, and the drain and abort of a launch. -/

namespace Sys2Proof.Machine

/-! ## The host fault queue (R277) -/

/-- The 256 bits of an entry (R277). -/
def fqBits (x : FqEntry) (tag : Nat) : Nat :=
  x.page * 2 ^ 16 + tag * 2 ^ 80 + x.ctx * 2 ^ 88 + (if x.eng then 2 ^ 92 else 0) + x.cause * 2 ^ 93 + x.count * 2 ^ 96
    + x.key.lane * 2 ^ 113 + x.key.warp * 2 ^ 118 + x.key.clk * 2 ^ 144

/-- The lowest tag below 256 that is not in use (R350). DEDUCED, unsafe, log 35. -/
def freeTag (used : List Nat) : Option Nat := (List.range 256).find? fun t => !used.contains t

/-- Writes the oldest entry that has no tag to the ring, when there is room and a tag (R349, R350). DEDUCED, unsafe, log 35. -/
def State.postFault (s : State) (n : Nat) : State :=
  match s.part? n with
  | none => s
  | some p =>
    match p.faultQ.find? (fun x => x.tag.isNone && x.own.isNone), freeTag (p.faultQ.filterMap (·.tag) ++ p.faultTags) with
    | some x, some t =>
      if (p.ring 0).room then
        (s.ringPut p 0 (toBytes 32 (fqBits x t))).updP n fun q =>
          { q with faultQ := q.faultQ.map fun y => if y = x then { y with tag := some t, slot := (p.ring 0).head.toNat } else y }
      else s
    | _, _ => s

/-- An entry that a fault has joined stands so in its slot of the ring, until the slot is used again (R277, R349). DEDUCED, unsafe, log 35. -/
def State.repostFault (s : State) (p : Partition) (x : FqEntry) : State :=
  let r := p.ring 0
  match x.tag, windowAddr p (r.base.toNat + 32 * (x.slot % 2 ^ r.logn)) with
  | some t, some a =>
    let back := (r.head - BitVec.ofNat 32 x.slot).toNat
    if r.en ∧ 0 < back ∧ back ≤ 2 ^ r.logn then { s with mem := memPut s.mem a (toBytes 32 (fqBits x t)) } else s
  | _, _ => s

/-- Writes entries while there is room. -/
def State.flushFaults (s : State) (n : Nat) : Nat → State
  | 0 => s
  | k + 1 => (s.flushFaults n k).postFault n

/-- Every entry that can be written is. DEDUCED, unsafe, log 35. -/
def State.flushFaultQ (s : State) (n : Nat) : State :=
  match s.part? n with
  | none => s
  | some p => s.flushFaults n p.faultQ.length

/-- The first address of a running command that does not translate, with the cause (R180, R277). -/
def State.ecFault (s : State) (l : Launch) (c : ECmd) : Option (Nat × Nat) :=
  let look := fun (k : WKind) (a : Nat) => match regionOf (BitVec.ofNat 64 a) with
    | some (.glob va) => if inArgs va then none else match s.translate l va k with
      | .error x => some (va, x)
      | .ok _ => none
    | _ => none
  c.moves.findSome? fun m =>
    let dst := c.db.elemAddrs m.dst
    if dst.isEmpty then none
    else match (c.da.elemAddrs m.src).findSome? (look .read) with
      | some x => some x
      | none => dst.findSome? (look .write)

/-- What a translation fault is of: its launch, virtual address, cause, and key; none when nothing waits to be entered. -/
def State.faultOf (s : State) (x : FaultSrc) : Option (Launch × Nat × Nat × Key) :=
  match x with
  | .fibre r => do
    let e ← s.env? r
    match e.f.st with
    | .parked q .no => if q.code = 1 then some (e.l, q.info.toNat, q.cause, ⟨q.clk, q.warp, q.lane⟩) else none
    | _ => none
  | .engine r n => do
    let l ← s.launch? r
    let p ← s.part? l.part
    let c ← l.ecmds.find? fun c => c.n = n ∧ c.waiting ∧ ¬ c.done
    if p.faultQ.any fun y => y.srcs.contains x then none
    else do
      let y ← s.ecFault l c
      some (l, y.1, y.2, c.key)

/-- The launch of what met a fault. -/
def srcLaunch : FaultSrc → LRef
  | .fibre f => f.wref.launch
  | .engine l _ => l

/-- A joined fault is held until its entry is answered. -/
def State.holdSrc (s : State) (x : FaultSrc) : State :=
  match x with
  | .fibre r => match s.fibre? r with
    | some f => match f.st with
      | .parked q _ => s.setF { f with st := .parked q .held }
      | _ => s
    | none => s
  | .engine _ _ => s

/-- Resume of one joined access: it retries at its own key and view (R278). -/
def State.resumeSrc (s : State) (x : FaultSrc) : State :=
  match x with
  | .fibre r => match s.fibre? r with
    | some f => match f.st with
      | .parked q _ => (s.setF (f.retry q)).patchFibre r
      | _ => s
    | none => s
  | .engine l n => s.updL l fun y => { y with ecmds := y.ecmds.map fun c => if c.n = n then { c with waiting := false } else c }

/-- Abort of one joined access: a command skips what does not translate and poisons its phase; a fibre's launch is ended
(R180, R278). -/
def State.abortSrc (s : State) (x : FaultSrc) : State :=
  match x with
  | .fibre r => s.updL r.wref.launch fun y => { y with draining := true }
  | .engine l n => s.updL l fun y =>
      { y with ecmds := y.ecmds.map fun c => if c.n = n then { c with waiting := false, skip := true } else c }

/-- The first journalled answer to such a fault of a launch, the number of accesses that had joined it, and the journal without it (R320).
DEDUCED, unsafe, log 41. -/
def takeFaultAns (l : LRef) (c g k : Nat) : List JRec → Option ((Bool × Nat) × List JRec)
  | [] => none
  | .faultAns l' c' g' k' b n :: r =>
    if l' = l ∧ c' = c ∧ g' = g ∧ k' = k then some ((b, n), r)
    else (takeFaultAns l c g k r).map fun x => (x.1, .faultAns l' c' g' k' b n :: x.2)
  | x :: r => (takeFaultAns l c g k r).map fun y => (y.1, x :: y.2)

/-- An entry with one more fault joined to it (R277). -/
def FqEntry.join (e : FqEntry) (x : FaultSrc) (k : Key) (isEng : Bool) : FqEntry :=
  { e with srcs := e.srcs ++ [x], count := min 0x1FFFF (e.count + 1), key := if keyLt k e.key then k else e.key, eng := e.eng || isEng }

/-- Every joined access of an entry is answered (R278). -/
def State.answerAll (s : State) (xs : List FaultSrc) (resume : Bool) : State :=
  xs.foldl (fun t y => if resume then t.resumeSrc y else t.abortSrc y) s

/-- HOST_FAULT_QUEUE_ENTRY: a translation fault joins the unanswered entry of its context, page and cause, or makes one. In replay, an entry of a
launch that has a journalled answer for it is not posted: it takes the answer once as many accesses have joined as had joined in the first run
(R277, R320). DEDUCED, unsafe, log 35. -/
def execHostFaultQueueEntry (x : FaultSrc) (s : State) : Host.Outcome State Fault Refusal :=
  runAct s (do
    let y ← s.faultOf x
    let l := y.1
    let p ← s.part? l.part
    let g := y.2.1 % 2 ^ 57 / 65536
    let c := y.2.2.1
    let k := y.2.2.2
    let isEng := match x with
      | .fibre _ => false
      | .engine _ _ => true
    let ans := takeFaultAns l.ref l.ctx g c p.answers
    let own := ans.map fun _ => l.ref
    let t := s.holdSrc x
    let old := p.faultQ.find? fun z => decide (z.ctx = l.ctx ∧ z.page = g ∧ z.cause = c ∧ z.own = own)
    let e := match old with
      | some z => z.join x k isEng
      | none => { tag := none, ctx := l.ctx, page := g, cause := c, srcs := [x], key := k, count := 1, eng := isEng, own := own }
    match ans with
    | some a =>
      let rest := p.faultQ.filter fun z => some z ≠ old
      if a.1.2 ≤ e.srcs.length then some ((t.updP p.id fun q => { q with faultQ := rest, answers := a.2 }).answerAll e.srcs a.1.1)
      else some (t.updP p.id fun q => { q with faultQ := rest ++ [e] })
    | none => match old with
      | some z => some ((t.updP p.id fun q => { q with faultQ := q.faultQ.map fun w => if w = z then e else w }).repostFault p e)
      | none => some ((t.updP p.id fun q => { q with faultQ := q.faultQ ++ [e] }).postFault p.id))

/-! ## The stop queue (R291, R292) -/

/-- The fibres of a partition. -/
def State.partFibres (s : State) (p : Nat) : List Fibre :=
  s.fibres.filter fun f => match s.launch? f.ref.wref.launch with
    | some l => decide (l.part = p)
    | none => false

/-- The word at which a fibre stopped for `trap`, `brk` or a step of one is complete: it goes on at its clock plus 1 (R293,
R296, R297, R335). -/
def State.completeStop (s : State) (e : Env) : State := s.pass s { e with f := { e.f with st := .run } } { e.f with st := .run } 1 1

/-- Continue (R293): the word of a `trap` or `brk` completes; any other word executes again. -/
def State.goOn (s : State) (e : Env) (r : FaultRec) : State :=
  if r.code = 0x18 ∨ r.code = 0x19 then s.completeStop e else s.setF (e.f.retry r)

/-- End (R293, R294): the launch drains, and the fibre stays parked. -/
def State.endBy (s : State) (e : Env) (r : FaultRec) : State :=
  (s.setF { e.f with st := .parked r .held }).updL e.l.ref fun l => { l with draining := true }

/-- The journalled answer to a stop record, and the journal without it (R320). DEDUCED, unsafe, log 41. -/
def takeStopAns (l : LRef) (r : FaultRec) : List JRec → Option (Bool × List JRec)
  | [] => none
  | .stopAns l' w n c k b :: t =>
    if l' = l ∧ w = r.warp ∧ n = r.lane ∧ c = r.clk ∧ k = r.code then some (b, t)
    else (takeStopAns l r t).map fun x => (x.1, .stopAns l' w n c k b :: x.2)
  | x :: t => (takeStopAns l r t).map fun y => (y.1, x :: y.2)

/-- STOP_QUEUE_POST: a parked fibre's record is posted when the stop queue has room and a tag; debug stops go to an attached debugger
instead; in replay a journalled answer is taken (R292, R320, R350). DEDUCED, unsafe, log 35. -/
def execStopQueuePost (r : FRef) (s : State) : Host.Outcome State Fault Refusal :=
  runAct s (do
    let e ← s.env? r
    let p ← s.part? e.l.part
    match e.f.st with
    | .parked q .no =>
      if q.code = 1 ∨ (0x18 ≤ q.code ∧ p.attached) then none
      else match takeStopAns e.l.ref q p.answers with
        | some a =>
          let t := s.updP p.id fun x => { x with answers := a.2 }
          some ((if a.1 then t.goOn e q else t.endBy e q).patchFibre r)
        | none => do
          let n ← freeTag ((s.partFibres p.id).filterMap stopTag ++ p.stopTags)
          if (p.ring 1).room then
            some (((s.ringPut p 1 (toBytes 64 (recBits q n))).setF { e.f with st := .parked q (.tag n) }).patchFibre r)
          else none
    | _ => none)

/-! ## Answers (R278, R293, R350) -/

/-- A rejected answer sets the answer status bit (R350). -/
def State.badAnswer (s : State) (p : Nat) : State := s.updP p fun q => { q with ansBad := true }

/-- An accepted answer clears it, and is journalled (R318, R350). -/
def State.goodAnswer (s : State) (p : Nat) (js : List JRec) : State :=
  s.updP p fun q => { q with ansBad := false, journal := q.journal ++ js }

/-- An answer that names no entry of something that is still there: an entry whose launch has gone takes it, and its tag is free; else it is rejected
(R350). -/
def State.answerGone (s : State) (p tag : Nat) (tags : Partition → List Nat) (drop : Partition → Partition) : State :=
  if (s.part? p).any fun q => (tags q).contains tag then ((s.updP p drop).goodAnswer p []).flushFaultQ p else s.badAnswer p

/-- The host answers an entry of the host fault queue: act for every joined access, journal, and the tag is free. -/
def State.answerFault (s : State) (p tag : Nat) (resume : Bool) : State :=
  match (s.part? p).bind fun q => q.faultQ.find? fun x => x.tag = some tag with
  | none => s.answerGone p tag (·.faultTags) fun q => { q with faultTags := q.faultTags.filter (· ≠ tag) }
  | some x =>
    let t := (s.answerAll x.srcs resume).updP p fun q => { q with faultQ := q.faultQ.filter fun y => y.tag ≠ some tag }
    let ls := x.srcs.map srcLaunch
    let js := ls.eraseDups.map fun l => JRec.faultAns l x.ctx x.page x.cause resume (ls.filter (· = l)).length
    (t.goodAnswer p js).flushFaultQ p

/-- RESUME: every joined access retries at its own key with a new walk (R278). -/
def execResumeFault (p tag : Nat) (s : State) : Host.Outcome State Fault Refusal := runAct s (some (s.answerFault p tag true))

/-- ABORT: joined commands poison their phases with cause 4 and launches with joined fibres are ended (R278). -/
def execAbortFault (p tag : Nat) (s : State) : Host.Outcome State Fault Refusal := runAct s (some (s.answerFault p tag false))

/-- The host answers a record of the stop queue. The spec does not say what an answer does while the fibre stands in the host's image; the fibre is
answered at once, and its record in the image with it. DESIGN CHOICE, unsafe, log 36. -/
def State.answerStop (s : State) (p tag : Nat) (cont : Bool) : State :=
  match ((s.partFibres p).find? fun f => stopTag f = some tag).bind fun f => s.env? f.ref with
  | none => s.answerGone p tag (·.stopTags) fun q => { q with stopTags := q.stopTags.filter (· ≠ tag) }
  | some e => match e.f.st with
    | .parked r _ => ((if cont then s.goOn e r else s.endBy e r).patchFibre e.f.ref).goodAnswer p [.stopAns e.l.ref r.warp r.lane r.clk r.code cont]
    | _ => s.badAnswer p

/-- CONTINUE: the parked fibre completes its `trap` or `brk`, or executes its word again (R293). -/
def execContinueStop (p tag : Nat) (s : State) : Host.Outcome State Fault Refusal := runAct s (some (s.answerStop p tag true))

/-- END: the launch is drained (R293, R294). -/
def execEndStop (p tag : Nat) (s : State) : Host.Outcome State Fault Refusal := runAct s (some (s.answerStop p tag false))

/-! ## Drain and abort (R294) -/

/-- The fibre is parked and reported, or waits for an act that nothing will make; a saved workgroup's fibre is asked as if it stood on a core.
DEDUCED, unsafe, log 25; DEDUCED, unsafe, log 34. -/
def State.drained (s : State) (f : Fibre) : Bool :=
  match f.st with
  | .parked _ .no => false
  | .parked _ _ => true
  | _ => !s.fibreCanAct f && !s.canDo (execConvergenceFault f.ref)

/-- MATRIX_COMMAND_EFFECT: command n takes its whole effect once the matrix horizon lies above its key (R113). Where the launch drains and
none of its fibres can go on, it runs to completion all the same (R294). DEDUCED, unsafe, log 25. -/
def execMatrixCommandEffect (w : WRef) (n : Nat) (s : State) : Host.Outcome State Fault Refusal :=
  runAct s (do
    let g ← s.wg? w
    let l ← s.launch? w.launch
    let c ← g.mcmds.find? fun c => c.n = n
    if g.core.isSome && s.matReady l g c && (s.matrixOk l w c.key c.uid || (l.draining && l.preempt.isNone && l.wgCount ≤ l.next && (s.launchFibres l.ref).all (s.allOnCores l.ref).drained)) then
      some (s.matEffect l g c)
    else none)

/-- DRAIN_COMPLETE: every workgroup of a draining launch has been placed, every live fibre is parked or blocked, also where the rotation has saved
it, and its commands have run: every publication that may be is applied, the rest is discarded, and the record is written with status 8 (R294).
DEDUCED, unsafe, log 34. -/
def execDrainComplete (r : LRef) (s : State) : Host.Outcome State Fault Refusal :=
  runAct s (do
    let l ← s.launch? r
    let p ← s.part? l.part
    let s := s.allOnCores r
    let ws := s.wgs.filter fun w => w.ref.launch = r
    if l.draining && !(s.launchFibres r).isEmpty && decide (l.wgCount ≤ l.next) && l.preempt.isNone && (s.launchFibres r).all s.drained
        && (p.faultQ.all fun x => x.srcs.all fun y => srcLaunch y ≠ r)
        && ws.all (fun w => w.mcmds.all (·.done) && s.barsStuck w && !s.canDo (execHarpStall w.ref))
        && !s.canDo (execWaitDeadlock r) && l.ecmds.all (·.done) && l.wdqs.all (fun q => q.done || !s.canDo (execWdqAnswer r q.n))
        && l.icinvs.all (fun v => v.bytes.isSome || !s.canDo (execIcinvApply r v.n))
        && (List.range l.pubs.length).all (fun n => !s.canDo (execPublicationApply r n)) then
      some (s.endLaunch l 8)
    else none)

/-- HOST_ABORT: the host stops every fibre of a draining launch at its next word boundary, and the record is written with status 8 at that
point (R294). DEDUCED, unsafe, log 34. -/
def execHostAbort (r : LRef) (s : State) : Host.Outcome State Fault Refusal :=
  runAct s (do
    let l ← s.launch? r
    if l.draining then some ((s.endLaunch l 8).updP l.part fun p => { p with journal := p.journal ++ [.abort r] }) else none)

end Sys2Proof.Machine
end

