-- ==== Sys2Proof/Machine/Preempt.lean ====
section
/-! DEFINITION. Pre-emption (R301 to R308): the command, the expiry of its
budget, the save of a workgroup, and the restore of a launch. -/

namespace Sys2Proof.Machine

/-! ## The area (R301) -/

/-- The largest image of one workgroup of a launch (R301, R306). DESIGN CHOICE, unsafe, log 36. -/
def Launch.imageMax (l : Launch) : Nat :=
  64 + 64 + 320 * l.warps + 256 * 32 * l.warps + 32 * l.warps * (32 + 4 * l.regs + 48 * 128 + 64 * 63) + 512 + 256 * l.scratch
    + 65540 * l.tiles + objMax

/-! ## The acts (R301 to R305) -/

/-- n bytes at a physical address lie in the partition's granules. -/
def inGranuleRange (p : Partition) (a n : Nat) : Bool :=
  (List.range ((a + n - 1) / 2 ^ 30 - a / 2 ^ 30 + 1)).all fun k => p.granules.contains (a / 2 ^ 30 + k)

/-- Every workgroup of a launch stands in the image, or has no live fibre left and so counts as ended (R302, R305). -/
def State.allSaved (s : State) (l : LRef) : Bool :=
  s.wgs.all fun w => decide (w.ref.launch ≠ l) || w.image.isSome || (s.wgFibres w.ref).isEmpty

/-- The workgroups that have ended since the command, those without a live fibre among them (R305). -/
def State.endedWgs (s : State) (l : LRef) (p : Preempt) : Nat :=
  p.ended + (s.wgs.filter fun w => w.ref.launch = l ∧ w.image.isNone ∧ (s.wgFibres w.ref).isEmpty).length

/-- PRE_EMPT: the launch's fibres stop at their next pre-emption points and its workgroups will be saved into the area, those that the rotation
has saved as they stand; refused when the area is too small. The image of no workgroup is its header. The answer follows once all are saved or
ended (R301, R302, R305, R306). DEDUCED, unsafe, log 37. -/
def execPreEmpt (s : State) : Host.Outcome State Fault Refusal :=
  runMgmt s .preEmpt fun a => withPart s (a 0) fun p =>
    match s.launch? ⟨a 1, a 2⟩ with
    | none => .done 1 [] s
    | some l =>
      let n := (s.wgs.filter fun w => w.ref.launch = l.ref).length * l.imageMax
      if l.part ≠ p.id ∨ ¬ inGranuleRange p (arg64 a 3) (arg64 a 5) then .done 1 [] s
      else match l.preempt with
        | some x => if s.allSaved l.ref then .done 0 [BitVec.ofNat 32 x.saved, BitVec.ofNat 32 (s.endedWgs l.ref x)] s else .wait
        | none =>
          if arg64 a 5 < n then .done 2 [] s
          else
            let t := if arg64 a 5 < 64 then s else { s with mem := memPut s.mem (arg64 a 3) (imageHeader l 0) }
            .go (t.updL l.ref fun y =>
              { y with preempt := some { base := arg64 a 3, len := arg64 a 5, next := arg64 a 3 + 64, expired := decide (a 7 = 0), saved := 0, ended := 0 } })

/-- PREEMPTION_BUDGET_EXPIRY: running fibres stop at their next word boundary (R302). -/
def execPreemptionBudgetExpiry (r : LRef) (s : State) : Host.Outcome State Fault Refusal :=
  runAct s (do
    let l ← s.launch? r
    let p ← l.preempt
    if p.expired || s.allSaved r then none
    else some (s.updL r fun y => { y with preempt := some { p with expired := true } }))

/-- A fibre of a launch being pre-empted has stopped: it stands at a pre-emption point or a word boundary, or is parked, halted or waiting, in a
state of its own or at its word (R302). -/
def stoppedFor (p : Preempt) (f : Fibre) : Bool :=
  let here := f.halted || p.expired || f.live.isSome || f.held.isSome
  match f.st with
  | .enter => here
  | .run => here
  | .tile => here
  | .keyed => here
  | _ => true

/-- WORKGROUP_SAVE: every live fibre is stopped and its arithmetic results are written, or the rotation has saved the workgroup: its record goes
into the image, in ascending linear index, and it leaves its core whole; what it holds stays as it stands (R301, R303 to R306). DESIGN CHOICE,
unsafe, log 36. -/
def execWorkgroupSave (r : WRef) (s : State) : Host.Outcome State Fault Refusal :=
  runAct s (do
    let w ← s.wg? r
    let l ← s.launch? r.launch
    let p ← l.preempt
    let fs := s.wgFibres r
    if w.image.isNone && !fs.isEmpty && (w.core.isNone || fs.all (stoppedFor p)) && s.resultsIn r
        && s.wgs.all (fun x => decide (x.ref.launch ≠ r.launch ∨ r.wg ≤ x.ref.wg) || x.image.isSome || (s.wgFibres x.ref).isEmpty) then
      let bs := s.wgRecord l w
      let t := { s with mem := memPut (memPut s.mem p.next bs) p.base (imageHeader l (p.saved + 1)) }
      let t := t.updW r fun x => { x with core := none, image := some p.next, saved := s.objBytes l w }
      some (t.updL r.launch fun y => { y with preempt := some { p with next := p.next + bs.length, saved := p.saved + 1 } })
    else none)

/-! ## Restoring (R308) -/

/-- Saved workgroups return to cores where they fit now, a gang's to one quad; otherwise they wait for one as workgroups saved by the rotation do
(R8, R12, R308). -/
def State.seatSaved (p : Partition) (l : Launch) (s : State) (ws : List Workgroup) : State :=
  match s.gangCores p l ws.length, l.gang, ws with
  | some ks, true, _ => (ws.zip ks).foldl (fun t x => match x.2 with
      | some k => t.putOnCore l x.1.ref k
      | none => t) s
  | _, false, [w] => match s.returnCore p l w with
    | some k => s.putOnCore l w.ref k
    | none => s
  | _, _, _ => s

/-- The groups of saved workgroups that return together: a gang's, or each alone (R12). -/
def Launch.together (l : Launch) (ws : List Workgroup) : List (List Workgroup) :=
  if l.gang then ((ws.map fun w => w.ref.wg / 4).eraseDups).map fun g => ws.filter fun w => w.ref.wg / 4 = g else ws.map fun w => [w]

/-- Each record of the image at base b is written back, and no fibre is held at its word any more (R308). -/
def State.readImage (s : State) (l : Launch) (x : Preempt) (b : Nat) (ws : List Workgroup) : State :=
  let t := ws.foldl (fun t w => match w.image with
    | some a => t.readRecord l w (b + (a - x.base))
    | none => t) s
  { t with fibres := t.fibres.map (fun (f : Fibre) => if f.ref.wref.launch = l.ref then { f with live := none, held := none } else f),
           wgs := t.wgs.map fun w => if w.ref.launch = l.ref then { w with image := none, saved := [] } else w }

/-- Some act that only a missing atomic reply may need can still be made: an atomic of the launch, or a publication or command of it (R308).
DESIGN CHOICE, unsafe, log 36. -/
def State.repliesDue (s : State) (l : Launch) : Bool :=
  let fs := (s.launchFibres l.ref).filter fun f => (atomOf f).isSome && match f.st with
    | .atom _ => true
    | _ => false
  !fs.isEmpty && (fs.any (fun f => s.canDo (execAtomicPerform f.ref))
    || (List.range l.pubs.length).any (fun n => s.canDo (execPublicationApply l.ref n)) || l.ecmds.any fun c => s.canDo (execEngineCommandExecute l.ref c.n))

/-- RESTORE_LAUNCH: the image header at the base names a saved launch of the partition, whose recorded state is written back from the image, once
no atomic's reply is still to come: its fibres go on where they stopped, tokens clear, outstanding loads made again, waits continued without
repeating what is done (R304, R308). DESIGN CHOICE, unsafe, log 36. -/
def execRestoreLaunch (s : State) : Host.Outcome State Fault Refusal :=
  runMgmt s .restoreLaunch fun a => withPart s (a 0) fun p =>
    let b := arg64 a 1
    let h := memNat s.mem b 64
    match s.launch? ⟨bits h 95 88, bits h 127 96⟩ with
    | none => .done 1 [] s
    | some l =>
      let mine := s.wgs.filter fun w => w.ref.launch = l.ref ∧ ¬ (s.wgFibres w.ref).isEmpty
      match l.preempt with
      | none => .done 1 [] s
      | some x =>
        if l.part ≠ p.id ∨ ¬ inGranuleRange p b 64 ∨ bits h 31 16 ≠ 1 ∨ bits h 87 84 ≠ l.ctx ∨ bits h 63 32 ≠ mine.length
            ∨ ¬ mine.all (fun w => match w.image with
              | some n => inGranuleRange p (b + (n - x.base)) (s.recordLen (b + (n - x.base))) && s.objectsKept w (b + (n - x.base))
              | none => false) then .done 1 [] s
        else if s.repliesDue l then .wait
        else
          let l' := { l with preempt := none }
          .done 0 [] ((l.together mine).foldl (State.seatSaved p l') ((s.updL l.ref fun y => { y with preempt := none }).readImage l' x b mine))

end Sys2Proof.Machine
end

