-- ==== Sys2Proof/Machine/Commands.lean ====
section
/-! DEFINITION. Management commands on partitions, granules, contexts, tables, extents, queues, ports and limits (R49, R50, R265,
R267, R270, R276, R279, R283, R284, R353, R357, R347). -/

namespace Sys2Proof.Machine

/-! ## Partitions (R265, R267, R279) -/

/-- A partition just created: counters, mailbox, rings and lists clear (R265, R349). DESIGN CHOICE, unsafe, log 5. -/
def newPartition (p : Nat) (quads : List Nat) : Partition :=
  { id := p, quads := quads, granules := [], ctxs := [], counters := List.replicate 32 0, mbox := List.replicate 64 0, attached := false,
    brks := [], watches := [], events := [], rings := List.replicate 5 Ring.reset, ansBad := false, dbgBusy := none,
    dbgCmd := [], dbgBegun := false, dbgXfer := [], faultQ := [],
    writes := [], notifies := 0, accs := 0, order := [], journal := [], nextStep := 1, marks := 0, timerDue := false, timerMs := 0,
    stepCount := 0, dualRun := false, mark := none, slots := [], snaps := [], replay := none, digests := [], ran := [], records := [], owed := [], powerLimit := 0,
    throttle := 0, dead := false, stopped := false, msgs := [], rot := [], press := [] }

/-- The vaults of physical quads are written to zero; a quad's other stores start at their reset values with each workgroup
(R17, R265). -/
def zeroQuads (m : Memory) (qs : List Nat) : Memory := qs.foldl (fun m q => memZero m (2 ^ 52 + q * 2 ^ 28) (2 ^ 28)) m

/-- A key slot loaded with a pair fresh from the random source of the root-of-trust core: its generation rises (R279). DESIGN CHOICE, safe, log
60. -/
def loadSlot (ks : List KeySlot) (p : Nat) : List KeySlot :=
  let g := (ks.getD p { loaded := false, gen := 0 }).gen + 1
  setAt ks p { loaded := true, gen := g, pair := Config.keyPair p g.toNat }

/-- A key slot erased; its generation counter stands (R267, R279). -/
def eraseSlot (ks : List KeySlot) (p : Nat) : List KeySlot :=
  setAt ks p { loaded := false, gen := (ks.getD p { loaded := false, gen := 0 }).gen, pair := 0 }

/-- CREATE_PARTITION (R265, R358): ARG0 P, ARG1 the number of quads; the list stands in the transfer area. -/
def execCreatePartition (s : State) : Host.Outcome State Fault Refusal :=
  runMgmt s .createPartition fun a =>
    let p := a 0
    let n := a 1
    let qs := (s.xferBytes 0 n).map (·.toNat)
    if 63 < p ∨ n = 0 ∨ 64 < n ∨ qs.any (fun q => decide (63 < q)) then .done 1 [] s
    else if s.boot.released < 6 ∨ (s.part? p).isSome ∨ qs.eraseDups.length < qs.length
        ∨ s.parts.any (fun x => x.quads.any qs.contains) then .done 2 [] s
    else .done 0 [] { s with parts := s.parts ++ [newPartition p qs], mem := zeroQuads s.mem qs, keySlots := loadSlot s.keySlots p }

/-- Granules written to zero. -/
def zeroGranules (m : Memory) (gs : List Nat) : Memory := gs.foldl (fun m g => memZero m (g * 2 ^ 30) (2 ^ 30)) m

/-- DESTROY_PARTITION (R267): it completes once every launch of P has ended and every queue of P is deconfigured. -/
def execDestroyPartition (s : State) : Host.Outcome State Fault Refusal :=
  runMgmt s .destroyPartition fun a => withPart s (a 0) fun p =>
    if s.launches.any (fun l => l.part = p.id) || s.queues.any (fun q => decide (q.part = some p.id) && q.en) then .wait
    else .done 0 []
      { s with parts := s.parts.filter fun x => x.id ≠ p.id, mem := zeroGranules (zeroQuads s.mem p.quads) (p.granules ++ p.slots),
               keySlots := eraseSlot s.keySlots p.id,
               queues := s.queues.map fun q => if q.part = some p.id then Queue.reset q.id else q,
               ports := s.ports.map fun x => if x.part = some p.id then { x with part := none } else x }

/-- A granule is in use by some partition, for memory or snapshots. -/
def State.granuleTaken (s : State) (g : Nat) : Bool := s.parts.any fun p => p.granules.contains g || p.slots.contains g

/-- A partition with one more granule: it takes the place of the first retired one that is to be replaced, be it for memory or for snapshots, else
it is appended (R317, R343).
DEDUCED, unsafe, log 42. -/
def Partition.granted (p : Partition) (g : Nat) : Partition :=
  match p.owed with
  | [] => { p with granules := p.granules ++ [g] }
  | r :: rest =>
    let put := fun (xs : List Nat) => xs.map fun x => if x = r then g else x
    { p with granules := put p.granules, slots := put p.slots, owed := rest,
             replaced := if p.granules.contains r then p.replaced ++ [(r, g)] else p.replaced }

/-- GRANT_GRANULE (R270, R317, R343): ARG1 a physical granule; it is appended to the partition's order, or replaces a retired one. DEDUCED,
unsafe, log 37; DEDUCED, unsafe, log 42. -/
def execGrantGranule (s : State) : Host.Outcome State Fault Refusal :=
  runMgmt s .grantGranule fun a => withPart s (a 0) fun p =>
    if 767 < a 1 then .done 1 [] s
    else if s.granuleTaken (a 1) || s.retired.contains (a 1) then .done 2 [] s
    else .done 0 [] (s.updP p.id fun x => x.granted (a 1))

/-! ## Contexts (R49, R50, R75, R270) -/

/-- CREATE_CONTEXT (R270, R284): ARG1 id, ARG2 and ARG3 root, ARG4 residency quota. -/
def execCreateContext (s : State) : Host.Outcome State Fault Refusal :=
  runMgmt s .createContext fun a => withPart s (a 0) fun p =>
    let root := arg64 a 2
    if 15 < a 1 ∨ root % 4096 ≠ 0 ∨ 2 ^ 52 ≤ root then .done 1 [] s
    else if (p.ctx? (a 1)).isSome || !inGranules p root then .done 2 [] s
    else
      let c : Context := { id := a 1, root := root, quota := a 4, dtab := .native, descs := [], extents := [], pins := [], newDtab := none,
                           newDescs := none, held := [] }
      .done 0 [] (s.updP p.id fun x => { x with ctxs := x.ctxs ++ [c] })

/-- The numbers of a context's extents (R283). -/
def Context.extentNos (c : Context) : List Nat := c.extents.flatMap fun x => (List.range x.2).map fun k => x.1 + k

/-- A launch of a context is running. -/
def State.ctxRuns (s : State) (p c : Nat) : Bool := s.launches.any fun l => l.part = p ∧ l.ctx = c

/-- DESTROY_CONTEXT (R283, R318, R347): refused while a queue or a launch of the context exists; its extents are freed and written to zero, in
replay too. -/
def execDestroyContext (s : State) : Host.Outcome State Fault Refusal :=
  runMgmt s .destroyContext fun a => withCtx s (a 0) (a 1) fun p c =>
    if s.ctxRuns p.id c.id || s.queues.any (fun q => decide (q.part = some p.id ∧ q.ctx = c.id) && q.en) then .done 2 [] s
    else
      let js := if c.extentNos.isEmpty then [] else [JRec.extents (p.accs + 1) c.id [] c.extentNos]
      .done 0 [] { s.updP p.id fun x => { x with ctxs := x.ctxs.filter (fun y => y.id ≠ c.id), journal := x.journal ++ js } with
        mem := zeroExtents s.mem p c.extentNos }

/-- Entry i of a decode table is legal (R49, R50). -/
def dtabEntryOk (i : Nat) (w : Word) : Bool :=
  decide (bits w.toNat 30 10 = 0) &&
    (!w.msb || (isNativeOp (w.toNat % 1024) && decide (clsOf (w.toNat % 1024) = clsOf i) && (clsOf i).isSome))

/-- LOAD_DECODE_TABLE (R49, R50): the 4 KiB table in the transfer area, from the context's next launch boundary on. -/
def execLoadDecodeTable (s : State) : Host.Outcome State Fault Refusal :=
  runMgmt s .loadDecodeTable fun a => withCtx s (a 0) (a 1) fun p c =>
    let ws := wordsOfBytes (s.xferBytes 0 4096)
    if ((List.range 1024).zip ws).all fun x => dtabEntryOk x.1 x.2 then
      .done 0 [] (s.updP p.id fun x => x.updC c.id fun y => { y with newDtab := some (.loaded ws) })
    else .done 2 [] s

/-- LOAD_DESCRIPTORS (R75, R347): ARG2 the first entry, ARG3 the count; from the context's next launch boundary on. -/
def execLoadDescriptors (s : State) : Host.Outcome State Fault Refusal :=
  runMgmt s .loadDescriptors fun a => withCtx s (a 0) (a 1) fun p c =>
    if 255 < a 2 ∨ a 3 = 0 ∨ 256 < a 2 + a 3 then .done 1 [] s
    else .done 0 [] (s.updP p.id fun x => x.updC c.id fun y =>
      { y with newDescs := some (memPut (y.newDescs.getD y.descs) (64 * a 2) (s.xferBytes 0 (64 * a 3))) })

/-! ## Extents (R283) -/

/-- The acceptance at whose boundary an Add, a Move or an allocation of a context is applied in replay: that of its oldest running launch, or the
next one (R318, R319). -/
def State.recAcc (s : State) (p : Partition) (c : Nat) : Nat :=
  (s.launches.filter fun l => l.part = p.id ∧ l.ctx = c).foldl (fun n l => min n l.acc) (p.accs + 1)

/-- The extents that journalled records of a replay have still to add to a context, by context (R319). -/
def Partition.extentsDue (p : Partition) : List (Nat × Nat) :=
  match p.replay with
  | none => []
  | some r => r.recs.flatMap fun x => match x with
    | .extents _ c add _ => add.map fun k => (c, k)
    | _ => []

/-- The extents that a held FREE_EXTENTS of a context will free (R276, R283). -/
def Context.freeing (c : Context) : List Nat := c.held.flatMap fun h => h.frees.flatMap fun x => (List.range x.2).map fun k => x.1 + k

/-- The extents that a command names: ARG2 the logical vault, ARG3 the first one, ARG4 the count. -/
def extentArgs (a : Nat → Nat) : List Nat := (List.range (a 4)).map fun k => 128 * a 2 + a 3 + k

/-- ALLOCATE_EXTENTS (R283, R284): ARG2 the logical vault, ARG3 the first extent, ARG4 the count; pins that the smaller cache cannot hold are
demoted. -/
def execAllocateExtents (s : State) : Host.Outcome State Fault Refusal :=
  runMgmt s .allocateExtents fun a => withCtx s (a 0) (a 1) fun p c =>
    let new := extentArgs a
    if p.quads.length ≤ a 2 ∨ 115 < a 3 ∨ a 4 = 0 then .done 1 [] s
    else if 116 < a 3 + a 4 ∨ new.any (fun k => (p.ctxs.any fun y => inExtents y (k * 2 ^ 21)) || p.extentsDue.any fun x => x.2 = k) then .done 2 [] s
    else .done 0 [] ((s.updP p.id fun x =>
      { x.updC c.id (fun y => y.setExtents new []) with journal := x.journal ++ [.extents (s.recAcc p c.id) c.id new []] }).refitPins p.id)

/-- FREE_EXTENTS (R276, R283): held as a Restrict update; extents that are being freed already are refused. DEDUCED, unsafe, log 38. -/
def execFreeExtents (s : State) : Host.Outcome State Fault Refusal :=
  runMgmt s .freeExtents fun a => withCtx s (a 0) (a 1) fun p c =>
    if p.quads.length ≤ a 2 ∨ 115 < a 3 ∨ a 4 = 0 ∨ 116 < a 3 + a 4 then .done 1 [] s
    else if (extentArgs a).any fun k => !(inExtents c (k * 2 ^ 21) || p.extentsDue.contains (c.id, k)) || c.freeing.contains k then .done 2 [] s
    else .done 0 [] (s.updP p.id fun x => x.updC c.id fun y => { y with held := y.held ++ [⟨[], [(128 * a 2 + a 3, a 4)]⟩] })

/-! ## Page-table updates (R276) -/

/-- The pairs of a page-table update in the transfer area: the physical address of an entry, and its new value. -/
def State.ptPairs (s : State) (n : Nat) : List (Nat × BitVec 64) :=
  (List.range n).map fun k => (ofBytes (s.xferBytes (16 * k) 8), BitVec.ofNat 64 (ofBytes (s.xferBytes (16 * k + 8) 8)))

/-- Writes entries into the tables. -/
def writeEntries (m : Memory) (es : List (Nat × BitVec 64)) : Memory := es.foldl (fun m e => memPutNat m e.1 8 e.2.toNat) m

/-- Bytes that an entry of a level maps (R271, R274). -/
def spanOf (lvl : Nat) : Nat := 2 ^ (16 + 9 * lvl)

/-- The level and the virtual address of the entry at physical address ea in the tables below t, whose first address is va, among those that
meet the range [lo, hi); none where it is no such entry (R271 to R273). -/
def findEntry (m : Memory) (p : Partition) (ea lo hi : Nat) : List Nat → Nat → Nat → Option (Nat × Nat)
  | [], _, _ => none
  | lvl :: rest, t, va =>
    let n := if lvl = 4 then 32 else 512
    let at_ := fun (i : Nat) => va + i * spanOf lvl
    let meets := fun (i : Nat) => decide (at_ i < hi ∧ lo < at_ i + spanOf lvl)
    if t ≤ ea ∧ ea < t + 8 * n then (if meets ((ea - t) / 8) then some (lvl, at_ ((ea - t) / 8)) else none)
    else (List.range n).findSome? fun i =>
      let e := memNat m (t + 8 * i) 8
      if meets i && decide (e % 4 = 1) && inGranules p (bits e 51 12 * 2 ^ 12) then findEntry m p ea lo hi rest (bits e 51 12 * 2 ^ 12) (at_ i) else none

/-- The arguments of an update are in range (R347). -/
def ptArgsOk (a : Nat → Nat) : Bool := decide (arg64 a 3 % 65536 = 0 ∧ 0 < a 5 ∧ 0 < a 6 ∧ a 6 ≤ 1024)

/-- The level and the address of an entry that an update of a context names: it lies in the context's tables, as they stand or as the update leaves
them, in the partition's granules, and maps addresses of the named range; a page that it maps, before or after, lies in the range (R270, R276).
DEDUCED, unsafe, log 38. -/
def State.ptEntry (s : State) (p : Partition) (c : Context) (a : Nat → Nat) (es : List (Nat × BitVec 64)) (e : Nat × BitVec 64) : Option (Nat × Nat) := do
  let lo := arg64 a 3 % 2 ^ 57
  let hi := lo + a 5 * 65536
  let find := fun (m : Memory) => findEntry m p e.1 lo hi [4, 3, 2, 1, 0] c.root 0
  let x ← match find s.mem with
    | some x => some x
    | none => find (writeEntries s.mem es)
  let leaf := fun (v : Nat) => decide (v % 4 = 3 ∧ (x.2 < lo ∨ hi < x.2 + spanOf x.1))
  if decide (e.1 % 8 ≠ 0) || !inGranules p e.1 || leaf e.2.toNat || leaf (memNat s.mem e.1 8) then none else some x

/-- An answer for an update of a context whose arguments and entries are in order, else status 1. -/
def withTables (s : State) (k : (Nat → Nat) → Partition → Context → List (Nat × BitVec 64) → Answer) (a : Nat → Nat) : Answer :=
  withCtx s (a 0) (a 1) fun p c =>
    let es := s.ptPairs (a 6)
    if ptArgsOk a && es.all fun e => (s.ptEntry p c a es e).isSome then k a p c es else .done 1 [] s

/-- The context's tables have been changed: the journal says so, and digests of its code are computed again (R262, R318). -/
def Partition.tablesChanged (p : Partition) (c : Nat) (js : List JRec) : Partition := { p.codeMoved c with journal := p.journal ++ js }

/-- PAGE_TABLE_ADD (R276): entries that were invalid become valid, at once. DEDUCED, unsafe, log 38. -/
def execPageTableAdd (s : State) : Host.Outcome State Fault Refusal :=
  runMgmt s .pageTableAdd (withTables s fun _ p c es =>
    if es.any fun e => decide (memNat s.mem e.1 8 % 2 = 1) || !e.2.getLsbD 0 then .done 2 [] s
    else .done 0 [] { s.updP p.id fun x => x.tablesChanged c.id [.table (s.recAcc p c.id) c.id es none false] with mem := writeEntries s.mem es })

/-- An entry with its `ADDR` set to another frame (R272). -/
def withFrame (e frame : Nat) : Nat := e - bits e 51 12 * 2 ^ 12 + frame

/-- The physical frame of a leaf entry (R272, R282). -/
def frameOf (p : Partition) (e : Nat) : Nat :=
  if bits e 7 6 = 1 then vaultAddr p (bits e 51 12 * 2 ^ 12) else bits e 51 12 * 2 ^ 12

/-- What of a page goes to another frame: from, to, and how many bytes (R276). -/
structure FrameMove where
  src : Nat
  dst : Nat
  len : Nat
  deriving DecidableEq, Repr

/-- A physical address after a move. -/
def FrameMove.addr (x : FrameMove) (a : Nat) : Nat := if x.src ≤ a ∧ a < x.src + x.len then x.dst + (a - x.src) else a

/-- A location after a move. -/
def FrameMove.loc (x : FrameMove) : Loc → Loc
  | .phys a => .phys (x.addr a)
  | y => y

/-- A read context after a move. -/
def FrameMove.rd (x : FrameMove) (r : Rd) : Rd := { r with own := r.own.map fun y => (x.loc y.1, y.2) }

/-- A fibre after a move: its pending stores, its own latest publication, its outstanding results, and its atomic follow the page. -/
def FrameMove.fibre (x : FrameMove) (f : Fibre) : Fibre :=
  let atom := fun (a : AtomReq) => { a with locs := a.locs.map x.loc }
  { f with pend := f.pend.map (fun b => { b with loc := x.loc b.loc }), ownPub := f.ownPub.map (fun y => (x.loc y.1, y.2)),
           outs := f.outs.map (fun o => { o with rd := x.rd o.rd, locs := o.locs.map x.loc }),
           st := match f.st with
             | .turn t (.atom a) => .turn t (.atom (atom a))
             | .atom a => .atom (atom a)
             | y => y }

/-- A launch after a move: the initial bytes it overwrote, its publications, and its commands follow the page. -/
def FrameMove.launch (x : FrameMove) (l : Launch) : Launch :=
  { l with old := l.old.map (fun y => (x.addr y.1, y.2)), pubs := l.pubs.map (fun p => { p with bytes := p.bytes.map fun b => { b with loc := x.loc b.loc } }),
           ecmds := l.ecmds.map (fun c => { c with rd := x.rd c.rd }), icinvs := l.icinvs.map fun v => { v with rd := x.rd v.rd } }

/-- The state after a page of a context has gone to another frame: what its running launches hold of the page follows it (R276). DEDUCED, unsafe,
log 38. -/
def State.moveFrame (s : State) (p c : Nat) (x : FrameMove) : State :=
  let mine := fun (r : LRef) => s.launches.any fun l => decide (l.ref = r ∧ l.part = p ∧ l.ctx = c)
  let t := { s with mem := memCopy s.mem x.src x.dst x.len,
                    launches := s.launches.map (fun (l : Launch) => if mine l.ref then x.launch l else l),
                    wgs := s.wgs.map (fun (w : Workgroup) => if mine w.ref.launch then { w with mcmds := w.mcmds.map fun (m : MCmd) => { m with rd := x.rd m.rd } } else w),
                    fibres := s.fibres.map fun (f : Fibre) => if mine f.ref.wref.launch then x.fibre f else f }
  t.updP p fun y => y.updC c fun z => { z with pins := z.pins.map fun (q : Pinned) => { q with phys := x.addr (q.phys * 512) / 512 } }

/-- What an entry of a Move does: the page at virtual address va goes to the new frame at its own place in the range; none where it is no valid
page, its new entry differs in more than its frame, the frame is not aligned to the page, or lies outside the partition's granules or the context's
extents, or meets the old one (R272, R273, R276). DEDUCED, unsafe, log 38. -/
def State.moveOf (s : State) (p : Partition) (c : Context) (a : Nat → Nat) (x : Nat × Nat) (e : Nat × BitVec 64) : Option FrameMove :=
  let old := memNat s.mem e.1 8
  let size := spanOf x.1
  let to_ := arg64 a 7 + (x.2 - arg64 a 3 % 2 ^ 57)
  let src := frameOf p old
  let dst := frameOf p e.2.toNat
  let inside := if bits old 7 6 = 1 then (List.range (size / 65536)).all fun k => inExtents c (to_ + 65536 * k)
    else inGranuleRange p to_ size
  if old % 4 = 3 ∧ bits old 7 6 ≤ 1 ∧ e.2.toNat = withFrame old to_ ∧ to_ % size = 0 ∧ to_ < 2 ^ 52 ∧ inside = true ∧ (dst + size ≤ src ∨ src + size ≤ dst) then
    some ⟨src, dst, size⟩ else none

/-- What the tables below t use of physical memory: each table, and each page that they map, by first byte and length (R271 to R273). -/
def usedFrames (m : Memory) (p : Partition) : List Nat → Nat → List (Nat × Nat)
  | [], _ => []
  | lvl :: rest, t =>
    let n := if lvl = 4 then 32 else 512
    (t, 8 * n) :: (List.range n).flatMap fun i =>
      let e := memNat m (t + 8 * i) 8
      if e % 2 = 0 then [] else if e / 2 % 2 = 1 then [(frameOf p e, spanOf lvl)] else usedFrames m p rest (bits e 51 12 * 2 ^ 12)

/-- Two stretches of memory do not meet. -/
def apart (a b : Nat × Nat) : Bool := decide (a.1 + a.2 ≤ b.1 ∨ b.1 + b.2 ≤ a.1)

/-- The new frames of a Move are free: no table of the partition lies in them, none of its contexts maps them, and no two of them meet; another use
of a frame is for a Restrict (R276). DEDUCED, unsafe, log 38. -/
def State.framesFree (s : State) (p : Partition) : List FrameMove → Bool
  | [] => true
  | x :: r => ((p.ctxs.flatMap fun c => usedFrames s.mem p [4, 3, 2, 1, 0] c.root) ++ r.map fun y => (y.dst, y.len)).all (apart (x.dst, x.len))
      && s.framesFree p r

/-- PAGE_TABLE_MOVE (R276, R279): leaves of the range get new frames, which are free, and into which the device copies the old ones. Memory being
plain in the model, to encrypt it again changes nothing. DEDUCED, unsafe, log 38. -/
def execPageTableMove (s : State) : Host.Outcome State Fault Refusal :=
  runMgmt s .pageTableMove (withTables s fun a p c es =>
    match es.mapM fun e => (s.ptEntry p c a es e).bind fun x => s.moveOf p c a x e with
    | none => .done 2 [] s
    | some ms =>
      if !s.framesFree p ms then .done 2 [] s
      else
      let js := (es.zip ms).map fun y => JRec.table (s.recAcc p c.id) c.id [y.1] (some (y.2.src, y.2.dst, y.2.len)) false
      let t := ms.foldl (fun t x => t.moveFrame p.id c.id x) s
      .done 0 [] { t.updP p.id fun x => x.tablesChanged c.id js with mem := writeEntries t.mem es })

/-- PAGE_TABLE_RESTRICT (R276): any other change, held until no launch of the context is running. DEDUCED, unsafe, log 38. -/
def execPageTableRestrict (s : State) : Host.Outcome State Fault Refusal :=
  runMgmt s .pageTableRestrict (withTables s fun _ p c es =>
    .done 0 [] (s.updP p.id fun x => x.updC c.id fun y => { y with held := y.held ++ [⟨es, []⟩] }))

/-- RESTRICT_TAKES_EFFECT: the oldest held Restrict update of a context takes effect, no launch of it running; freed extents are written to zero
(R276, R283). DEDUCED, unsafe, log 38. -/
def execRestrictTakesEffect (n c : Nat) (s : State) : Host.Outcome State Fault Refusal :=
  runAct s (do
    let p ← s.part? n
    let x ← p.ctx? c
    let h ← x.held.head?
    if s.ctxRuns n c || p.stopped || p.replaying then none
    else
      let freed := { x with held := [h] }.freeing
      let js := (if h.entries.isEmpty then [] else [JRec.table (p.accs + 1) c h.entries none true])
        ++ (if freed.isEmpty then [] else [JRec.extents (p.accs + 1) c [] freed])
      let t := s.updP n fun y => (y.updC c fun z => { z.setExtents [] freed with held := z.held.tail }).tablesChanged c js
      some { t with mem := zeroExtents (writeEntries s.mem h.entries) p freed })

/-! ## Queues, ports and limits (R231, R284, R353, R357) -/

/-- ASSIGN_QUEUE (R231, R347): refused while the queue belongs to another partition. -/
def execAssignQueue (s : State) : Host.Outcome State Fault Refusal :=
  runMgmt s .assignQueue fun a => withPart s (a 0) fun p =>
    match s.queue? (a 1) with
    | none => .done 1 [] s
    | some q => match q.part with
      | none => .done 0 [] (s.updQ q.id fun x => { x with part := some p.id })
      | some n => if n = p.id then .done 0 [] s else .done 2 [] s

/-- BIND_PORT (R353): ARG0 the link, ARG1 a partition, or 0xFF to unbind. -/
def execBindPort (s : State) : Host.Outcome State Fault Refusal :=
  runMgmt s .bindPort fun a =>
    if 13 < a 0 ∨ (a 1 ≠ 0xFF ∧ (s.part? (a 1)).isNone) then .done 1 [] s
    else
      let ps := s.ports.map fun (x : Port) => if x.link = a 0 then { x with part := if a 1 = 0xFF then none else some (a 1) } else x
      .done 0 [] { s with ports := ps }

/-- SET_POWER_LIMIT (R357): ARG1 watts, 0 for none. -/
def execSetPowerLimit (s : State) : Host.Outcome State Fault Refusal :=
  runMgmt s .setPowerLimit fun a => withPart s (a 0) fun p => .done 0 [] (s.updP p.id fun x => { x with powerLimit := a 1 })

/-- SET_RESIDENCY_QUOTA (R284): ARG2 superblocks; pins beyond it are demoted. -/
def execSetResidencyQuota (s : State) : Host.Outcome State Fault Refusal :=
  runMgmt s .setResidencyQuota fun a => withCtx s (a 0) (a 1) fun p c =>
    .done 0 [] ((s.updP p.id fun x => x.updC c.id fun y => { y with quota := a 2 }).refitPins p.id)

end Sys2Proof.Machine
end

