-- ==== Sys2Proof/Machine/Recovery.lean ====
section
/-! DEFINITION. Errors, the authority and recovery (R249, R309 to R313, R317 to R320, R327 to R329): counting, decisions and
their health records, fences, rollback and replay. -/

namespace Sys2Proof.Machine

/-! ## Affected partitions (R309, R313) -/

/-- The partition holds the unit: a core, a vault bank, a pseudo-channel by its two granules, for memory or for snapshots, or a quad (R309, R313).
DEDUCED, unsafe, log 42. -/
def holdsUnit (p : Partition) (u : UnitId) : Bool :=
  match u.utype with
  | 0 => p.quads.contains (u.unit / 4)
  | 1 => p.quads.contains (u.unit / 16)
  | 2 => (p.granules ++ p.slots).any fun g => g / 2 = u.unit
  | 4 => p.quads.contains u.unit
  | _ => false

/-- Traffic of several partitions may cross a unit of the type: a link, the router of a quad, a firmware processor. Cores, vault banks and the
channels that hold a partition's granules are its own (R268, R269, R309). DEDUCED, unsafe, log 42. -/
def crossable (utype : Nat) : Bool := utype = 3 || utype = 4 || utype = 5

/-- The partitions that an event in a unit affects: those that hold it, and those whose traffic has crossed it since its last audit
(R269, R313). DEDUCED, unsafe, log 42. -/
def State.affected (s : State) (u : UnitId) : List Nat :=
  (s.parts.filter fun p => holdsUnit p u || (crossable u.utype && Config.crossed s.tick p.id u.utype u.unit)).map (·.id)

/-! ## Decisions (R312) -/

/-- No rollback, in a health record's `STEP` (R312). -/
def noStep : BitVec 64 := 0xFFFFFFFFFFFFFFFF#64

/-- The newest complete snapshot of a partition (R315). DEDUCED, unsafe, log 39. -/
def Partition.newest (p : Partition) : Option Snapshot :=
  (p.snaps.filter (·.complete)).foldl (fun b x => match b with
    | none => some x
    | some y => if y.step < x.step then some x else some y) none

/-- The step that a rollback restores; 0 before any snapshot. Of a record that names several partitions, whose newest steps may differ, the spec does
not say which one it carries: it is that of the first. DESIGN CHOICE, unsafe, log 42. -/
def State.stepOf (s : State) (ps : List Nat) : BitVec 64 :=
  match ps.head?.bind s.part? with
  | none => noStep
  | some p => BitVec.ofNat 64 ((p.newest.map (·.step)).getD 0)

/-- The bits of a set of partitions. -/
def partBits (ps : List Nat) : BitVec 64 := ps.foldl (fun b p => b ||| BitVec.ofNat 64 (2 ^ p)) 0

/-- A partition's cores stop at once; what its engines, arrays and links were doing is discarded; tags of unanswered entries stay in use (R319,
R350). -/
def State.stopPart (s : State) (n : Nat) : State :=
  let gone := (s.launches.filter fun l => l.part = n).map (·.ref)
  let t := { s with launches := s.launches.filter fun l => l.part ≠ n, wgs := s.wgs.filter fun w => !gone.contains w.ref.launch,
                    warps := s.warps.filter fun v => !gone.contains v.wref.launch,
                    fibres := s.fibres.filter fun f => !gone.contains f.ref.wref.launch }
  t.updP n fun p => { p.keepTags (s.fibres.filter fun f => gone.contains f.ref.wref.launch) with
    stopped := true, faultQ := [], faultTags := p.faultTags ++ p.faultQ.filterMap (·.tag) }

/-- The authority decides: its decision waits to be posted, and partitions to be rolled back stop at once (R312, R319). -/
def State.rule (s : State) (d : Decision) : State :=
  { (d.rollbacks ++ d.deads).foldl State.stopPart s with mgmt := { s.mgmt with held := s.mgmt.held ++ [d] } }

/-- The counts of a structure in its window. -/
def State.errOf (s : State) (u : UnitId) : ErrCount := (s.errs.find? fun e => e.u = u).getD ⟨u, 0, 0, 0⟩

/-- Replaces the counts of a structure. -/
def State.setErr (s : State) (e : ErrCount) : State := { s with errs := e :: s.errs.filter fun x => x.u ≠ e.u }

/-- A health record about a unit (R312). action: bit 0 rollback, 1 fence, 2 save and move, 3 waiting for the host. -/
def State.record (s : State) (u : UnitId) (event action : Nat) (ps : List Nat) : HealthRec :=
  { parts := partBits ps, step := if action % 2 = 1 then s.stepOf ps else noStep, unit := u.unit, utype := u.utype, event := event,
    action := action, corr := (s.errOf u).corr, unc := (s.errOf u).unc }

/-- A partition is declared unrecoverable (R328). -/
def State.declareDead (s : State) (u : UnitId) (ps : List Nat) : State :=
  s.rule { record := s.record u 8 0 ps, fences := [], rollbacks := [], deads := ps }

/-- A unit that is a fence unit: every one but the root-of-trust core; a firmware processor is restarted in place of being taken out of service
(R309, R310). -/
def fenceable (u : UnitId) : Bool := decide (u.utype ≤ 5)

/-- A lasting corrected fault: the unit is fenced without rollback; work on cores is saved and moved (R310, R317). -/
def State.lastingCorrected (s : State) (u : UnitId) : State :=
  let act := if fenceable u then (if u.utype = 0 ∨ u.utype = 4 then 6 else 2) else 0
  s.rule { record := s.record u 1 act (s.affected u), fences := if fenceable u then [u] else [], rollbacks := [], deads := [] }

/-- A recovery event: every affected partition is rolled back (R311, R313). -/
def State.recover (s : State) (u : UnitId) (event : Nat) (fence : Bool) : State :=
  let ps := s.affected u
  let f := fence && fenceable u
  s.rule { record := s.record u event ((if ps.isEmpty then 0 else 1) + (if f then 2 else 0) + (if f ∧ u.utype = 2 then 8 else 0)) ps,
             fences := if f then [u] else [], rollbacks := ps, deads := [] }

/-- The image, counted from 0, that a firmware processor runs: processors 4 to 7 run the fifth, and processor 8 the sixth (R358). -/
def imageOf (proc : Nat) : Nat := if proc ≤ 3 then proc else if proc ≤ 7 then 4 else 5

/-- A firmware processor restarts from its released image (R309). -/
def Boot.restart (b : Boot) (proc : Nat) : Boot := { b with restarts := proc :: b.restarts }

/-- The restarted root-of-trust core measures every released image, and restarts the processors whose image no longer matches the record kept (R309,
R329). -/
def State.checkImages (s : State) : State :=
  let bad := (List.range 9).filter fun k =>
    decide (imageOf k < s.boot.digests.length ∧ toBytes 32 (Config.measured s.tick k).toNat ≠ s.boot.digests.getD (imageOf k) [])
  { s with boot := { s.boot with restarts := bad ++ s.boot.restarts } }

/-- A fault of the root-of-trust core: the first in a window rolls every partition back; the second ends them all. Key slots, released images and
the record of their measurements stay; the images are checked (R328, R329). -/
def State.rotFault (s : State) : State :=
  let u : UnitId := ⟨6, 0, 0⟩
  let e := s.errOf u
  let t := (s.setErr { e with unc := e.unc + 1 }).checkImages
  let ps := s.parts.map (·.id)
  if 0 < e.unc then { t.declareDead u ps with rotDead := true }
  else t.rule { record := t.record u 9 1 ps, fences := [], rollbacks := ps, deads := [] }

/-! ## Events (R249, R309 to R311, R329) -/

/-- ERROR_WINDOW_START: a structure's next window begins, its counts at zero (R309). -/
def execErrorWindowStart (u : UnitId) (s : State) : Host.Outcome State Fault Refusal :=
  runAct s (some (s.setErr ⟨u, (s.errOf u).window + 1, 0, 0⟩))

/-- CORRECTED_ERROR: counted; the fourth of a window is a lasting fault (R310). -/
def execCorrectedError (u : UnitId) (s : State) : Host.Outcome State Fault Refusal :=
  let e := s.errOf u
  let t := s.setErr { e with corr := e.corr + 1 }
  runAct s (some (if e.corr = 3 then t.lastingCorrected u else t))

/-- UNCORRECTABLE_ERROR: the first of a window is transient, a rollback without a fence; the second is lasting (R310, R311). -/
def execUncorrectableError (u : UnitId) (s : State) : Host.Outcome State Fault Refusal :=
  let e := s.errOf u
  let t := s.setErr { e with unc := e.unc + 1 }
  runAct s (some (if u.utype = 6 then s.rotFault else if e.unc = 0 then t.recover u 2 false else t.recover u 3 true))

/-- ROOT_OF_TRUST_FAULT: a lockstep mismatch (R329). -/
def execRootOfTrustFault (s : State) : Host.Outcome State Fault Refusal := runAct s (some s.rotFault)

/-- WATCHDOG_FAILURE: a firmware processor fails its heartbeat and is restarted from its released image (R309, R311). -/
def execWatchdogFailure (proc : Nat) (s : State) : Host.Outcome State Fault Refusal :=
  runAct s (some ({ s with boot := s.boot.restart proc }.recover ⟨5, proc, 0⟩ 6 false))

/-- The send permits of a link are set. -/
def State.setPermits (s : State) (link n : Nat) : State := { s with permits := (link, n) :: s.permits.filter fun x => x.1 ≠ link }

/-- PERMIT_AUDIT: where the permits, the flits in flight and the occupied slots do not sum to the configured total, a lost
permit, which resets the link's permits to that total and rolls back every affected partition (R249, R327). -/
def execPermitAudit (link permits flits slots : Nat) (s : State) : Host.Outcome State Fault Refusal :=
  runAct s (some (if permits + flits + slots = Config.permitTotal link then s.setPermits link permits
    else (s.setPermits link (Config.permitTotal link)).recover ⟨3, link, 0⟩ 4 false))

/-- CRITICAL_THERMAL_LIMIT: the die's partitions stop, and wait for the host to command a lower run level (R269, R327). DEDUCED, unsafe,
log 42. -/
def execCriticalThermalLimit (die : Nat) (s : State) : Host.Outcome State Fault Refusal :=
  let ps := (s.parts.filter fun p => p.quads.any fun q => q / 16 = die).map (·.id)
  let t := { s with dies := match s.dies[die]? with
    | some d => setAt s.dies die { d with critical := true, waiting := true }
    | none => s.dies }
  runAct s (some (t.rule { record := t.record ⟨0, 64 * die, 0⟩ 5 9 ps, fences := [], rollbacks := ps, deads := [] }))

/-! ## Posting (R312, R346) -/

/-- HEALTH_RECORD_POST: the oldest decision is posted at entry `HEAD` mod 1,024 when there is room, and then takes effect (R312,
R346). -/
def execHealthRecordPost (s : State) : Host.Outcome State Fault Refusal :=
  runAct s (do
    let d ← s.mgmt.held.head?
    if (s.mgmt.head - s.mgmt.tail).toNat < 1024 then
      let n := s.mgmt.head.toNat % 1024
      let m := { s.mgmt with health := (n, d.record) :: s.mgmt.health.filter (fun x => x.1 ≠ n), head := s.mgmt.head + 1,
                             held := s.mgmt.held.tail, toFence := s.mgmt.toFence ++ d.fences, toRoll := s.mgmt.toRoll ++ d.rollbacks }
      some (d.deads.foldl (fun t p => t.updP p fun x => { x with dead := true }) { s with mgmt := m })
    else none)

/-! ## Fences (R317) -/

/-- A bank holds an addressed extent of the partition (R283, R309). -/
def bankHolds (p : Partition) (bank : Nat) : Bool :=
  p.ctxs.any fun c => c.extents.any fun x => (List.range x.2).any fun k =>
    decide (16 * p.quads.getD ((x.1 + k) / 128) 0 + (x.1 + k) % 128 / 8 = bank)

/-- Every packet listed by the due mark has completed, and no launch of the partition is running (R314). -/
def State.quiescent (s : State) (p : Partition) (m : Nat × List (Nat × Word)) : Bool :=
  m.2.all (fun x => match s.queue? x.1 with
    | some q => decide ((q.doneSeq - x.2).toNat < 2 ^ 31)
    | none => true) && s.launches.all fun l => l.part ≠ p.id

/-- The granules of slot k of a partition: the spec gives the host's list no division, and its first half is slot 0 (R315). DESIGN CHOICE, unsafe, log
39. -/
def Partition.slot (p : Partition) (k : Nat) : List Nat :=
  if k = 0 then p.slots.take (p.slots.length / 2) else p.slots.drop (p.slots.length / 2)

/-- The granules that one snapshot takes: those of memory, and its extents of 2 MiB (R315). DESIGN CHOICE, unsafe, log 39. -/
def Partition.slotNeed (p : Partition) : Nat :=
  p.granules.length + ((p.ctxs.map fun c => (c.extents.map (·.2)).sum).sum + 511) / 512

/-- Both slots can take a snapshot: they are large enough, and none of their granules is retired. A partition without such slots takes no snapshots
(R315, R317). DESIGN CHOICE, unsafe, log 39. -/
def State.slotsFit (s : State) (p : Partition) : Bool :=
  !p.slots.isEmpty && decide (p.slotNeed ≤ p.slots.length / 2) && p.slots.all fun g => !s.retired.contains g

/-- A partition's snapshots without those of the slots named; where the newest complete one is among them, the partition has lost its rollback target.
DESIGN CHOICE, unsafe, log 39. -/
def Partition.dropSnaps (p : Partition) (ks : List Nat) : Partition :=
  { p with snaps := p.snaps.filter (fun x => !ks.contains x.slot), snapLost := p.snapLost || p.newest.any fun x => ks.contains x.slot }

/-- A channel's granules are retired: a stopped partition, whose data in them are lost, must get others, and its snapshots in them are lost; any other
partition's data are intact (R317). DEDUCED, unsafe, log 42. -/
def Partition.retire (p : Partition) (gs : List Nat) : Partition :=
  if p.stopped then
    { p.dropSnaps ((List.range 2).filter fun k => (p.slot k).any gs.contains) with owed := p.owed ++ (p.granules ++ p.slots).filter gs.contains }
  else p

/-- The partition stands at a step boundary: at its due mark; or, where it takes no snapshots, with no launch running; or it is stopped (R314,
R317). DEDUCED, unsafe, log 42. -/
def State.atBoundary (s : State) (p : Partition) : Bool :=
  p.stopped || (match p.mark with
    | some m => s.quiescent p m
    | none => !s.slotsFit p && s.launches.all fun l => l.part ≠ p.id)

/-- The fence waits: a bank with addressed extents, for the next step boundary of its partition (R317). -/
def State.fenceWaits (s : State) (u : UnitId) : Bool :=
  decide (u.utype = 1) && s.parts.any fun p => bankHolds p u.unit && !s.atBoundary p

/-- Workgroups on newly fenced cores are saved whole, to be restored elsewhere (R303, R317). -/
def State.evict (s : State) : State :=
  s.wgs.foldl (fun t w => match s.launch? w.ref.launch with
    | some l => match s.part? l.part, w.core with
      | some p, some k => if s.coreFenced p k then t.putAside l w else t
      | _, _ => t
    | none => t) s

/-- FENCE: an ordered fence takes the unit out of service: its work is moved, a bank's pins go, a channel's granules are retired, and a stopped
partition's must be replaced; a partition left without a core is declared unrecoverable. A firmware processor is restarted (R266, R284, R309, R317,
R328). DEDUCED, unsafe, log 42. -/
def execFence (u : UnitId) (s : State) : Host.Outcome State Fault Refusal :=
  runAct s (
    if !s.mgmt.toFence.contains u || s.fenceWaits u then none
    else
      let t := { s with mgmt := { s.mgmt with toFence := s.mgmt.toFence.filter (· ≠ u) } }
      if u.utype = 5 then some { t with boot := t.boot.restart u.unit }
      else
      let t := { t with fenced := u :: s.fenced }.evict
      let t := if u.utype = 1 then
          { t with parts := t.parts.map fun p => { p with ctxs := p.ctxs.map fun c => { c with pins := c.pins.filter fun x => cacheBank p x.phys ≠ u.unit } } }
        else t
      let t := if u.utype = 1 then t.parts.foldl (fun t p => t.refitPins p.id) t else t
      let gs := if u.utype = 2 then [2 * u.unit, 2 * u.unit + 1] else []
      let t := { t with retired := t.retired ++ gs, parts := t.parts.map fun p => p.retire gs }
      let lost := (t.parts.filter fun p => !p.dead && (t.cores p).isEmpty).map (·.id)
      some (if lost.isEmpty then t else t.declareDead u lost))

/-! ## Rollback and replay (R319, R320) -/

/-- The physical address lies in a partition's granules or vaults. -/
def ownsAddr (p : Partition) (a : Nat) : Bool :=
  if a < 2 ^ 52 then p.granules.contains (a / 2 ^ 30) else p.quads.contains ((a - 2 ^ 52) / 2 ^ 28)

/-- A partition's part of physical memory. -/
def partMem (m : Memory) (p : Partition) : Memory := m.filter fun c => ownsAddr p c.1

/-- Physical memory with a partition's part replaced. -/
def putPartMem (m : Memory) (p : Partition) (x : Memory) : Memory :=
  x.foldl (fun m c => memSet m c.1 c.2) (m.filter fun c => !ownsAddr p c.1)

/-- The state before any step: nothing in memory, native tables, queues as configured. DEDUCED, unsafe, log 39. -/
def firstSnap (s : State) (p : Partition) : Snapshot :=
  { step := 0, accs := p.accs - p.order.length, recs := 0, mem := [],
    ctxs := p.ctxs.map fun c => { c with dtab := .native, descs := [], extents := [] },
    queues := (s.queues.filter fun q => q.part = some p.id).map fun q => (q.id, 0, 0xFFFFFFFF#32), complete := true, todo := [] }

/-- A journalled host write. -/
def JRec.write? : JRec → Option HostWrite
  | .write w => some w
  | _ => none

/-- A physical address after granules have been replaced (R317). -/
def relocAddr (rs : List (Nat × Nat)) (a : Nat) : Nat :=
  match rs.find? fun x => decide (a < 2 ^ 52 ∧ x.1 = a / 2 ^ 30) with
  | some x => x.2 * 2 ^ 30 + a % 2 ^ 30
  | none => a

/-- A table entry after granules have been replaced: one that points into a replaced granule points into its replacement (R272, R317). -/
def relocEntry (rs : List (Nat × Nat)) (e : Nat) : Nat :=
  if e % 2 = 1 ∧ bits e 7 6 = 0 then e - bits e 51 12 * 2 ^ 12 + relocAddr rs (bits e 51 12 * 2 ^ 12) else e

/-- The valid entries of the tables below t (R271 to R273). -/
def entriesFrom (m : Memory) (p : Partition) : List Nat → Nat → List Nat
  | [], _ => []
  | lvl :: rest, t =>
    (List.range (if lvl = 4 then 32 else 512)).flatMap fun i =>
      let a := t + 8 * i
      let e := memNat m a 8
      if e % 2 = 0 then [] else if e / 2 % 2 = 1 then [a] else a :: entriesFrom m p rest (bits e 51 12 * 2 ^ 12)

/-- A snapshot after granules have been replaced: their bytes stand in the replacements, and tables and roots point there (R317, R319). DEDUCED,
unsafe, log 42. -/
def Snapshot.reloc (p : Partition) (rs : List (Nat × Nat)) (x : Snapshot) : Snapshot :=
  let es := (x.ctxs.flatMap fun c => entriesFrom x.mem p [4, 3, 2, 1, 0] c.root).eraseDups
  let m := es.foldl (fun m a => memPutNat m a 8 (relocEntry rs (memNat m a 8))) x.mem
  { x with mem := m.foldl (fun r c => memSet r (relocAddr rs c.1) c.2) [], ctxs := x.ctxs.map (fun c => { c with root := relocAddr rs c.root }),
           granules := x.granules.map (fun g => relocAddr rs (g * 2 ^ 30) / 2 ^ 30), manifest := [] }

/-- A journal record after granules have been replaced (R317, R319). DEDUCED, unsafe, log 42. -/
def JRec.reloc (rs : List (Nat × Nat)) : JRec → JRec
  | .write w => .write { w with addr := relocAddr rs w.addr }
  | .table a c es cp h => .table a c (es.map fun e => (relocAddr rs e.1, BitVec.ofNat 64 (relocEntry rs e.2.toNat)))
      (cp.map fun x => (relocAddr rs x.1, relocAddr rs x.2.1, x.2.2)) h
  | r => r

/-- The partition once its retired granules have been replaced: its snapshots, its journal, its pending writes and its contexts are those of the
replacements (R317). DEDUCED, unsafe, log 42. -/
def Partition.relocated (p : Partition) : Partition :=
  let rs := p.replaced
  if rs.isEmpty then p
  else { p with replaced := [], snaps := p.snaps.map (Snapshot.reloc p rs), journal := p.journal.map (JRec.reloc rs),
                writes := p.writes.map (fun w => { w with addr := relocAddr rs w.addr }), ctxs := p.ctxs.map fun c => { c with root := relocAddr rs c.root } }

/-- A context as a snapshot holds it; its pins are gone. Loads and Restrict updates that have not taken effect are still to come (R284, R315,
R319). -/
def ctxFrom (x : Snapshot) (c : Context) : Context :=
  let y := (x.ctxs.find? fun d => d.id = c.id).getD { c with dtab := .native, descs := [], extents := [] }
  { c with dtab := y.dtab, descs := y.descs, extents := y.extents, pins := [] }

/-- A journalled answer of the host (R318). -/
def JRec.isAnswer : JRec → Bool
  | .faultAns _ _ _ _ _ _ => true
  | .stopAns _ _ _ _ _ _ => true
  | _ => false

/-- The partition restored from a snapshot, about to replay (R319): host writes go back to their boundaries, tables and answers are used
again, packets are accepted in the first order, and contexts destroyed since the snapshot stand until the replay is over. DEDUCED, unsafe, log
41. -/
def replayFrom (s : State) (p : Partition) (x : Snapshot) : Partition :=
  let highNow := (s.queues.filter fun q => q.part = some p.id).map fun (q : Queue) => (q.id, q.nextSeq)
  let recs := p.journal.filter fun r => r.write?.isNone
  let old := p.replay.getD { high := highNow, recs := [], order := [], held := [] }
  let gone := x.ctxs.filter fun c => (p.ctx? c.id).isNone
  { p with ctxs := p.ctxs.map (ctxFrom x) ++ gone.map (fun c => { c with pins := [], newDtab := none, newDescs := none, held := [] }), stopped := false, faultQ := [],
           accs := p.accs - p.order.length, order := [],
           journal := recs, writes := p.journal.filterMap JRec.write? ++ p.writes, records := [], ran := [], snaps := p.snaps.filter (·.complete),
           answers := recs.filter JRec.isAnswer, pressCode := [], toldOf := p.msgs,
           replay := some { high := old.high, recs := recs.filter fun r => !r.isAnswer, order := p.order ++ old.order, held := old.held,
                            gone := old.gone ++ gone.map (·.id) } }

/-- The completed number that the host sees: it never moves backwards (R231, R320). -/
def Queue.shownDone (q : Queue) : Word :=
  match q.shown with
  | some t => if (q.doneSeq - t).toNat < 2 ^ 31 then q.doneSeq else t
  | none => q.doneSeq

/-- A queue at a snapshot's numbers, or, where it came to the partition later, at those it starts with; what the host has seen completed it still sees
completed (R231, R319, R320, R351). -/
def queueFrom (x : Snapshot) (q : Queue) : Queue :=
  match x.queues.find? fun y => y.1 = q.id with
  | some y => { q with shown := some q.shownDone, nextSeq := y.2.1, doneSeq := y.2.2, packet := none, done := [],
                       fails := q.fails.filter fun f => decide (2 ^ 31 ≤ (f - y.2.1).toNat) }
  | none => { q with shown := some q.shownDone, nextSeq := 0, doneSeq := 0xFFFFFFFF#32, packet := none, done := [], fails := [] }

/-- A stopped partition goes back to its newest complete snapshot and replays (R319). DEDUCED, unsafe, log 41. -/
def State.rollBack (s : State) (p : Partition) : State :=
  let p := p.relocated
  let x := p.newest.getD (firstSnap s p)
  let t := { s with mem := putPartMem s.mem p x.mem,
                    queues := s.queues.map fun (q : Queue) => if q.part = some p.id then queueFrom x q else q }
  t.updP p.id fun _ => replayFrom s p x

/-- A die of the partition waits for a lower run level (R327). -/
def State.dieWaits (s : State) (p : Partition) : Bool :=
  p.quads.any fun q => match s.dies[q / 16]? with
    | some d => d.waiting
    | none => false

/-- A decision about the partition has still to be posted: it takes effect only then (R312). -/
def State.ruling (s : State) (n : Nat) : Bool := s.mgmt.held.any fun d => d.rollbacks.contains n || d.deads.contains n

/-- ROLLBACK: an ordered rollback, every decision about the partition posted and its fences applied, no die of the partition waiting and its
granules replaced; a partition whose rollback target was lost with its slot waits (R312, R317, R319, R320, R327). DESIGN CHOICE, unsafe, log 39. -/
def execRollback (n : Nat) (s : State) : Host.Outcome State Fault Refusal :=
  runAct s (do
    let p ← s.part? n
    if s.mgmt.toRoll.contains n && p.stopped && !p.dead && !p.snapLost && !s.ruling n && s.mgmt.toFence.all (fun u => !(s.affected u).contains n) && !s.dieWaits p
        && p.owed.isEmpty then
      let t := { s with mgmt := { s.mgmt with toRoll := s.mgmt.toRoll.filter (· ≠ n) } }
      some ((t.rollBack p).count n 17 1)
    else none)

/-- REPLAY_COMPLETE: every queue has passed its high-water point; the table records after the last acceptance are applied, held host window traffic
lands, and contexts that the host had destroyed go (R319, R320). DEDUCED, unsafe, log 48. -/
def execReplayComplete (n : Nat) (s : State) : Host.Outcome State Fault Refusal :=
  runAct s (do
    let p ← s.part? n
    let r ← p.replay
    if (r.high.all fun h => match s.queue? h.1 with
        | some q => decide ((q.nextSeq - h.2).toNat < 2 ^ 31)
        | none => true) && (r.gone.all fun c => !s.ctxRuns n c) && !s.tablesWait p then
      some { (s.replayTables p).updP n fun x => { x with replay := none, ctxs := x.ctxs.filter fun c => !r.gone.contains c.id } with inbox := r.held ++ s.inbox }
    else none)

end Sys2Proof.Machine
end

