-- ==== Sys2Proof/Machine/Steps.lean ====
section
/-! DEFINITION. Steps and snapshots (R314 to R316, R318), dual run (R323 to R326), and the export and restore of snapshots (R321,
R322). -/

namespace Sys2Proof.Machine

/-! ## Marks (R314) -/

/-- Bytes that a journal record takes: 64 for its tags and the bytes of its content. DEDUCED, unsafe, log 41. -/
def JRec.size : JRec → Nat
  | .write w => 64 + w.bytes.length
  | .table _ _ es _ _ => 64 + 16 * es.length
  | .extents _ _ xs ys => 64 + 2 * (xs.length + ys.length)
  | .dtab _ _ _ => 64 + 4096
  | .descs _ _ _ => 64 + 16384
  | .faultAns _ _ _ _ _ _ => 64
  | .stopAns _ _ _ _ _ _ => 64
  | .abort _ => 64

/-- The journal would pass its capacity, 4 MiB in each vault's reserve, with n bytes more (R283, R318). DEDUCED, unsafe, log 41. -/
def Partition.journalFull (p : Partition) (n : Nat) : Bool := decide (2 ^ 22 * p.quads.length < (p.journal.map JRec.size).sum + n)

/-- The queues and sequence numbers of a step mark in the transfer area, none where a record is bad (R347). -/
def State.markList (s : State) (p n : Nat) : Option (List (Nat × Word)) :=
  let rs := (List.range n).map fun k => ofBytes (s.xferBytes (8 * k) 8)
  if rs.all fun r => decide (r / 2 ^ 40 = 0) && (match s.queue? (r / 2 ^ 32) with
      | some q => decide (q.part = some p)
      | none => false) then some (rs.map fun r => (r / 2 ^ 32, BitVec.ofNat 32 r)) else none

/-- A due mark joins those whose snapshots are still to be taken (R314). -/
def Partition.addMark (p : Partition) (m : Nat × List (Nat × Word)) : Partition :=
  match p.mark with
  | none => { p with mark := some m }
  | some _ => { p with nextMarks := p.nextMarks ++ [m] }

/-- STEP_MARK: a mark with the partition's next step number; a due one holds its queues until its snapshot (R314). DEDUCED, unsafe, log
37; DEDUCED, unsafe, log 39. -/
def execStepMark (s : State) : Host.Outcome State Fault Refusal :=
  runMgmt s .stepMark fun a => withPart s (a 0) fun p =>
    if xferLen < 8 * a 3 then .done 3 [] s
    else match s.markList p.id (a 3) with
      | none => .done 1 [] s
      | some xs =>
        if arg64 a 1 ≠ p.nextStep then .done 2 [] s
        else
          let due := p.timerDue || decide (p.stepCount ≠ 0 ∧ p.stepCount ≤ p.marks + 1)
          .done 0 [] (s.updP p.id fun x =>
            let y := { x with nextStep := x.nextStep + 1, marks := x.marks + 1 }
            if due && s.slotsFit x then y.addMark (p.nextStep, xs) else y)

/-- STEP_POLICY: step timer, step count and dual run, which changes at a step boundary: now, where no packet has been accepted since the last one
(R314, R323). DEDUCED, unsafe, log 43. -/
def execStepPolicy (s : State) : Host.Outcome State Fault Refusal :=
  runMgmt s .stepPolicy fun a => withPart s (a 0) fun p =>
    if 1 < a 3 then .done 1 [] s
    else .done 0 [] (s.updP p.id fun x =>
      let y := { x with timerMs := a 1, stepCount := a 2 }
      if x.order.isEmpty && x.replay.isNone then { y with dualRun := decide (a 3 = 1), dualNext := none } else { y with dualNext := some (decide (a 3 = 1)) })

/-- STEP_TIMER_EXPIRY: the partition's step timer has expired, so its next mark is due (R314). -/
def execStepTimerExpiry (n : Nat) (s : State) : Host.Outcome State Fault Refusal :=
  runAct s (do
    let p ← s.part? n
    if p.timerMs = 0 then none else some (s.updP n fun x => { x with timerDue := true }))

/-- SNAPSHOT_SLOTS: granules for the partition's two slots. A snapshot stays where its slot keeps its granules; the command waits while one is being
taken (R315). DESIGN CHOICE, unsafe, log 39. -/
def execSnapshotSlots (s : State) : Host.Outcome State Fault Refusal :=
  runMgmt s .snapshotSlots fun a => withPart s (a 0) fun p =>
    if xferLen < 2 * a 1 then .done 3 [] s
    else
      let gs := (List.range (a 1)).map fun k => ofBytes (s.xferBytes (2 * k) 2)
      if gs.any (fun g => decide (767 < g)) then .done 1 [] s
      else if gs.any (fun g => (s.granuleTaken g && !p.slots.contains g) || s.retired.contains g) ∨ gs.eraseDups.length < gs.length then .done 2 [] s
      else if p.snaps.any (fun x => !x.complete) then .wait
      else .done 0 [] (s.updP p.id fun x =>
        let y := { x with slots := gs }
        y.dropSnaps ((List.range 2).filter fun k => y.slot k ≠ x.slot k))

/-! ## Shards and manifests (R280, R321) -/

/-- The bytes of a context's tables in the tables shard: presence, id, root, quota, table kind and words, descriptors, extents. DESIGN
CHOICE, unsafe, log 44. -/
def ctxShard (p : Partition) (i : Nat) : List Byte :=
  match p.ctx? i with
  | none => List.replicate 21522 0
  | some c =>
    [1] ++ toBytes 8 c.root ++ toBytes 8 c.quota ++ [match c.dtab with
      | .native => 0
      | .loaded _ => 1] ++ tableWords c.dtab ++ memBytes c.descs 0 16384
      ++ toBytes 1024 ((List.range 8192).map fun k => if inExtents c (k * 2 ^ 21) then 2 ^ k else 0).sum

/-- Numbers of 2 bytes each after their count, in a field of n of them. -/
def numField (n : Nat) (xs : List Nat) : List Byte := toBytes 2 xs.length ++ (xs ++ List.replicate (n - xs.length) 0).flatMap (toBytes 2)

/-- The numbers of such a field. -/
def fieldNums (bs : List Byte) : List Nat := (List.range (ofBytes (bs.take 2))).map fun k => ofBytes ((bs.drop (2 + 2 * k)).take 2)

/-- The payload of the tables shard: sixteen contexts, the queues' numbers, and the granules and quads whose lines gave the other shards their tweaks.
DESIGN CHOICE, unsafe, log 44. -/
def tablesShard (p : Partition) (x : Snapshot) : List Byte :=
  let q := { p with ctxs := x.ctxs }
  (List.range 16).flatMap (ctxShard q) ++ ((List.range 256).flatMap fun i => match x.queues.find? fun y => y.1 = i with
    | some y => wordBytes y.2.1 ++ wordBytes y.2.2
    | none => List.replicate 8 0) ++ numField 768 x.granules ++ numField 64 p.quads

/-- A shard with its header, which stays plain, and its body encrypted with a key pair, line by line, the first line's tweak given (R279, R280,
R321). DESIGN CHOICE, unsafe, log 44. -/
def shardBytes (pair : List Byte) (step i tweak : Nat) (body : List Byte) : List Byte :=
  let bs := xtsLines false pair tweak body
  toBytes 64 (step + i * 2 ^ 64 + (64 + bs.length) * 2 ^ 128) ++ bs

/-- The key pair of a slot in bytes (R279). -/
def State.slotPair (s : State) (p : Nat) : List Byte := toBytes 64 ((s.keySlots.getD p { loaded := false, gen := 0 }).pair.toNat)

/-- The bodies of a snapshot's shards, with the line numbers of their first bytes: one for each of its granules and for each vault, which hold
physical memory, and one for tables and queue state (R321). DESIGN CHOICE, unsafe, log 44. -/
def shardBodies (p : Partition) (x : Snapshot) : List (Nat × List Byte) :=
  x.granules.map (fun g => (g * 2 ^ 23, memBytes x.mem (g * 2 ^ 30) (2 ^ 30)))
    ++ (List.range p.quads.length).map (fun v => (vaultAddr p (v * 2 ^ 28) / 128, memBytes x.mem (vaultAddr p (v * 2 ^ 28)) (116 * 2 ^ 21)))
    ++ [(0, tablesShard p x)]

/-- The shards of a snapshot: granules, vaults, tables (R321). DESIGN CHOICE, unsafe, log 44. -/
def shardsOf (s : State) (p : Partition) (x : Snapshot) : List (List Byte) :=
  let bodies := shardBodies p x
  ((List.range bodies.length).zip bodies).map fun y => shardBytes (s.slotPair p.id) x.step y.1 y.2.1 y.2.2

/-- A 32-byte digest of bytes (R286, R287, R321). -/
def digestOf (bs : List Byte) : List Byte := shake256 bs

/-- The device id: the digest of the public key (R286). -/
def devId : List Byte := digestOf ((List.range 1952).map (Config.publicKey Config.fuseSeed))

/-- The configuration digest over the creation command, the granule list, the queue configurations and the decode-table ids (R287). The spec names
these and not their layout: partition, number of quads and quads in a byte each, granules in 2 bytes, each assigned queue, configured or not, as
number, `MASK`, `RING`, `CTX`, `PRIO` and `RSIZE`, then the table ids, in that order. DESIGN CHOICE, unsafe, log 44. -/
def cfgDigest (s : State) (p : Partition) : List Byte :=
  let qs := (s.queues.filter fun q => decide (q.part = some p.id)).flatMap fun q =>
    toBytes 1 q.id ++ toBytes 32 q.mask.toNat ++ toBytes 8 q.ring.toNat ++ [BitVec.ofNat 8 q.ctx, BitVec.ofNat 8 q.prio, BitVec.ofNat 8 q.rsize]
  digestOf ([BitVec.ofNat 8 p.id, BitVec.ofNat 8 p.quads.length] ++ p.quads.map (BitVec.ofNat 8)
    ++ p.granules.flatMap (toBytes 2) ++ qs ++ p.ctxs.flatMap fun c => tableId c.dtab)

/-- A signature with the identity key (R287, R321). -/
def signed (n : Nat) (bs : List Byte) : List Byte := bs ++ (List.range 3309).map (Config.signature n bs)

/-- The manifest of a step's shards, signed (R321). DESIGN CHOICE, unsafe, log 44. -/
def manifestOf (s : State) (p : Partition) (x : Snapshot) : List Byte :=
  let sh := shardsOf s p x
  signed s.tick (toBytes 32 (p.id * 2 ^ 136 + 2 ^ 144 + sh.length * 2 ^ 160 + x.step * 2 ^ 192) ++ x.cfg ++ devId
    ++ sh.flatMap digestOf)

/-! ## Snapshots (R314 to R316) -/

/-- The pages of 64 KiB in which two memories differ. -/
def changedPages (a b : Memory) : List Nat :=
  (((a.filter fun c => memGet b c.1 ≠ c.2) ++ b.filter fun c => memGet a c.1 ≠ c.2).map fun c => c.1 / 65536).eraseDups

/-- Two runs of the step agree, so it stands (R325, R326). -/
def Partition.stands (p : Partition) : Bool :=
  match p.digests with
  | [] => false
  | d :: r => r.any fun x => x.1 = d.1

/-- SNAPSHOT_START: at a due mark the partition is quiescent: the snapshot of the step begins, holding memory, tables and queue numbers as
they now stand; it goes into the slot that does not hold the newest complete one, and pages that differ from what that slot last held are still to be
copied (R314, R315). DEDUCED, safe, log 40. -/
def execSnapshotStart (n : Nat) (s : State) : Host.Outcome State Fault Refusal :=
  runAct s (do
    let p ← s.part? n
    let m ← p.mark
    if p.active && p.replay.isNone && s.quiescent p m && p.snaps.all (·.complete) && s.slotsFit p && (!p.dualRun || p.stands || p.snapLost)
        && (s.mgmt.toFence.all fun u => decide (u.utype ≠ 1) || !bankHolds p u.unit) then
      let keep := p.newest.toList
      let slot := match p.newest with
        | some x => 1 - x.slot
        | none => 0
      let old := p.snaps.find? fun x => x.slot = slot
      let mem := partMem s.mem p
      let x : Snapshot :=
        { step := m.1, accs := p.accs, recs := p.journal.length, mem := mem, ctxs := p.ctxs,
          queues := (s.queues.filter fun q => q.part = some n).map fun q => (q.id, q.nextSeq, q.doneSeq), complete := false,
          todo := changedPages mem ((old.map (·.mem)).getD []), granules := p.granules, cfg := cfgDigest s p, slot := slot }
      some (s.updP n fun y => { y with mark := y.nextMarks.head?, nextMarks := y.nextMarks.tail, marks := y.nextMarks.length, timerDue := false,
                                       snaps := keep ++ [x], digests := [], ran := [], records := [], dualRun := y.dualNext.getD y.dualRun, dualNext := none })
    else none)

/-- Changes the snapshot that is being taken. -/
def Partition.updSnap (p : Partition) (g : Snapshot → Snapshot) : Partition :=
  { p with snaps := p.snaps.map fun x => if x.complete then x else g x }

/-- SNAPSHOT_PAGE_COPY: the stream of a partition that is not stopped copies one page. A write to a page not yet copied waits for this, so the copy is the pre-image, which
the snapshot holds since its start (R316). DEDUCED, safe, log 40. -/
def execSnapshotPageCopy (n page : Nat) (s : State) : Host.Outcome State Fault Refusal :=
  runAct s (do
    let p ← s.part? n
    let x ← p.snaps.find? fun x => !x.complete
    if p.active && x.todo.contains page then some (s.updP n fun y => y.updSnap fun z => { z with todo := z.todo.filter (· ≠ page) }) else none)

/-- SNAPSHOT_COMPLETE: every page is copied, the partition is not stopped, and the manifest is signed: the snapshot becomes the rollback target, and the journal before it goes
(R315, R318, R321). DEDUCED, safe, log 40. -/
def execSnapshotComplete (n : Nat) (s : State) : Host.Outcome State Fault Refusal :=
  runAct s (do
    let p ← s.part? n
    let x ← p.snaps.find? fun x => !x.complete
    if p.active && x.todo.isEmpty then
      let base := p.accs - p.order.length
      let t := s.updP n fun y => { y.updSnap fun z => { z with complete := true, manifest := manifestOf s p x } with
        snapLost := false, journal := y.journal.drop x.recs, order := y.order.drop (x.accs - base) }
      some { t with ports := reportPorts n t.ports }
    else none)

/-! ## Dual run (R323 to R326) -/

/-- The pages that a context maps, as (virtual address, physical address, size), in ascending order (R271, R273). -/
def leavesFrom (m : Memory) (p : Partition) : List Nat → Nat → Nat → List (Nat × Nat × Nat)
  | [], _, _ => []
  | lvl :: rest, t, va =>
    (List.range (if lvl = 4 then 32 else 512)).flatMap fun i =>
      let e := memNat m (t + 8 * i) 8
      let v := va + i * 2 ^ (16 + 9 * lvl)
      if e % 2 = 0 then []
      else if e / 2 % 2 = 1 then [(v, frameOf p e, 2 ^ (16 + 9 * lvl))]
      else leavesFrom m p rest (bits e 51 12 * 2 ^ 12) v

/-- The lines of 128 bytes in which a step changed memory. -/
def changedLines (a b : Memory) : List Nat :=
  (((a.filter fun c => memGet b c.1 ≠ c.2) ++ b.filter fun c => memGet a c.1 ≠ c.2).map fun c => c.1 / 128).eraseDups

/-- Inserts a number in ascending order. -/
def insertNat (n : Nat) : List Nat → List Nat
  | [] => [n]
  | x :: r => if n ≤ x then n :: x :: r else x :: insertNat n r

/-- A list in ascending order. -/
def sortNats (xs : List Nat) : List Nat := xs.foldr insertNat []

/-- The digest input of one context: each changed line with its 64-bit virtual address (R20, R324). -/
def ctxDigest (s : State) (p : Partition) (lines : List Nat) (c : Context) : List Byte :=
  (leavesFrom s.mem p [4, 3, 2, 1, 0] c.root 0).flatMap fun x =>
    ((sortNats (lines.filter fun n => decide (x.2.1 ≤ 128 * n ∧ 128 * n < x.2.1 + x.2.2)))).flatMap fun n =>
      toBytes 8 ((BitVec.ofNat 57 (x.1 + (128 * n - x.2.1))).signExtend 64).toNat ++ memBytes s.mem (128 * n) 128

/-- The step's completion records in queue order, then sequence order, which counts on from the numbers at the step's start modulo 2^32 (R324). -/
def recordsInOrder (x : Snapshot) (p : Partition) : List Byte :=
  let place := fun (r : Nat × Word × List Byte) =>
    r.1 * 2 ^ 32 + (r.2.1 - ((x.queues.find? fun y => y.1 = r.1).map (·.2.1)).getD 0).toNat
  (sortNats ((p.records.map place).eraseDups)).flatMap fun n => (p.records.filter fun r => place r = n).flatMap fun r => r.2.2

/-- The step digest of the run just made, against the snapshot from which the step started (R324). -/
def stepDigest (s : State) (p : Partition) : List Byte :=
  let x := p.newest.getD (firstSnap s p)
  let lines := changedLines (partMem s.mem p) x.mem
  let cs := (List.range 16).filterMap p.ctx?
  shake256 (cs.flatMap (ctxDigest s p lines) ++ recordsInOrder x p)

/-- One uncorrectable error is counted against core k of a partition; the second of a window is lasting (R310, R326). DEDUCED, unsafe, log
43. -/
def State.blameCore (s : State) (p : Partition) (k : Nat) : State :=
  let u : UnitId := ⟨0, 4 * p.quads.getD (k / 4) 0 + k % 4, 0⟩
  let e := s.errOf u
  let t := s.setErr { e with unc := e.unc + 1 }
  if e.unc = 0 then t else t.recover u 3 true

/-- The cores that a run which matches no other used and the agreeing runs did not (R326). DEDUCED, unsafe, log 43. -/
def blamed (ds : List (List Byte × List Nat)) (good : List Byte) : List Nat :=
  let ok := (ds.filter fun d => d.1 = good).flatMap (·.2)
  ((ds.filter fun d => d.1 ≠ good).flatMap fun d => d.2.filter fun k => !ok.contains k)

/-- DUAL_RUN_DIGEST_COMPARE: at the end of a step of a dual-run partition, the snapshot from which it started complete, the run's digest is compared
with the earlier ones. After the first run it runs again; it stands when two agree; where none do, the mismatch is a recovery event, whose rollback
runs it again on another placement; and after five runs without two alike the partition is unrecoverable (R312, R323 to R326). DEDUCED, unsafe, log
43. -/
def execDualRunDigestCompare (n : Nat) (s : State) : Host.Outcome State Fault Refusal :=
  runAct s (do
    let p ← s.part? n
    let m ← p.mark
    if p.dualRun && p.active && p.replay.isNone && s.quiescent p m && !p.stands && !p.snapLost && p.snaps.all (·.complete) then
      let ds := (stepDigest s p, p.ran) :: p.digests
      let t := s.updP n fun y => { y with digests := ds }
      let u : UnitId := ⟨0, 4 * p.quads.getD 0 0, 0⟩
      match ds with
      | [] => none
      | [_] => some (t.rollBack { p with digests := ds })
      | d :: r =>
        if r.any fun x => x.1 = d.1 then some ((blamed ds d.1).foldl (fun t k => t.blameCore p k) t)
        else if 5 ≤ ds.length then some (t.declareDead u [n])
        else some (t.rule { record := t.record u 7 1 [n], fences := [], rollbacks := [n], deads := [] })
    else none)

/-! ## Export and restore (R321, R322) -/

/-- EXPORT_SNAPSHOT: the newest complete snapshot goes as encrypted shards with their manifest to a target; where granules have been replaced since,
or the step was loaded from elsewhere, the manifest is signed anew for the shards as they are now (R280, R321). DEDUCED, unsafe, log 44. -/
def execExportSnapshot (s : State) : Host.Outcome State Fault Refusal :=
  runMgmt s .exportSnapshot fun a => withPart s (a 0) fun p =>
    if 2 < a 1 then .done 1 [] s
    else match p.newest with
      | none => .done 2 [] s
      | some x =>
        let out := ((if x.manifest.isEmpty then manifestOf s p x else x.manifest) :: shardsOf s p x).map fun b => (a 1, arg64 a 2, b)
        .done 0 (words64 x.step) { s with exported := s.exported ++ out }

/-- A manifest verifies: its signature holds under the certificate's key, and its reserved bits are 0 (R322). -/
def manifestVerifies (cert m : List Byte) : Bool :=
  let n := m.length - 3309
  decide (3309 + 96 ≤ m.length) && Config.verifies cert (m.take n) (m.drop n) && decide (bits (ofBytes (m.take 96)) 135 0 = 0)

/-- The step a manifest names. -/
def manifestStep (m : List Byte) : Nat := bits (ofBytes (m.take 96)) 255 192

/-- The number of shards a manifest lists. -/
def manifestShards (m : List Byte) : Nat := bits (ofBytes (m.take 96)) 191 160

/-- Shard i of a manifest's step: present, its digest matching, its header naming the step (R322). -/
def shardAt (m : List Byte) (found : List (List Byte)) (i : Nat) : Option (List Byte) :=
  found.find? fun b => decide (bits (ofBytes (b.take 64)) 63 0 = manifestStep m ∧ bits (ofBytes (b.take 64)) 95 64 = i
    ∧ digestOf b = (m.drop (96 + 32 * i)).take 32)

/-- The step of a manifest is whole (R322). -/
def stepWhole (cert : List Byte) (found : List (List Byte)) (m : List Byte) : Bool :=
  manifestVerifies cert m && (List.range (manifestShards m)).all fun i => (shardAt m found i).isSome

/-- The manifest of the largest step among those given. -/
def largestStep : List (List Byte) → Option (List Byte)
  | [] => none
  | m :: r => match largestStep r with
    | none => some m
    | some x => if manifestStep x < manifestStep m then some m else some x

/-- A context read back from the tables shard. -/
def ctxFromShard (i : Nat) (b : List Byte) : Option Context :=
  if b.getD 0 0 = 0 then none
  else some
    { id := i, root := ofBytes ((b.drop 1).take 8), quota := ofBytes ((b.drop 9).take 8),
      dtab := if b.getD 17 0 = 0 then .native else .loaded (wordsOfBytes ((b.drop 18).take 4096)),
      descs := memPut [] 0 ((b.drop 4114).take 16384),
      extents := ((List.range 8192).filter fun k => (ofBytes ((b.drop 20498).take 1024)).testBit k).map fun k => (k, 1),
      pins := [], newDtab := none, newDescs := none, held := [] }

/-- The step's shards are as many as the partition has granules and quads, and one (R321, R322). DESIGN CHOICE, unsafe, log 44. -/
def Partition.shardsFit (p : Partition) (m : List Byte) : Bool := decide (manifestShards m = p.granules.length + p.quads.length + 1)

/-- The partition's state as the snapshot of a step (R315, R322). -/
def stepSnap (s : State) (p : Partition) (step : Nat) : Snapshot :=
  { step := step, accs := p.accs, recs := 0, mem := partMem s.mem p, ctxs := p.ctxs,
    queues := (s.queues.filter fun q => q.part = some p.id).map fun q => (q.id, q.nextSeq, q.doneSeq), complete := true, todo := [],
    granules := p.granules, cfg := cfgDigest s p }

/-- A partition loaded from a whole step, which is its newest complete snapshot from then on. The shards are decrypted with the tweaks of the lines
from which they were exported, and tables and roots point into this partition's granules (R279, R322). DESIGN CHOICE, unsafe, log 44. -/
def State.loadStep (s : State) (p : Partition) (m cert : List Byte) (found : List (List Byte)) : State :=
  let pair := toBytes 64 (Config.shardKeys cert).toNat
  let body := fun (i tweak : Nat) => xtsLines true pair tweak (((shardAt m found i).getD []).drop 64)
  let n := p.granules.length
  let tab := body (n + p.quads.length) 0
  let theirs := fieldNums (tab.drop (21522 * 16 + 2048))
  let quads := fieldNums (tab.drop (21522 * 16 + 2048 + 1538))
  let num := fun (q k : Nat) => BitVec.ofNat 32 (ofBytes ((tab.drop (21522 * 16 + 8 * q + 4 * k)).take 4))
  let mem := ((List.range n).zip theirs).foldl (fun x g => memPut x (g.2 * 2 ^ 30) ((body g.1 (g.2 * 2 ^ 23)).take (2 ^ 30))) []
  let mem := (List.range p.quads.length).foldl (fun x v =>
    memPut x (vaultAddr p (v * 2 ^ 28)) ((body (n + v) (vaultAddr { p with quads := quads } (v * 2 ^ 28) / 128)).take (116 * 2 ^ 21))) mem
  let ctxs := (List.range 16).filterMap fun i => ctxFromShard i ((tab.drop (21522 * i)).take 21522)
  let x : Snapshot := { step := manifestStep m, accs := 0, recs := 0, mem := mem, ctxs := ctxs, queues := [], complete := true, todo := [], granules := theirs }
  let x := x.reloc p (theirs.zip p.granules)
  let t := { s with mem := putPartMem s.mem p x.mem, queues := s.queues.map fun (q : Queue) =>
    if q.part = some p.id then { q with nextSeq := num q.id 0, doneSeq := num q.id 1, tail := num q.id 0, done := [], fails := [], shown := none } else q }
  let y := { p with ctxs := x.ctxs, nextStep := manifestStep m + 1, journal := [], order := [], snapLost := false }
  t.updP p.id fun _ => { y with snaps := [stepSnap t y (manifestStep m)] }

/-- RESTORE_SNAPSHOT: an empty partition takes the whole step of the largest number found at the source; where none is whole, or its shards are not
those of a partition of this shape, it changes nothing and answers 2 with every step number found (R322). DESIGN CHOICE, unsafe, log 44. -/
def execRestoreSnapshot (s : State) : Host.Outcome State Fault Refusal :=
  runMgmt s .restoreSnapshot fun a => withPart s (a 0) fun p =>
    let cert := s.xferBytes 0 xferLen
    let ms := (List.range (a 4)).map fun i => Config.manifest s.tick (a 1) (arg64 a 2) i
    let found := Config.shards s.tick (a 1) (arg64 a 2)
    let steps := sortNats ((ms.map manifestStep ++ found.map fun b => bits (ofBytes (b.take 64)) 63 0).eraseDups)
    if 2 < a 1 then .done 1 [] s
    else if !p.ctxs.isEmpty || s.launches.any (fun l => l.part = p.id) then .done 2 [] s
    else match (largestStep (ms.filter (stepWhole cert found))).filter p.shardsFit with
      | some m => .done 0 (words64 (manifestStep m)) (s.loadStep p m cert found)
      | none => .done 2 [] (s.putXfer (steps.flatMap (toBytes 8)))

end Sys2Proof.Machine
end

