-- ==== Sys2Proof/Machine/HostPage.lean ====
section
/-! DEFINITION. What the host writes and reads (R330, R341 to R354): the registers of the management page and of the partition
pages, host writes and reads through a window, forward frames and residency reports. -/

namespace Sys2Proof.Machine

/-- The page number under which the management page stands beside those of partitions 0 to 63. -/
def mgmtPage : Nat := 64

/-- An access to a partition's window: it lands where IDE is active and the partition exists, and does nothing otherwise (R281, R342).
DEDUCED, unsafe, log 47. -/
def withPage (s : State) (p : Nat) (act : Partition → State) : Host.Outcome State Fault Refusal :=
  runAct s (some (match s.part? p with
    | some x => if s.boot.ide then act x else s
    | none => s))

/-- The same for traffic that is held while the partition replays (R320). DEDUCED, unsafe, log 48. -/
def withWindow (s : State) (p : Nat) (i : Input) (act : Partition → State) : Host.Outcome State Fault Refusal :=
  withPage s p fun x => match x.replay with
    | some r => s.updP p fun y => { y with replay := some { r with held := r.held ++ [i] } }
    | none => act x

/-- Queue n, when it is assigned to partition p (R348). -/
def State.ownQueue (s : State) (p n : Nat) : Option Queue := (s.queue? n).filter fun q => decide (q.part = some p)

/-! ## Queues (R351, R352) -/

/-- The queue after notify value t, the k-th notify write of its partition: the tail moves within the ring, never back (R352). -/
def Queue.notify (q : Queue) (t : Word) (k : Nat) : Queue :=
  let ahead := (t - q.nextSeq).toNat
  if ahead ≤ 2 ^ q.rsize ∧ (q.tail - q.nextSeq).toNat < ahead then { q with tail := t, nots := q.nots ++ [(t, k)] } else q

/-- A notify write of value t to a queue of a partition (R344, R352). -/
def State.notified (s : State) (p q : Nat) (t : Word) : State :=
  match s.part? p, s.ownQueue p q with
  | some x, some _ => (s.updQ q fun y => y.notify t (x.notifies + 1)).updP p fun y => { y with notifies := y.notifies + 1 }
  | _, _ => s

/-- NOTIFY_WRITE: t is written to the notify word of queue q (R352). -/
def execNotifyWrite (p q : Nat) (t : Word) (s : State) : Host.Outcome State Fault Refusal :=
  withWindow s p (.page p (4 * q) t) fun _ => s.notified p q t

/-- A write of `CTL` is refused (R232, R351). -/
def State.ctlRefused (s : State) (p : Partition) (q : Queue) (ctl : Nat) : Bool :=
  s.launches.any (fun l => l.ref.queue = q.id ∧ l.part = p.id) || decide (bits ctl 7 4 < 4)
    || decide (bits ctl 63 20 ≠ 0 ∨ bits ctl 15 11 ≠ 0 ∨ bits ctl 3 1 ≠ 0) || (p.ctx? (bits ctl 19 16)).isNone
    || decide (2 ^ (4 * p.quads.length) ≤ q.mask.toNat)

/-- QUEUE_CONFIGURE: a write of `CTL` configures the queue and resets its numbers, or is refused (R351). DEDUCED, unsafe, log 50. -/
def execQueueConfigure (p n : Nat) (ctl : BitVec 64) (s : State) : Host.Outcome State Fault Refusal :=
  withWindow s p (.page64 p (0x1000 + 64 * n) ctl) fun x => match s.ownQueue p n with
    | none => s
    | some q =>
      let c := ctl.toNat
      if s.ctlRefused x q c then s.updQ n fun y => { y with refused := true }
      else s.updQ n fun y =>
        { y with en := decide (c % 2 = 1), rsize := bits c 7 4, prio := bits c 10 8, ctx := bits c 19 16, refused := false,
                 nextSeq := 0, doneSeq := 0xFFFFFFFF#32, tail := 0, nots := [], done := [], fails := [], packet := none, shown := none }

/-! ## Rings (R349) -/

/-- The entry sizes of the five rings of a partition page. -/
def entrySize (r : Nat) : Nat := [32, 64, 32, 32, 16].getD r 32

/-- The ring may not be enabled so: `LOGN` out of range, a reserved bit set, or the ring passes the partition's granules. DEDUCED, unsafe,
log 50. -/
def ringBad (p : Partition) (r : Nat) (base : BitVec 64) (v : Nat) : Bool :=
  let n := bits v 47 40
  decide (n < 4 ∨ 16 < n ∨ bits v 63 49 ≠ 0 ∨ v % 2 ^ 40 ≠ 0 ∨ base.toNat % 4096 ≠ 0
    ∨ p.granules.length * 2 ^ 30 < base.toNat + entrySize r * 2 ^ n)

/-- RING_ENABLE: a write of the word that holds `EN` and `LOGN`, v being bits [191:128] of descriptor r; enabling resets the counts, and
held entries go out (R349). DEDUCED, unsafe, log 50. -/
def execRingEnable (p r : Nat) (v : BitVec 64) (s : State) : Host.Outcome State Fault Refusal :=
  withPage s p fun x =>
    let g := x.ring r
    let en := v.getLsbD 48
    if 5 ≤ r ∨ (en ∧ ringBad x r g.base v.toNat) then s
    else
      let h := if en && !g.en then { g with en := true, logn := bits v.toNat 47 40, drop := 0, tail := 0, head := 0 }
        else { g with en := en, logn := bits v.toNat 47 40 }
      let t := s.updP p fun y => { y with rings := setAt y.rings r h }
      if r = 0 then t.flushFaultQ p else t

/-- RING_TAIL_WRITE: the host has consumed entries of ring r of a partition, or of the health ring (r = 5 of the management page); held
entries go out (R346, R349). DEDUCED, unsafe, log 47. -/
def execRingTailWrite (p r : Nat) (v : Word) (s : State) : Host.Outcome State Fault Refusal :=
  if p = mgmtPage then runAct s (some (if r = 5 ∧ 3 ≤ s.boot.released then { s with mgmt := { s.mgmt with tail := v } } else s))
  else withPage s p fun x =>
    if 5 ≤ r then s
    else
      let t := s.updP p fun y => { y with rings := setAt y.rings r { x.ring r with tail := v } }
      if r = 0 then t.flushFaultQ p else t

/-- The debugger has consumed events of a partition: `EVTAIL` is v, and waiting ones are posted (R330, R333). -/
def State.eventTail (s : State) (p : Nat) (v : Word) : State :=
  s.updP p fun y => flushEvents { y with mbox := setAt y.mbox 17 v } y.events

/-- EVTAIL_WRITE: the debugger has consumed events; waiting ones are posted (R330, R333). -/
def execEvtailWrite (p : Nat) (v : Word) (s : State) : Host.Outcome State Fault Refusal :=
  withPage s p fun _ => s.eventTail p v

/-! ## Commands (R330, R331, R347) -/

/-- The management command of an opcode, with the arguments that select among its kinds (R347). -/
def mgmtCommand (op kind state : Nat) : Option Instr :=
  match op with
  | 0x01 => some .createPartition
  | 0x02 => some .destroyPartition
  | 0x03 => some .grantGranule
  | 0x04 => some .createContext
  | 0x05 => some .destroyContext
  | 0x06 => some .loadDecodeTable
  | 0x07 => some .loadDescriptors
  | 0x08 => some .allocateExtents
  | 0x09 => some .freeExtents
  | 0x0A => if kind = 0 then some .pageTableAdd else if kind = 1 then some .pageTableMove else if kind = 2 then some .pageTableRestrict else none
  | 0x0B => some .assignQueue
  | 0x0C => some .preEmpt
  | 0x0D => some .restoreLaunch
  | 0x0E => some .stepMark
  | 0x0F => some .stepPolicy
  | 0x10 => some .snapshotSlots
  | 0x11 => some .exportSnapshot
  | 0x12 => some .restoreSnapshot
  | 0x13 => if state ≤ 7 then some .setPowerStateRunLevel else if state = 8 then some .setPowerStateIdle
      else if state = 9 then some .setPowerStateRetention else if state = 10 then some .setPowerStateOff else none
  | 0x14 => some .attest
  | 0x15 => some .readCertificate
  | 0x16 => some .bindPort
  | 0x17 => some .setPowerLimit
  | 0x18 => some .setResidencyQuota
  | _ => none

/-- The doorbell: the block is taken as the command under way, or answered status 1; while a command is under way it is discarded
(R345, R347). -/
def State.doorbell (s : State) : State :=
  if s.mgmt.busy.isSome then s
  else
    let w := (s.mgmt.cmd.getD 0 0).toNat
    let t := { s with mgmt := { s.mgmt with block := s.mgmt.cmd } }
    match (if bits w 15 0 = 0 then mgmtCommand (bits w 31 24) (s.mgmt.cmd.getD 3 0).toNat (s.mgmt.cmd.getD 2 0).toNat else none) with
    | some i => { t with mgmt := { t.mgmt with busy := some i } }
    | none => t.reply 1 []

/-- A word written to the management page (R346, R347). DEDUCED, unsafe, log 47. -/
def State.mgmtWrite (s : State) (off : Nat) (v : Word) : State :=
  if s.boot.released < 3 ∨ off % 4 ≠ 0 then s
  else if off < 0x40 then
    let t := { s with mgmt := { s.mgmt with cmd := setAt s.mgmt.cmd (off / 4) v } }
    if off = 0x3C then t.doorbell else t
  else if 0xA000 ≤ off ∧ off < 0xE000 then { s with mgmt := { s.mgmt with xfer := memPut s.mgmt.xfer (off - 0xA000) (wordBytes v) } }
  else s

/-- The debugger's command under way is answered in word 8, and reply data in the words after it (R330). -/
def Partition.dbgReply (p : Partition) (status : Nat) (ws : List Word) : Partition :=
  let tag := bits (p.dbgCmd.getD 0 0).toNat 23 16
  { p with dbgBusy := none,
           mbox := ((List.range 8).zip ((BitVec.ofNat 32 (status * 2 ^ 24 + tag * 2 ^ 16) :: ws ++ List.replicate 7 0).take 8)).foldl
             (fun m x => setAt m (8 + x.1) x.2) p.mbox }

/-- A word written to mailbox word k: words 0 to 7 are the command, and word 0 starts it unless one is under way (R330). -/
def Partition.mboxWrite (p : Partition) (k : Nat) (v : Word) : Partition :=
  if 8 ≤ k then p
  else if k = 0 ∧ p.dbgBusy.isSome then p
  else
    let q := { p with mbox := setAt p.mbox k v }
    if k ≠ 0 then q
    else
      let q := { q with dbgCmd := q.mbox.take 8 }
      let op := bits v.toNat 31 24
      if bits v.toNat 15 0 = 0 ∧ 1 ≤ op ∧ op ≤ 0x0B then { q with dbgBusy := some op, dbgBegun := false } else q.dbgReply 1 []

/-! ## Registers without a row of their own (R341, R348 to R351) -/

/-- Word i of w words of 32 bits in a value, replaced. -/
def putWord (x w i : Nat) (v : Word) : Nat := x - bits x (32 * i + 31) (32 * i) * 2 ^ (32 * i) + v.toNat * 2 ^ (32 * i) % 2 ^ (32 * w)

/-- A write to a queue record: the byte of `PRIO`, a word of `RING` or of `MASK` (R351). DEDUCED, unsafe, log 50. -/
def Queue.write (q : Queue) (o : Nat) (v : Word) : Queue :=
  if o = 1 then (if bits v.toNat 7 3 = 0 then { q with prio := bits v.toNat 2 0 } else q)
  else if o = 8 ∨ o = 12 then { q with ring := BitVec.ofNat 64 (putWord q.ring.toNat 2 ((o - 8) / 4) v / 4096 * 4096) }
  else if 32 ≤ o ∧ o < 64 ∧ o % 4 = 0 then { q with mask := BitVec.ofNat 256 (putWord q.mask.toNat 8 ((o - 32) / 4) v) }
  else q

/-- A word of a counter: 24 to 31 are reserved (R341). -/
def Partition.counterWrite (p : Partition) (o : Nat) (v : Word) : Partition :=
  let i := o / 8
  if 24 ≤ i ∨ o % 4 ≠ 0 then p
  else { p with counters := setAt p.counters i (BitVec.ofNat 64 (putWord (p.counters.getD i 0).toNat 2 (o % 8 / 4) v)) }

/-- A word of a ring's `BASE` (R349). -/
def Partition.baseWrite (p : Partition) (o : Nat) (v : Word) : Partition :=
  let i := o / 32
  let g := p.ring i
  if i < 5 ∧ (o % 32 = 24 ∨ o % 32 = 28) then
    { p with rings := setAt p.rings i { g with base := BitVec.ofNat 64 (putWord g.base.toNat 2 ((o % 32 - 24) / 4) v) } }
  else p

/-- An answer word has no reserved value (R350). -/
def answerOk (v : Word) : Bool :=
  let w := v.toNat
  decide (bits w 31 24 ≤ 1 ∧ bits w 15 8 = 0 ∧ (bits w 7 0 = 1 ∨ bits w 7 0 = 2))

/-- A word of the debug transfer area, word k of it (R348). -/
def Partition.xferWrite (p : Partition) (k : Nat) (v : Word) : Partition :=
  { p with dbgXfer := (k, v) :: p.dbgXfer.filter fun x => x.1 ≠ k }

/-- A write to a partition page at an offset whose write has no row of its own, and to `EVTAIL`, which has one (R330, R348). -/
def State.pageWrite (s : State) (p off : Nat) (v : Word) : State :=
  if 0x1000 ≤ off ∧ off < 0x5000 then
    match s.ownQueue p ((off - 0x1000) / 64) with
    | some q => s.updQ q.id fun x => x.write ((off - 0x1000) % 64) v
    | none => s
  else if off = 0x5044 then s.eventTail p v
  else if 0x5000 ≤ off ∧ off < 0x5100 then (if off % 4 = 0 then s.updP p fun x => x.mboxWrite ((off - 0x5000) / 4) v else s)
  else if 0x5100 ≤ off ∧ off < 0x5200 then s.updP p fun x => x.counterWrite (off - 0x5100) v
  else if 0x5200 ≤ off ∧ off < 0x5300 then s.updP p fun x => x.baseWrite (off - 0x5200) v
  else if off = 0x5300 then (if answerOk v then s else s.badAnswer p)
  else if 0x6000 ≤ off ∧ off < 0x7000 ∧ off % 4 = 0 then s.updP p fun x => x.xferWrite ((off - 0x6000) / 4) v
  else s

/-- REGISTER_WRITE: a word written at an offset of the management page, or of a partition page (R330, R341, R346 to R351). -/
def execRegisterWrite (p off : Nat) (v : Word) (s : State) : Host.Outcome State Fault Refusal :=
  if p = mgmtPage then runAct s (some (s.mgmtWrite off v))
  else withPage s p fun _ => s.pageWrite p off v

/-! ## The window (R138, R281, R318, R343, R344) -/

/-- The pieces of a write in the granules, with their physical addresses; bytes beyond them are dropped (R343). n is how many
granules it may touch. -/
def windowPieces (p : Partition) : Nat → Nat → List Byte → List (Nat × List Byte)
  | 0, _, _ => []
  | n + 1, o, bs =>
    if bs.isEmpty then []
    else
      let m := 2 ^ 30 - o % 2 ^ 30
      (match windowAddr p o with
        | some a => [(a, bs.take m)]
        | none => []) ++ windowPieces p n (o + m) (bs.drop m)

/-- A host write of bytes at a window offset joins those not yet in effect; where the journal cannot hold it, the next mark is
made due (R318, R344). -/
def State.hostWrite (s : State) (p : Nat) (xs : List (Nat × List Byte)) : State :=
  s.updP p fun y =>
    let ws := xs.map fun x => ({ addr := x.1, bytes := x.2, stamp := y.notifies, boundary := none } : HostWrite)
    { y with writes := y.writes ++ ws,
             timerDue := y.timerDue || y.journalFull ((y.writes ++ ws).map fun w => (JRec.write w).size).sum }

/-- The window offset at which the partition page begins (R343). -/
def pageAt : Nat := 2 ^ 40 - 2 ^ 16

/-- Bytes written to a partition page, as writes of its words in ascending order: a double word where one is covered, else a word, else a byte that no
word begins with; the rest of a word of which only a part is written is dropped. n bounds their number. DESIGN CHOICE, unsafe, log 3. -/
def pageInputs (p : Nat) : Nat → Nat → List Byte → List Input
  | 0, _, _ => []
  | n + 1, o, bs =>
    if bs.isEmpty then []
    else if o % 8 = 0 ∧ 8 ≤ bs.length then .page64 p o (BitVec.ofNat 64 (ofBytes (bs.take 8))) :: pageInputs p n (o + 8) (bs.drop 8)
    else if o % 4 = 0 ∧ 4 ≤ bs.length then .page p o (BitVec.ofNat 32 (ofBytes (bs.take 4))) :: pageInputs p n (o + 4) (bs.drop 4)
    else if o % 4 ≠ 0 then .page p o ((bs.getD 0 0).setWidth 32) :: pageInputs p n (o + 1) (bs.drop 1)
    else pageInputs p n (o + 1) (bs.drop 1)

/-- The bytes of a window write that reach the partition page, as inputs (R343). -/
def pagePart (p off : Nat) (bs : List Byte) : List Input :=
  let hi := (bs.drop (pageAt - off)).take (2 ^ 40 - max off pageAt)
  pageInputs p hi.length (max off pageAt - pageAt) hi

/-- HOST_WINDOW_WRITE: bytes written through the window of a partition; those in its top 64 KiB reach the partition page, and are the next inputs
(R281, R343, R344). -/
def execHostWindowWrite (p off : Nat) (bs : List Byte) (s : State) : Host.Outcome State Fault Refusal :=
  let low := bs.take (pageAt - off)
  let t := { s with inbox := pagePart p off bs ++ s.inbox }
  if pageAt ≤ off then withPage t p fun _ => t
  else withWindow t p (.write p off low) fun x => t.hostWrite p (windowPieces x (low.length / 2 ^ 30 + 2) off low)

/-- A queue of the partition still has a packet to accept whose notify write came before number n, and which waits for no other packet
(R344). DEDUCED, unsafe, log 49. -/
def State.earlierPacket (s : State) (p : Partition) (n : Nat) : Bool :=
  s.queues.any fun q => decide (q.part = some p.id ∧ q.nextSeq ≠ q.tail) && q.en && decide (noteOf p q ≤ n) && (match q.packet with
    | none => true
    | some x => (depsOf x).all s.depMet || (depsOf x).any s.depFailed)

/-- The oldest host write may take effect: every launch accepted before its boundary has ended, or no acceptance follows and no launch
runs; in replay, the acceptances before it have been made again (R344). DEDUCED, unsafe, log 49. -/
def State.writeReady (s : State) (p : Partition) (w : HostWrite) : Bool :=
  match w.boundary with
  | some b => decide (b.2 ≤ p.accs + 1) && s.launches.all fun l => decide (l.part ≠ p.id ∨ b.2 ≤ l.acc)
  | none => s.launches.all (fun l => l.part ≠ p.id) && !s.earlierPacket p w.stamp && (match p.replay with
      | some r => r.order.isEmpty
      | none => true)

/-- HOST_WRITE_TAKES_EFFECT: the oldest host write of a partition reaches memory and the journal, which must have room (R262, R318,
R344). -/
def execHostWriteTakesEffect (n : Nat) (s : State) : Host.Outcome State Fault Refusal :=
  runAct s (do
    let p ← s.part? n
    let w ← p.writes.head?
    if p.stopped || !s.writeReady p w then none
    else if p.journalFull (JRec.write w).size then
      if p.timerDue then none else some (s.updP n fun y => { y with timerDue := true })
    else
      let t := { s with mem := memPut s.mem w.addr w.bytes }
      let t := (pagesOf w.addr w.bytes.length).foldl (fun t g => t.updP n (Partition.codeTouched g)) t
      some (t.updP n fun y => { y with writes := y.writes.tail, journal := y.journal ++ [.write w] }))

/-- The values that a host read of a physical byte may return: the stored one, and for a byte that running launches have written those it
held before each of their applied writes (R343). DEDUCED, unsafe, log 49. -/
def State.readChoices (s : State) (p : Partition) (a : Nat) : List Byte :=
  memGet s.mem a :: ((s.launches.filter fun l => l.part = p.id).flatMap fun l => (l.old.filter fun x => x.1 = a).map (·.2))

/-- Byte o of a number. -/
def byteOf (n o : Nat) : Byte := BitVec.ofNat 8 (n / 2 ^ (8 * o))

/-- The 512 bits of a queue record (R351). -/
def Queue.bits (q : Queue) : Nat :=
  q.en.toNat + q.rsize * 2 ^ 4 + q.prio * 2 ^ 8 + q.ctx * 2 ^ 16 + q.ring.toNat * 2 ^ 64 + q.nextSeq.toNat * 2 ^ 128 + q.shownDone.toNat * 2 ^ 160
    + q.refused.toNat * 2 ^ 192 + q.mask.toNat * 2 ^ 256

/-- The 256 bits of a ring descriptor (R349). -/
def Ring.bits (r : Ring) : Nat :=
  r.head.toNat + r.tail.toNat * 2 ^ 32 + r.drop.toNat * 2 ^ 96 + r.logn * 2 ^ 168 + r.en.toNat * 2 ^ 176 + r.base.toNat * 2 ^ 192

/-- The mailbox words that are read: the reply, `EVHEAD` and the event slots (R330). -/
def mboxReads (k : Nat) : Bool := decide (8 ≤ k ∧ k ≤ 16 ∨ 20 ≤ k)

/-- Byte o of a partition page as the host reads it; what is reserved, of another partition's queue, or only written reads 0 (R6, R285, R330, R341,
R348 to R351). DESIGN CHOICE, unsafe, log 47. -/
def State.pageByte (s : State) (p : Partition) (o : Nat) : Byte :=
  if 0x1000 ≤ o ∧ o < 0x5000 then
    match s.ownQueue p.id ((o - 0x1000) / 64) with
    | some q => byteOf q.bits (o % 64)
    | none => 0
  else if 0x5000 ≤ o ∧ o < 0x5100 then
    (if mboxReads ((o - 0x5000) / 4) then byteOf (p.mbox.getD ((o - 0x5000) / 4) 0).toNat (o % 4) else 0)
  else if 0x5100 ≤ o ∧ o < 0x51C0 then byteOf (p.counters.getD ((o - 0x5100) / 8) 0).toNat (o % 8)
  else if 0x5200 ≤ o ∧ o < 0x52A0 then byteOf (p.ring ((o - 0x5200) / 32)).bits (o % 32)
  else if o = 0x5304 then byteOf p.ansBad.toNat 0
  else if 0x6000 ≤ o ∧ o < 0x7000 then
    match p.dbgXfer.find? fun x => x.1 = (o - 0x6000) / 4 with
    | some x => byteOf x.2.toNat (o % 4)
    | none => 0
  else 0

/-- The 256 bits of a health record (R312). -/
def HealthRec.bits (r : HealthRec) : Nat :=
  r.unc % 2 ^ 16 + r.corr % 2 ^ 16 * 2 ^ 16 + r.action * 2 ^ 40 + r.event * 2 ^ 48 + r.utype * 2 ^ 56 + r.unit % 2 ^ 32 * 2 ^ 64 + r.step.toNat * 2 ^ 128
    + r.parts.toNat * 2 ^ 192

/-- The status word of a die (R346). -/
def Die.word (d : Die) : Nat := d.warning.toNat + d.critical.toNat * 2 + d.state * 4

/-- Byte o of the management page as the operator reads it; what is reserved or only written reads 0 (R6, R312, R346, R347). The health ring is
always in use. Before image 3 is released there is only the boot status of configuration space, for which the spec gives no offset: it stands at
the page's (R359). DESIGN CHOICE, unsafe, log 47. -/
def State.mgmtByte (s : State) (o : Nat) : Byte :=
  if s.boot.released < 3 ∧ ¬ (0x130 ≤ o ∧ o < 0x134) then 0
  else if 0x40 ≤ o ∧ o < 0x80 then byteOf (s.mgmt.reply.getD ((o - 0x40) / 4) 0).toNat (o % 4)
  else if 0x100 ≤ o ∧ o < 0x120 then
    byteOf ({ base := 0x1000, en := true, logn := 10, drop := 0, tail := s.mgmt.tail, head := s.mgmt.head : Ring }).bits (o - 0x100)
  else if 0x120 ≤ o ∧ o < 0x130 then
    match s.dies[(o - 0x120) / 4]? with
    | some d => byteOf d.word (o % 4)
    | none => 0
  else if 0x130 ≤ o ∧ o < 0x134 then byteOf (s.boot.failOrder + s.boot.failCause * 2 ^ 8) (o - 0x130)
  else if 0x1000 ≤ o ∧ o < 0x9000 then
    match s.mgmt.health.find? fun x => x.1 = (o - 0x1000) / 32 with
    | some x => byteOf x.2.bits (o % 32)
    | none => 0
  else if 0xA000 ≤ o ∧ o < 0xE000 then memGet s.mgmt.xfer (o - 0xA000)
  else 0

/-- One byte of a host read, the i-th: of memory, or of the partition page (R343). DEDUCED, unsafe, log 49. -/
def State.hostByteAt (s : State) (p : Partition) (off i : Nat) : Byte :=
  if pageAt ≤ off + i ∧ off + i < 2 ^ 40 then s.pageByte p (off + i - pageAt)
  else match windowAddr p (off + i) with
    | none => 0xFF
    | some a =>
      let cs := s.readChoices p a
      cs.getD (Config.readPrefix s.tick i % cs.length) 0

/-- HOST_WINDOW_READ: bytes read through the window of a partition, or from the management page; all ones beyond a partition's granules. Reads of
memory are held while the partition replays, those of a page are not (R281, R320, R343, R346, R348). DEDUCED, unsafe, log 48; DEDUCED, unsafe, log
49. -/
def execHostWindowRead (p off len : Nat) (s : State) : Host.Outcome State Fault Refusal :=
  if p = mgmtPage then runAct s (some { s with hostRead := (List.range len).map fun i => s.mgmtByte (off + i) })
  else if pageAt ≤ off then withPage s p fun x => { s with hostRead := (List.range len).map (s.hostByteAt x off) }
  else withWindow s p (.read p off len) fun x => { s with hostRead := (List.range len).map (s.hostByteAt x off) }

/-! ## Scale-out ports (R353, R354) -/

/-- The frame is discarded: wrong device, partition, queue or sequence number, or a reserved bit (R353). DEDUCED, unsafe, log 55. -/
def State.frameBad (s : State) (x : Port) (h : Nat) (frame : List Byte) : Bool :=
  decide (frame.length ≠ 192) || decide (toBytes 32 (bits h 511 256) ≠ devId) || decide (bits h 255 64 ≠ 0)
    || decide (x.part ≠ some (bits h 55 48)) || (s.ownQueue (bits h 55 48) (bits h 63 56)).isNone || decide (bits h 47 0 ≠ x.fseq)

/-- A port with its next frame number. -/
def State.nextFrame (s : State) (link : Nat) : State :=
  { s with ports := s.ports.map fun x => if x.link = link then { x with fseq := (x.fseq + 1) % 2 ^ 48 } else x }

/-- A packet written into its slot of a queue's ring, as a host write, with a notify of its number plus 1 (R352, R353). -/
def State.forwardPacket (s : State) (p : Partition) (q : Queue) (bs : List Byte) : State :=
  let seq := BitVec.ofNat 32 (bits (ofBytes bs) 735 704)
  let t := match p.ctx? q.ctx, regionOf (q.ring + BitVec.ofNat 64 (128 * (seq.toNat % 2 ^ q.rsize))) with
    | some c, some (.glob va) => match walkFrom s.mem p c va .write [4, 3, 2, 1, 0] c.root with
      | .ok pa => s.hostWrite p.id [(pa, bs)]
      | .error _ => s
    | _, _ => s
  t.notified p.id q.id (seq + 1)

/-- FORWARD_FRAME: a frame of 192 bytes arrives on a port: it is discarded and counted, or its packet goes into its slot (R353). It is
held while the partition replays, as what the host writes is. DEDUCED, unsafe, log 48; DEDUCED, unsafe, log 55. -/
def execForwardFrame (link : Nat) (frame : List Byte) (s : State) : Host.Outcome State Fault Refusal :=
  runAct s (do
    let x ← s.ports.find? fun x => x.link = link
    let h := ofBytes (frame.take 64)
    match (x.part.bind s.part?).bind fun p => p.replay.map fun r => (p.id, r) with
    | some (n, r) => some (s.updP n fun y => { y with replay := some { r with held := r.held ++ [.frame link frame] } })
    | none =>
      if s.frameBad x h frame then
        some (match x.part with
          | some n => s.count n 20 1
          | none => s)
      else do
        let p ← s.part? (bits h 55 48)
        let q ← s.ownQueue p.id (bits h 63 56)
        some ((s.nextFrame link).forwardPacket p q (frame.drop 64)))

/-- The 64 bytes of a residency report: `DEVID`; `PART`; launches accepted and not completed; the newest snapshot step; unfenced cores;
unfenced vault banks; unretired granules (R354). DEDUCED, unsafe, log 55. -/
def State.residency (s : State) (p : Partition) : List Byte :=
  let banks := ((List.range p.quads.length).map fun v => s.vaultRoom p v / 8).sum
  let live := (s.launches.filter fun l => l.part = p.id).length
  devId ++ toBytes 4 p.id ++ toBytes 4 live ++ toBytes 8 ((p.newest.map (·.step)).getD 0) ++ toBytes 4 (s.cores p).length ++ toBytes 4 banks
    ++ toBytes 4 (p.granules.filter fun g => !s.retired.contains g).length ++ toBytes 4 0

/-- RESIDENCY_REPORT: a bound port sends a report; what was held back is merged into it (R354). -/
def execResidencyReport (link : Nat) (s : State) : Host.Outcome State Fault Refusal :=
  runAct s (do
    let x ← s.ports.find? fun x => x.link = link
    let p ← s.part? (← x.part)
    some { s with ports := s.ports.map fun y => if y.link = link then { y with report := false, out := y.out ++ [s.residency p] } else y })

end Sys2Proof.Machine
end

