-- ==== Sys2Proof/Machine/Debug.lean ====
section
/-! DEFINITION. The debugger and the samplers (R330 to R340, R365): the mailbox commands, halts and their events, single steps, the
transfer of a fibre's state, and stall samples. -/

namespace Sys2Proof.Machine

/-! ## Commands (R330, R331) -/

/-- Runs the mailbox command with an opcode that partition p has under way; act gets `ARG0` to `ARG6` by number. -/
def runDbg (s : State) (p op : Nat) (act : Partition → (Nat → Nat) → Answer) : Host.Outcome State Fault Refusal :=
  match s.part? p with
  | none => .next s
  | some x =>
    if x.dbgBusy = some op then
      match act x fun n => (x.dbgCmd.getD (n + 1) 0).toNat with
      | .wait => .next s
      | .go t => .next (t.updP p fun y => { y with dbgBegun := true }).ticked
      | .done st ws t => .next (t.updP p fun y => y.dbgReply st ws).ticked
    else .next s

/-- A command that needs an attached debugger: status 4 without one (R331). -/
def needAttached (s : State) (x : Partition) (k : Answer) : Answer := if x.attached then k else .done 4 [] s

/-- The workgroup that a command names by queue, sequence number and linear index: status 3 where it does not exist (R330). -/
def needWg (s : State) (p : Partition) (a : Nat → Nat) (k : Launch → Workgroup → Answer) : Answer :=
  match s.launch? ⟨a 0 % 256, a 1⟩ with
  | none => .done 3 [] s
  | some l =>
    if l.part ≠ p.id then .done 3 [] s
    else match s.wg? ⟨l.ref, a 2⟩ with
      | none => .done 3 [] s
      | some w => k l w

/-- The fibre that a command names by warp id and lane besides: status 3 where it does not exist, then 2 where its workgroup is not halted
(R331). DEDUCED, unsafe, log 51. -/
def needFibre (s : State) (p : Partition) (a : Nat → Nat) (k : Env → Answer) : Answer :=
  needWg s p a fun l w =>
    if a 3 / l.warps ≠ w.ref.wg then .done 3 [] s
    else match s.env? ⟨w.ref, a 3 % l.warps, a 4⟩ with
      | none => .done 3 [] s
      | some e => if w.halt = .halted then k e else .done 2 [] s

/-! ## Halting and resuming (R333 to R335) -/

/-- The fibre's stop is a debug stop that has not been posted (R333). -/
def Fibre.unreported (f : Fibre) : Bool :=
  match f.st with
  | .parked r .no => decide (0x18 ≤ r.code)
  | _ => false

/-- A workgroup's running fibres stop where they stand. -/
def State.haltRunning (s : State) (w : WRef) : State :=
  { s with fibres := s.fibres.map fun (f : Fibre) => if f.ref.wref = w ∧ f.running then { f with halted := true } else f }

/-- A fibre of a resumed workgroup: a breakpoint, watchpoint or step stop executes its word unchecked, a `trap` or `brk` is complete,
another stop stays (R335). DEDUCED, unsafe, log 54. -/
def State.resumeFibre (s : State) (r : FRef) : State :=
  match s.env? r with
  | none => s
  | some e =>
    let f := { e.f with halted := false }
    match f.st with
    | .parked q _ =>
      if q.code = 0x18 ∨ q.code = 0x19 then s.completeStop { e with f := f }
      else if 0x1A ≤ q.code then s.setF { f with st := f.stand, suppress := true }
      else s.setF f
    | _ => s.setF f

/-- A halted workgroup runs on (R335). DEDUCED, unsafe, log 54. -/
def State.resumeWg (s : State) (w : WRef) : State :=
  (s.wgFibres w).foldl (fun t f => t.resumeFibre f.ref) (s.updW w fun x => { x with halt := .none })

/-- A workgroup whose halt is not complete runs on; its debug stops stay to be posted. -/
def State.unhaltWg (s : State) (w : WRef) : State :=
  let t := { s with fibres := s.fibres.map fun (f : Fibre) => if f.ref.wref = w then { f with halted := false } else f }
  t.updW w fun x => { x with halt := .none }

/-- Workgroups of a partition. -/
def State.partWgs (s : State) (p : Nat) : List Workgroup :=
  s.wgs.filter fun w => match s.launch? w.ref.launch with
    | some l => decide (l.part = p)
    | none => false

/-- DBG_ATTACH: debug stops of the partition go to the mailbox from now on, those not yet posted among them (R292, R331). DEDUCED, unsafe,
log 54. -/
def execDbgAttach (p : Nat) (s : State) : Host.Outcome State Fault Refusal :=
  runDbg s p 0x01 fun x _ =>
    if x.attached then .done 0 [] s
    else
      let t := s.updP p fun y => { y with attached := true, events := [], mbox := setAt (setAt y.mbox 16 0) 17 0 }
      .done 0 [] ((s.partFibres p).foldl (fun t f => if f.unreported then t.updW f.ref.wref (Workgroup.debugStop f.clk) else t) t)

/-- DBG_DETACH: breakpoints and watchpoints go, halted workgroups run on, and debug stops are posted to the stop queue again (R331).
DEDUCED, unsafe, log 54. -/
def execDbgDetach (p : Nat) (s : State) : Host.Outcome State Fault Refusal :=
  runDbg s p 0x02 fun x _ => needAttached s x (
    let t := s.updP p fun y => { y with attached := false, brks := [], watches := [], events := [] }
    .done 0 [] ((s.partWgs p).foldl (fun t w => match w.halt with
      | .none => t
      | .halting _ => t.unhaltWg w.ref
      | .halted => t.resumeWg w.ref) t))

/-- DBG_HALT: the running fibres of the workgroup stop at their word boundaries (R331, R334). DEDUCED, unsafe, log 52. -/
def execDbgHalt (p : Nat) (s : State) : Host.Outcome State Fault Refusal :=
  runDbg s p 0x03 fun x a => needAttached s x (needWg s x a fun _ w =>
    if w.halt = .none then .done 0 [] ((s.haltRunning w.ref).updW w.ref fun y => { y with halt := .halting none }) else .done 0 [] s)

/-- DBG_RESUME (R335). -/
def execDbgResume (p : Nat) (s : State) : Host.Outcome State Fault Refusal :=
  runDbg s p 0x04 fun x a => needAttached s x (needWg s x a fun _ w =>
    if w.halt = .halted then .done 0 [] (s.resumeWg w.ref) else .done 2 [] s)

/-! ## Events (R332, R333, R365) -/

/-- Inserts a record by its key, clock, warp and lane, in ascending order. -/
def insertRec (r : FaultRec) : List FaultRec → List FaultRec
  | [] => [r]
  | x :: t => if keyLt ⟨r.clk, r.warp, r.lane⟩ ⟨x.clk, x.warp, x.lane⟩ then r :: x :: t else x :: insertRec r t

/-- The records of a workgroup's unposted debug stops, in key order. -/
def State.stopRecs (s : State) (w : WRef) : List FaultRec :=
  (s.wgFibres w).foldl (fun rs f => match f.st with
    | .parked r .no => if 0x18 ≤ r.code then insertRec r rs else rs
    | _ => rs) []

/-- A record without its lane. -/
def FaultRec.anyLane (r : FaultRec) : FaultRec := { r with lane := 0 }

/-- The kind-1 events of records: one for the lanes of a warp that agree in all else (R333, R365). -/
def stopEvents (rs : List FaultRec) : List Event :=
  (rs.map FaultRec.anyLane).eraseDups.map fun h =>
    { kind := 1, code := h.code, cause := h.cause, warp := h.warp,
      lmask := BitVec.ofNat 32 ((rs.filter fun r => r.anyLane = h).map fun r => 2 ^ r.lane).sum, clk := h.clk, oaddr := h.oaddr, widx := h.widx,
      info := h.info }

/-- The event of a completed halt (R332, R334). -/
def haltEvent (n wg : Nat) : Event :=
  let x := (Config.haltEvent n).toNat
  { kind := 3, code := 0, cause := 0, warp := wg, lmask := BitVec.ofNat 32 x, clk := x / 2 ^ 32 % 2 ^ 56, oaddr := BitVec.ofNat 57 (x / 2 ^ 88),
    widx := x / 2 ^ 145 % 16, info := BitVec.ofNat 64 (x / 2 ^ 149) }

/-- Events join those that wait for room, and are posted in order (R333). -/
def State.postEvents (s : State) (p : Nat) (es : List Event) : State := s.updP p fun y => flushEvents y (y.events ++ es)

/-- A workgroup's unposted debug stops are posted as kind-1 events. -/
def State.reportStops (s : State) (p : Nat) (w : WRef) : State :=
  let t := { s with fibres := s.fibres.map fun (f : Fibre) => if f.ref.wref = w ∧ f.unreported then (match f.st with
    | .parked r _ => { f with st := .parked r .event }
    | _ => f) else f }
  t.postEvents p (stopEvents (s.stopRecs w))

/-- A fibre of a halting workgroup has stopped: it is halted, parked, or in a wait, of its state or of its word; at or below the clock of the debug
stops it goes on while its wait can end (R333, R334). DEDUCED, unsafe, log 52. -/
def State.stoppedAt (s : State) (c : Option Nat) (f : Fibre) : Bool :=
  f.halted || (match f.st, c with
    | .parked _ _, _ => true
    | .enter, none => false
    | .run, none => false
    | _, none => true
    | .enter, some _ => !s.fibreCanAct f
    | .run, some _ => !s.fibreCanAct f
    | _, some d => decide (d < f.clk) || !s.fibreCanAct f)

/-- WORKGROUP_HALT_COMPLETE: every fibre of a halting workgroup has stopped: its stop events are posted, then its kind-3 event; debug
stops met in a workgroup already halted are posted alone (R333, R334, R365). DEDUCED, unsafe, log 52. -/
def execWorkgroupHaltComplete (w : WRef) (s : State) : Host.Outcome State Fault Refusal :=
  runAct s (do
    let x ← s.wg? w
    let l ← s.launch? w.launch
    match x.halt with
    | .none => none
    | .halting c =>
      if (s.wgFibres w).all (s.stoppedAt c) then
        some (((s.updW w fun y => { y with halt := .halted }).reportStops l.part w).postEvents l.part [haltEvent s.tick w.wg])
      else none
    | .halted => if s.debugged l.part && (s.wgFibres w).any Fibre.unreported then some (s.reportStops l.part w) else none)

/-! ## Steps (R336) -/

/-- The partition's fibres leave residual code, each at the next mapped boundary (R258, R337). -/
def State.leaveResidual (s : State) (p : Nat) : State :=
  let mine := fun (r : LRef) => s.launches.any fun l => decide (l.ref = r ∧ l.part = p)
  { s with fibres := s.fibres.map fun (f : Fibre) => if f.form.isSome && mine f.ref.wref.launch then { f with leaving := true } else f }

/-- The fibre begins a step: it runs one instruction unchecked, its waits tried again; a `trap` or `brk` at which it is parked is complete (R336). -/
def State.beginStep (s : State) (e : Env) : State :=
  let f := { e.f with halted := false, suppress := true, stepping := .armed, held := none, leaving := e.f.form.isSome }
  match f.st with
  | .parked q _ => if q.code = 0x18 ∨ q.code = 0x19 then s.completeStop { e with f := f } else s.setF (f.retry q)
  | _ => s.setF f

/-- DBG_STEP: one fibre of a halted workgroup runs one instruction; answered 0 once it and its move are done, or 5 when they wait (R331,
R336). DEDUCED, unsafe, log 53. -/
def execDbgStep (p : Nat) (s : State) : Host.Outcome State Fault Refusal :=
  runDbg s p 0x05 fun x a =>
    if x.dbgBegun then
      match (s.launch? ⟨a 0 % 256, a 1⟩).bind fun l => s.fibre? ⟨⟨l.ref, a 2⟩, a 3 % l.warps, a 4⟩ with
      | none => .done 0 [] s
      | some f =>
        if f.stepping = .off then .done 0 [] s
        else match f.st with
          | .parked q _ => if q.code = 1 then .done 5 [] s else .done 0 [] (s.setF { f with stepping := .off })
          | _ => if s.fibreCanAct f then .wait else .done 5 [] s
    else needAttached s x (needFibre s x a fun e => .go ((s.leaveResidual p).beginStep e))

/-- The lowest armed breakpoint at the word where the fibre stands, with the fibre's lane in its mask (R337). DEDUCED, unsafe, log 51. -/
def State.brkAt (s : State) (l : Launch) (f : Fibre) : Option Nat :=
  match s.part? l.part with
  | none => none
  | some p => ((List.range 8).find? fun n => p.brks.any fun b =>
      decide (b.n = n ∧ b.addr = (f.pc + BitVec.ofNat 57 (4 * (f.widx + 1))).toNat) && b.mask.getLsbD f.ref.lane)

/-- DBG_STEP_COMPLETE: the stepped instruction and its move are done: the fibre stops before its next instruction, with code 0x1A where a
breakpoint lies there, else 0x1C (R336, R339). DEDUCED, unsafe, log 53. -/
def execDbgStepComplete (r : FRef) (s : State) : Host.Outcome State Fault Refusal :=
  runAct s (do
    let e ← s.env? r
    if e.f.stepping = .moving ∧ e.f.st = .run then
      let e' := { e with f := { e.f with stepping := .off, suppress := false } }
      let t := match s.brkAt e.l e.f with
        | some n => s.park e' 0x1A 0 (BitVec.ofNat 64 n)
        | none => s.park e' 0x1C 0 0
      some (if e.w.halt = .halted ∧ s.debugged e.l.part then t.reportStops e.l.part e.w.ref else t)
    else none)

/-! ## Breakpoints and watchpoints (R258, R337, R338) -/

/-- DBG_SET_BREAKPOINT (R337). DEDUCED, unsafe, log 51. -/
def execDbgSetBreakpoint (p : Nat) (s : State) : Host.Outcome State Fault Refusal :=
  runDbg s p 0x06 fun x a =>
    let addr := a 3 + a 4 * 2 ^ 32
    if addr % 4 ≠ 0 ∨ 2 ^ 57 ≤ addr then .done 1 [] s
    else needAttached s x (
      let b : Brk := { n := a 2 % 8, addr := addr, mask := BitVec.ofNat 32 (a 5) }
      .done 0 [] ((s.updP p fun y => { y with brks := b :: y.brks.filter fun z => z.n ≠ b.n }).leaveResidual p))

/-- DBG_CLEAR_BREAKPOINT (R331). -/
def execDbgClearBreakpoint (p : Nat) (s : State) : Host.Outcome State Fault Refusal :=
  runDbg s p 0x07 fun x a => needAttached s x (
    .done 0 [] (s.updP p fun y => { y with brks := y.brks.filter fun z => z.n ≠ a 2 % 8 }))

/-- DBG_SET_WATCHPOINT (R338). -/
def execDbgSetWatchpoint (p : Nat) (s : State) : Host.Outcome State Fault Refusal :=
  runDbg s p 0x08 fun x a =>
    let kind := bits (a 2) 5 4
    if kind = 0 ∨ a 4 = 0 ∨ 2 ^ 20 < a 4 then .done 1 [] s
    else needAttached s x (
      let w : Watch := { n := a 2 % 4, onLoad := decide (kind % 2 = 1), onStore := decide (2 ≤ kind), start := a 3, len := a 4,
                         mask := BitVec.ofNat 32 (a 5), wg := if a 6 = 0xFFFFFFFF then none else some (a 6) }
      .done 0 [] (s.updP p fun y => { y with watches := w :: y.watches.filter fun z => z.n ≠ w.n }))

/-- DBG_CLEAR_WATCHPOINT (R331). -/
def execDbgClearWatchpoint (p : Nat) (s : State) : Host.Outcome State Fault Refusal :=
  runDbg s p 0x09 fun x a => needAttached s x (
    .done 0 [] (s.updP p fun y => { y with watches := y.watches.filter fun z => z.n ≠ a 2 % 4 }))

/-! ## Reading and writing a fibre (R307, R331) -/

/-- A word of the debug transfer area (R348). -/
def Partition.xferWord (p : Partition) (k : Nat) : Word :=
  match p.dbgXfer.find? fun x => x.1 = k with
  | some x => x.2
  | none => 0

/-- Words put into the debug transfer area from word k on. -/
def Partition.putXferWords (p : Partition) (k : Nat) (ws : List Word) : Partition :=
  ((List.range ws.length).zip ws).foldl (fun q x => q.xferWrite (k + x.1) x.2) p

/-- DBG_READ_FIBRE: the fibre's record goes to the transfer area, its registers after it (R331). -/
def execDbgReadFibre (p : Nat) (s : State) : Host.Outcome State Fault Refusal :=
  runDbg s p 0x0A fun x a =>
    if a 5 ≠ 0 ∨ a 6 ≠ 0 then .done 1 [] s
    else needAttached s x (needFibre s x a fun e =>
      let ws := (List.range 64).map fun k => BitVec.ofNat 32 (fibreBits e.l e.f / 2 ^ (32 * k))
      .done 0 [] (s.updP p fun y => (y.putXferWords 0 ws).putXferWords 64 e.f.regs))

/-- The record in the transfer area, as a number. -/
def Partition.xferRecord (p : Partition) : Nat := ((List.range 64).map fun k => (p.xferWord k).toNat * 2 ^ (32 * k)).sum

/-- Branch-target register i of a record (R307). -/
def recordBreg (n i : Nat) : BReg :=
  let b := bits n (1536 + 64 * i + 63) (1536 + 64 * i)
  { st := if b / 2 ^ 62 = 1 then .prepared else if b / 2 ^ 62 = 2 then .stale else .unprepared, target := BitVec.ofNat 57 b }

/-- A record has a reserved value: a branch-target state of 11, or a rounding mode that R65 does not list. DEDUCED, unsafe, log 51. -/
def recordBad (n : Nat) : Bool :=
  (List.range 8).any (fun i => decide (bits n (1536 + 64 * i + 63) (1536 + 64 * i + 62) = 3)) || decide (4 < bits n 1300 1298)

/-- DBG_WRITE_FIBRE: the fibre takes branch targets, window base, predicates, seed, flags, rounding mode and registers from the transfer
area (R331). DEDUCED, unsafe, log 51. -/
def execDbgWriteFibre (p : Nat) (s : State) : Host.Outcome State Fault Refusal :=
  runDbg s p 0x0B fun x a =>
    let n := x.xferRecord
    if a 5 ≠ 0 ∨ a 6 ≠ 0 ∨ recordBad n then .done 1 [] s
    else needAttached s x (needFibre s x a fun e =>
      let f := { psetWord e.f (BitVec.ofNat 16 (bits n 1354 1339)) with
        bregs := (List.range 8).map (recordBreg n), wbase := bits n 1362 1355, seed := BitVec.ofNat 32 (bits n 1338 1307),
        fflags := BitVec.ofNat 6 (bits n 1306 1301), rmode := rmodeOf (bits n 1300 1298),
        regs := (List.range e.f.regs.length).map fun k => x.xferWord (64 + k) }
      .done 0 [] (s.setF f))

/-! ## Stall samples (R247, R340) -/

/-- The stall reason that a waiting fibre gives: for one at a word or a header the reason for which it was found to wait, none for one that could
run (R247). The table names none for a wait at a peer window, a direct Exclusive access, a tile access, or a Harp act that is no stalled push: each gives 3, as
a wait for a horizon. DESIGN CHOICE, safe, log 56. -/
def stallOf (f : Fibre) : Option Nat :=
  if f.halted then some 2
  else match f.st with
    | .enter => f.held
    | .run => f.held
    | .tile => f.held
    | .keyed => f.held
    | .parked _ _ => some 1
    | .turn _ _ => some 3
    | .atom _ => some 3
    | .peer _ => some 3
    | .excl => some 3
    | .bar _ _ _ => some 4
    | .conv _ => some 11
    | .fork _ _ _ => some 11
    | .harp _ => some 3
    | .hstall _ _ _ _ _ _ => some 13
    | .hsync _ _ _ => some 13
    | .sbwait _ _ _ _ => some 14

/-- The reason of a warp: that it issued, or the lowest that applies to one of its fibres. A fibre that could run may have issued, or its fetch or
its issue slot or an entry of the engine queue is wanting: that is timing (R181, R247). DESIGN CHOICE, safe, log 56. -/
def warpStall (n : Nat) (fs : List Fibre) : Nat :=
  let waits := fs.filterMap stallOf
  let c := [0, 8, 9, 12].getD (Config.stallReason n % 4) 0
  if fs.any fun f => (stallOf f).isNone then (if c = 0 then 0 else waits.foldl min c) else waits.foldl min 15

/-- The fibre of lowest key among some. -/
def lowestKey (l : Launch) : List Fibre → Option Fibre
  | [] => none
  | f :: r => match lowestKey l r with
    | none => some f
    | some g => if keyLt (keyAt l g.ref g.clk) (keyAt l f.ref f.clk) then some g else some f

/-- The occupied slot that follows the last one taken, in rotation (R340). -/
def nextSlot (used : List Nat) (last : Nat) : Option Nat :=
  ((List.range 48).map fun k => (last + 1 + k) % 48).find? used.contains

/-- The first word with an original index at or after word i of form k of a residual kernel, or the next mapped boundary; next is where the last
form looked at goes on if it has several ways, or none (R261). DEDUCED, safe, log 31. -/
def indexedFrom (x : PressEntry) : Nat → Nat → Nat → BitVec 57 → BitVec 57 × Nat
  | 0, _, _, next => (next, 0)
  | n + 1, k, i, next => match x.forms[k]? with
    | none => (next, 0)
    | some y => match (y.kept.filter (i ≤ ·)).min? with
      | some j => (y.addr, j)
      | none => match y.links with
        | [(a, m)] => if (x.forms[m]?).all (·.mapped) then (a, 0) else indexedFrom x n m 0 a
        | _ => (next, 0)

/-- The original clause and word at which a fibre stands: those of its record where it is parked, the header that it is about to enter with word
0; in residual code a word that gives way to materialising ones counts as the next that has an original index (R261, R291). -/
def Launch.standsAt (l : Launch) (f : Fibre) : BitVec 57 × Nat :=
  match f.st with
  | .parked r _ => (r.oaddr, r.widx)
  | .enter => (f.atHeader.pc, f.atHeader.widx)
  | _ => match l.residual, f.form with
    | some x, some k => indexedFrom x x.forms.length k f.widx f.npc
    | _, _ => (f.pc, f.widx)

/-- STALL_SAMPLE: core k of a partition takes its next occupied warp slot and records that slot's reason (R247, R340). DEDUCED, safe, log
46; DESIGN CHOICE, safe, log 56. -/
def execStallSample (n k : Nat) (s : State) : Host.Outcome State Fault Refusal :=
  runAct s (do
    let p ← s.part? n
    let last := ((p.rot.find? fun x => x.1 = k).map (·.2)).getD 47
    let ws := (s.onCore n k).flatMap fun x => (s.warps.filter fun v => v.wref = x.2.ref ∧ ¬ (s.warpFibres v.wref v.j).isEmpty).map fun v => (x.1, v)
    let slot ← nextSlot (ws.map fun x => x.2.slot) last
    let v ← ws.find? fun x => x.2.slot = slot
    let fs := s.warpFibres v.2.wref v.2.j
    let f ← lowestKey v.1 fs
    let t := s.updP n fun y => { y with rot := (k, slot) :: y.rot.filter fun x => x.1 ≠ k }
    some (t.sample n 2 (toBytes 32 (Config.localCycle s.tick k % 2 ^ 32 + k * 2 ^ 96 + warpStall s.tick fs * 2 ^ 104
      + sampleHead f.clk (v.1.standsAt f).1 (v.1.standsAt f).2 (warpId v.1 f.ref) f.ref.lane))))

end Sys2Proof.Machine
end

