-- ==== Sys2Proof/Machine/Device.lean ====
section
/-! DEFINITION. Boot, identity, power and thermal steps, and the host link's protection (R286, R287, R342, R355 to R359). -/

namespace Sys2Proof.Machine

/-! ## Boot (R286, R358, R359) -/

/-- The cause of a boot failure (R359). -/
def imageCause : Config.ImageFault → Nat
  | .signature => 1
  | .version => 2
  | .length => 3

/-- The images that pass in release order, and the order number and cause of the one that fails. -/
def releaseImages (boot : Nat) : Nat → Nat × Nat × Nat
  | 0 => (0, 0, 0)
  | n + 1 =>
    let r := releaseImages boot n
    if r.2.1 ≠ 0 then r
    else match Config.imageCheck boot (n + 1) with
      | none => (n + 1, 0, 0)
      | some c => (n, n + 1, imageCause c)

/-- BOOT: the root-of-trust core derives the identity key and measures, verifies and releases the six images in order; the first that
fails stops it, with its order number and cause (R286, R358, R359). DEDUCED, safe, log 61. -/
def execBoot (s : State) : Host.Outcome State Fault Refusal :=
  runAct s (
    if s.boot.released ≠ 0 ∨ s.boot.failOrder ≠ 0 then none
    else
      let n := s.boot.boots.toNat + 1
      let r := releaseImages n 6
      some { s with boot := { s.boot with released := r.1, failOrder := r.2.1, failCause := r.2.2, boots := s.boot.boots + 1, deviceId := devId,
                                          digests := (List.range r.1).map fun k => toBytes 32 (Config.imageDigest n (k + 1)).toNat } })

/-- SPDM_REQUEST: a message to the root-of-trust core sets up the IDE keys; then IDE is active and CXL.mem requests are accepted (R281,
R342). DEDUCED, unsafe, log 47; DEDUCED, safe, log 61. -/
def execSpdmRequest (s : State) : Host.Outcome State Fault Refusal :=
  runAct s (some { s with boot := { s.boot with ide := true } })

/-! ## Identity (R286, R287) -/

/-- The number of a partition's quads with a fenced unit: a core, the quad, or a bank of its vault (R287). -/
def State.fencedQuads (s : State) (p : Partition) : Nat :=
  (p.quads.filter fun q => s.fenced.any fun u =>
    decide ((u.utype = 0 ∧ u.unit / 4 = q) ∨ (u.utype = 4 ∧ u.unit = q) ∨ (u.utype = 1 ∧ u.unit / 16 = q))).length

/-- The 256-byte attestation report body (R287). -/
def reportBody (s : State) (p : Partition) (nonce : List Byte) : List Byte :=
  let gen := (s.keySlots.getD p.id { loaded := false, gen := 0 }).gen
  toBytes 128 ((p.quads.map fun q => 2 ^ q).sum * 2 ^ 960 + s.fencedQuads p * 2 ^ 944 + p.id * 2 ^ 928 + gen.toNat * 2 ^ 896
      + s.boot.boots.toNat * 2 ^ 864 + 1 * 2 ^ 832)
    ++ cfgDigest s p ++ digestOf s.boot.digests.flatten ++ devId ++ nonce

/-- ATTEST: the nonce in the transfer area is answered by the report and its signature; refused for a partition id not in use
(R287). -/
def execAttest (s : State) : Host.Outcome State Fault Refusal :=
  runMgmt s .attest fun a =>
    match s.part? (a 0) with
    | none => .done 2 [] s
    | some p => .done 0 [] (s.putXfer (signed s.tick (reportBody s p (s.xferBytes 0 32))))

/-- READ_CERTIFICATE: the identity certificate and its length (R286, R347). -/
def execReadCertificate (s : State) : Host.Outcome State Fault Refusal :=
  runMgmt s .readCertificate fun _ =>
    if xferLen < Config.certificate.length then .done 3 [] s
    else .done 0 [BitVec.ofNat 32 Config.certificate.length] (s.putXfer Config.certificate)

/-! ## Power and temperature (R327, R355 to R357) -/

/-- A die takes a state; leaving off clears its vaults, and a lower run level ends the wait for one (R327, R355). -/
def State.setDie (s : State) (n : Nat) (d : Die) (st : Nat) : State :=
  let lower := d.waiting && decide (st < d.state)
  { s with dies := setAt s.dies n { d with state := st, waiting := d.waiting && !lower, critical := d.critical && !lower },
           mem := if d.state = 10 ∧ st ≠ 10 then zeroQuads s.mem ((List.range 16).map fun k => 16 * n + k) else s.mem }

/-- The die's part of the boot sequence: the image of its processor, the fifth in order, is measured, and the processor is released from it; its
measurement takes the place of the record kept (R355, R358). DESIGN CHOICE, unsafe, log 61. -/
def State.dieBooted (s : State) (n : Nat) : State :=
  { s with boot := { s.boot.restart (4 + n) with digests := setAt s.boot.digests 4 (toBytes 32 (Config.measured s.tick (4 + n)).toNat) } }

/-- A workgroup is placed on a die (R355). -/
def State.dieBusy (s : State) (n : Nat) : Bool :=
  s.wgs.any fun w => match w.core, s.launch? w.ref.launch with
    | some k, some l => match s.part? l.part with
      | some p => decide (p.quads.getD (k / 4) 0 / 16 = n)
      | none => false
    | _, _ => false

/-- A set-power-state command for a die: state lo to hi, refused when busy says so. A die that leaves off repeats its part of the boot sequence; where
its image fails a check the die stays off, the failure is reported as one of booting, and the command answers 2 (R355, R359). DESIGN CHOICE, unsafe,
log 61. -/
def runPower (s : State) (i : Instr) (lo hi : Nat) (refused : Nat → Bool) : Host.Outcome State Fault Refusal :=
  runMgmt s i fun a =>
    match s.dies[a 0]? with
    | none => .done 1 [] s
    | some d =>
      if a 1 < lo ∨ hi < a 1 then .done 1 [] s
      else if refused (a 0) then .done 2 [] s
      else if d.state = 10 ∧ a 1 ≠ 10 then
        match Config.dieCheck s.tick (a 0) with
        | some c => .done 2 [] { s with boot := { s.boot with failOrder := 5, failCause := imageCause c } }
        | none => .done 0 [] ((s.setDie (a 0) d (a 1)).dieBooted (a 0))
      else .done 0 [] (s.setDie (a 0) d (a 1))

/-- SET_POWER_STATE_RUN_LEVEL: L0 to L7, at once (R355). -/
def execSetPowerStateRunLevel (s : State) : Host.Outcome State Fault Refusal := runPower s .setPowerStateRunLevel 0 7 fun _ => false

/-- SET_POWER_STATE_IDLE: refused while a workgroup is placed on the die (R355). -/
def execSetPowerStateIdle (s : State) : Host.Outcome State Fault Refusal := runPower s .setPowerStateIdle 8 8 s.dieBusy

/-- SET_POWER_STATE_RETENTION: refused while a workgroup is placed on the die (R355). -/
def execSetPowerStateRetention (s : State) : Host.Outcome State Fault Refusal := runPower s .setPowerStateRetention 9 9 s.dieBusy

/-- SET_POWER_STATE_OFF: refused while a partition holds a quad of the die (R355). -/
def execSetPowerStateOff (s : State) : Host.Outcome State Fault Refusal :=
  runPower s .setPowerStateOff 10 10 fun n => s.parts.any fun p => p.quads.any fun q => q / 16 = n

/-- THERMAL_WARNING: the die's warning bit; the device takes no action (R356). -/
def execThermalWarning (die : Nat) (s : State) : Host.Outcome State Fault Refusal :=
  runAct s (do
    let d ← s.dies[die]?
    some { s with dies := setAt s.dies die { d with warning := true } })

/-- POWER_METER_WINDOW: a window of 2^20 cycles ends with a mean power in watts; above the partition's limit, the next window skips the
cycles that bring the mean back, as few whole ones as do (R357). DEDUCED, safe, log 45. -/
def execPowerMeterWindow (n energy : Nat) (s : State) : Host.Outcome State Fault Refusal :=
  runAct s (do
    let p ← s.part? n
    some (s.updP n fun x =>
      { x with throttle := if p.powerLimit = 0 ∨ energy ≤ p.powerLimit then 0 else (2 ^ 20 * (energy - p.powerLimit) + energy - 1) / energy }))

end Sys2Proof.Machine
end

