-- ==== Sys2Proof/Machine/Dispatch.lean ====
section
/-! DEFINITION. Which meaning each instruction has: one arm per constructor, each one direct call. -/

namespace Sys2Proof.Machine

/-- The effect of one instruction or device step. An instruction word acts in the fibre that `cur` names. -/
def exec (i : Instr) (s : State) : Host.Outcome State Fault Refusal :=
  match i with
  | .add d a b g => Sys2Proof.Machine.execAdd d a b g s
  | .sub d a b g => Sys2Proof.Machine.execSub d a b g s
  | .mul d a b g => Sys2Proof.Machine.execMul d a b g s
  | .mulh d a b g => Sys2Proof.Machine.execMulh d a b g s
  | .mulhu d a b g => Sys2Proof.Machine.execMulhu d a b g s
  | .mad d a b g => Sys2Proof.Machine.execMad d a b g s
  | .and d a b g => Sys2Proof.Machine.execAnd d a b g s
  | .or d a b g => Sys2Proof.Machine.execOr d a b g s
  | .xor d a b g => Sys2Proof.Machine.execXor d a b g s
  | .shl d a b g => Sys2Proof.Machine.execShl d a b g s
  | .shr d a b g => Sys2Proof.Machine.execShr d a b g s
  | .sar d a b g => Sys2Proof.Machine.execSar d a b g s
  | .min d a b g => Sys2Proof.Machine.execMin d a b g s
  | .max d a b g => Sys2Proof.Machine.execMax d a b g s
  | .minu d a b g => Sys2Proof.Machine.execMinu d a b g s
  | .maxu d a b g => Sys2Proof.Machine.execMaxu d a b g s
  | .adds d a b g => Sys2Proof.Machine.execAdds d a b g s
  | .subs d a b g => Sys2Proof.Machine.execSubs d a b g s
  | .abs d a g => Sys2Proof.Machine.execAbs d a g s
  | .neg d a g => Sys2Proof.Machine.execNeg d a g s
  | .clz d a g => Sys2Proof.Machine.execClz d a g s
  | .popc d a g => Sys2Proof.Machine.execPopc d a g s
  | .brev d a g => Sys2Proof.Machine.execBrev d a g s
  | .bfe d a b g => Sys2Proof.Machine.execBfe d a b g s
  | .bfi d a b g => Sys2Proof.Machine.execBfi d a b g s
  | .sel d a b p => Sys2Proof.Machine.execSel d a b p s
  | .div d a b g => Sys2Proof.Machine.execDiv d a b g s
  | .divu d a b g => Sys2Proof.Machine.execDivu d a b g s
  | .rem d a b g => Sys2Proof.Machine.execRem d a b g s
  | .remu d a b g => Sys2Proof.Machine.execRemu d a b g s
  | .addw d a b g => Sys2Proof.Machine.execAddw d a b g s
  | .subw d a b g => Sys2Proof.Machine.execSubw d a b g s
  | .shlw d a b g => Sys2Proof.Machine.execShlw d a b g s
  | .mov d a g => Sys2Proof.Machine.execMov d a g s
  | .dp4a d a b g => Sys2Proof.Machine.execDp4a d a b g s
  | .addi d a imm => Sys2Proof.Machine.execAddi d a imm s
  | .andi d a imm => Sys2Proof.Machine.execAndi d a imm s
  | .ori d a imm => Sys2Proof.Machine.execOri d a imm s
  | .xori d a imm => Sys2Proof.Machine.execXori d a imm s
  | .shli d a imm => Sys2Proof.Machine.execShli d a imm s
  | .shri d a imm => Sys2Proof.Machine.execShri d a imm s
  | .sari d a imm => Sys2Proof.Machine.execSari d a imm s
  | .muli d a imm => Sys2Proof.Machine.execMuli d a imm s
  | .addwi d a imm => Sys2Proof.Machine.execAddwi d a imm s
  | .movi d imm => Sys2Proof.Machine.execMovi d imm s
  | .li d g lit => Sys2Proof.Machine.execLi d g lit s
  | .icmpEq d a b g => Sys2Proof.Machine.execIcmpEq d a b g s
  | .icmpNe d a b g => Sys2Proof.Machine.execIcmpNe d a b g s
  | .icmpLt d a b g => Sys2Proof.Machine.execIcmpLt d a b g s
  | .icmpLe d a b g => Sys2Proof.Machine.execIcmpLe d a b g s
  | .icmpLtu d a b g => Sys2Proof.Machine.execIcmpLtu d a b g s
  | .icmpLeu d a b g => Sys2Proof.Machine.execIcmpLeu d a b g s
  | .icmpiEq d a imm => Sys2Proof.Machine.execIcmpiEq d a imm s
  | .icmpiNe d a imm => Sys2Proof.Machine.execIcmpiNe d a imm s
  | .icmpiLt d a imm => Sys2Proof.Machine.execIcmpiLt d a imm s
  | .icmpiLe d a imm => Sys2Proof.Machine.execIcmpiLe d a imm s
  | .icmpiLtu d a imm => Sys2Proof.Machine.execIcmpiLtu d a imm s
  | .icmpiLeu d a imm => Sys2Proof.Machine.execIcmpiLeu d a imm s
  | .shfl d a b g => Sys2Proof.Machine.execShfl d a b g s
  | .shflx d a b g => Sys2Proof.Machine.execShflx d a b g s
  | .bcast d a b g => Sys2Proof.Machine.execBcast d a b g s
  | .voteany d a g => Sys2Proof.Machine.execVoteany d a g s
  | .voteall d a g => Sys2Proof.Machine.execVoteall d a g s
  | .ballot d a g => Sys2Proof.Machine.execBallot d a g s
  | .redadd d a g => Sys2Proof.Machine.execRedadd d a g s
  | .redmin d a g => Sys2Proof.Machine.execRedmin d a g s
  | .redmax d a g => Sys2Proof.Machine.execRedmax d a g s
  | .scanadd d a g => Sys2Proof.Machine.execScanadd d a g s
  | .elect d g => Sys2Proof.Machine.execElect d g s
  | .electw d g => Sys2Proof.Machine.execElectw d g s
  | .lid d g => Sys2Proof.Machine.execLid d g s
  | .movs d a g => Sys2Proof.Machine.execMovs d a g s
  | .rdsr d imm => Sys2Proof.Machine.execRdsr d imm s
  | .wrsr a imm => Sys2Proof.Machine.execWrsr a imm s
  | .uadd d a b g => Sys2Proof.Machine.execUadd d a b g s
  | .usub d a b g => Sys2Proof.Machine.execUsub d a b g s
  | .umul d a b g => Sys2Proof.Machine.execUmul d a b g s
  | .uand d a b g => Sys2Proof.Machine.execUand d a b g s
  | .uor d a b g => Sys2Proof.Machine.execUor d a b g s
  | .uxor d a b g => Sys2Proof.Machine.execUxor d a b g s
  | .ushl d a b g => Sys2Proof.Machine.execUshl d a b g s
  | .ushr d a b g => Sys2Proof.Machine.execUshr d a b g s
  | .uaddw d a b g => Sys2Proof.Machine.execUaddw d a b g s
  | .umov d a g => Sys2Proof.Machine.execUmov d a g s
  | .uget d a b g => Sys2Proof.Machine.execUget d a b g s
  | .uaddi d a imm => Sys2Proof.Machine.execUaddi d a imm s
  | .uli d g lit => Sys2Proof.Machine.execUli d g lit s
  | .pand d a b g => Sys2Proof.Machine.execPand d a b g s
  | .por d a b g => Sys2Proof.Machine.execPor d a b g s
  | .pxor d a b g => Sys2Proof.Machine.execPxor d a b g s
  | .pandn d a b g => Sys2Proof.Machine.execPandn d a b g s
  | .pset d imm => Sys2Proof.Machine.execPset d imm s
  | .pget d g => Sys2Proof.Machine.execPget d g s
  | .pput a g => Sys2Proof.Machine.execPput a g s
  | .fadd d a b g => Sys2Proof.Machine.execFadd d a b g s
  | .fsub d a b g => Sys2Proof.Machine.execFsub d a b g s
  | .fmul d a b g => Sys2Proof.Machine.execFmul d a b g s
  | .ffma d a b g => Sys2Proof.Machine.execFfma d a b g s
  | .ffms d a b g => Sys2Proof.Machine.execFfms d a b g s
  | .fmin d a b g => Sys2Proof.Machine.execFmin d a b g s
  | .fmax d a b g => Sys2Proof.Machine.execFmax d a b g s
  | .fabs d a g => Sys2Proof.Machine.execFabs d a g s
  | .fneg d a g => Sys2Proof.Machine.execFneg d a g s
  | .fdiv d a b g => Sys2Proof.Machine.execFdiv d a b g s
  | .fsqrt d a g => Sys2Proof.Machine.execFsqrt d a g s
  | .frcp d a g => Sys2Proof.Machine.execFrcp d a g s
  | .frsq d a g => Sys2Proof.Machine.execFrsq d a g s
  | .fex2 d a g => Sys2Proof.Machine.execFex2 d a g s
  | .flg2 d a g => Sys2Proof.Machine.execFlg2 d a g s
  | .frnd d a g => Sys2Proof.Machine.execFrnd d a g s
  | .fcls d a g => Sys2Proof.Machine.execFcls d a g s
  | .fscl d a b g => Sys2Proof.Machine.execFscl d a b g s
  | .fcmpEq d a b g => Sys2Proof.Machine.execFcmpEq d a b g s
  | .fcmpLt d a b g => Sys2Proof.Machine.execFcmpLt d a b g s
  | .fcmpLe d a b g => Sys2Proof.Machine.execFcmpLe d a b g s
  | .fcmpUn d a b g => Sys2Proof.Machine.execFcmpUn d a b g s
  | .hadd2 d a b g => Sys2Proof.Machine.execHadd2 d a b g s
  | .hmul2 d a b g => Sys2Proof.Machine.execHmul2 d a b g s
  | .hfma2 d a b g => Sys2Proof.Machine.execHfma2 d a b g s
  | .badd2 d a b g => Sys2Proof.Machine.execBadd2 d a b g s
  | .bmul2 d a b g => Sys2Proof.Machine.execBmul2 d a b g s
  | .bfma2 d a b g => Sys2Proof.Machine.execBfma2 d a b g s
  | .dp2h d a b g => Sys2Proof.Machine.execDp2h d a b g s
  | .dp2b d a b g => Sys2Proof.Machine.execDp2b d a b g s
  | .cvtfi d a g => Sys2Proof.Machine.execCvtfi d a g s
  | .cvtfu d a g => Sys2Proof.Machine.execCvtfu d a g s
  | .cvtif d a g => Sys2Proof.Machine.execCvtif d a g s
  | .cvtuf d a g => Sys2Proof.Machine.execCvtuf d a g s
  | .cvth d a b g => Sys2Proof.Machine.execCvth d a b g s
  | .cvthl d a g => Sys2Proof.Machine.execCvthl d a g s
  | .cvthh d a g => Sys2Proof.Machine.execCvthh d a g s
  | .cvtb d a b g => Sys2Proof.Machine.execCvtb d a b g s
  | .cvtbl d a g => Sys2Proof.Machine.execCvtbl d a g s
  | .cvtbh d a g => Sys2Proof.Machine.execCvtbh d a g s
  | .cvte4 d a b g => Sys2Proof.Machine.execCvte4 d a b g s
  | .cvte4f d a g => Sys2Proof.Machine.execCvte4f d a g s
  | .cvte5 d a b g => Sys2Proof.Machine.execCvte5 d a b g s
  | .cvte5f d a g => Sys2Proof.Machine.execCvte5f d a g s
  | .setrm imm => Sys2Proof.Machine.execSetrm imm s
  | .nop g => Sys2Proof.Machine.execNop g s
  | .prep t x => Sys2Proof.Machine.execPrep t x s
  | .prepr d a g => Sys2Proof.Machine.execPrepr d a g s
  | .jmp t g => Sys2Proof.Machine.execJmp t g s
  | .call t g f => Sys2Proof.Machine.execCall t g f s
  | .ret g f => Sys2Proof.Machine.execRet g f s
  | .fork t g a => Sys2Proof.Machine.execFork t g a s
  | .halt g => Sys2Proof.Machine.execHalt g s
  | .wsync g => Sys2Proof.Machine.execWsync g s
  | .bar imm => Sys2Proof.Machine.execBar imm s
  | .arv imm => Sys2Proof.Machine.execArv imm s
  | .bwait imm => Sys2Proof.Machine.execBwait imm s
  | .cede g => Sys2Proof.Machine.execCede g s
  | .waitne a b g => Sys2Proof.Machine.execWaitne a b g s
  | .clk imm => Sys2Proof.Machine.execClk imm s
  | .trap imm => Sys2Proof.Machine.execTrap imm s
  | .brk g => Sys2Proof.Machine.execBrk g s
  | .ph flags live0 live1 spst splen => Sys2Proof.Machine.execPh flags live0 live1 spst splen s
  | .icinv a b g => Sys2Proof.Machine.execIcinv a b g s
  | .dbgm d a g => Sys2Proof.Machine.execDbgm d a g s
  | .mmf tile da db mode id pre0 pre1 org kd => Sys2Proof.Machine.execMmf tile da db mode id pre0 pre1 org kd s
  | .mmt tile da db mode id pre0 pre1 org kd => Sys2Proof.Machine.execMmt tile da db mode id pre0 pre1 org kd s
  | .mzero d g => Sys2Proof.Machine.execMzero d g s
  | .mld d a imm => Sys2Proof.Machine.execMld d a imm s
  | .mst d a imm => Sys2Proof.Machine.execMst d a imm s
  | .mcommit g => Sys2Proof.Machine.execMcommit g s
  | .mwait imm => Sys2Proof.Machine.execMwait imm s
  | .mrd d a b g => Sys2Proof.Machine.execMrd d a b g s
  | .mwr d a b g => Sys2Proof.Machine.execMwr d a b g s
  | .mscale d a g => Sys2Proof.Machine.execMscale d a g s
  | .ldb d a imm => Sys2Proof.Machine.execLdb d a imm s
  | .ldsb d a imm => Sys2Proof.Machine.execLdsb d a imm s
  | .ldh d a imm => Sys2Proof.Machine.execLdh d a imm s
  | .ldsh d a imm => Sys2Proof.Machine.execLdsh d a imm s
  | .ldw d a imm => Sys2Proof.Machine.execLdw d a imm s
  | .ldd d a imm => Sys2Proof.Machine.execLdd d a imm s
  | .ldq d a imm => Sys2Proof.Machine.execLdq d a imm s
  | .stb d a imm => Sys2Proof.Machine.execStb d a imm s
  | .sth d a imm => Sys2Proof.Machine.execSth d a imm s
  | .stw d a imm => Sys2Proof.Machine.execStw d a imm s
  | .std d a imm => Sys2Proof.Machine.execStd d a imm s
  | .stq d a imm => Sys2Proof.Machine.execStq d a imm s
  | .uldw d a imm => Sys2Proof.Machine.execUldw d a imm s
  | .uldd d a imm => Sys2Proof.Machine.execUldd d a imm s
  | .pf a imm => Sys2Proof.Machine.execPf a imm s
  | .pin a b g => Sys2Proof.Machine.execPin a b g s
  | .unpin a b g => Sys2Proof.Machine.execUnpin a b g s
  | .ldbx d a b g => Sys2Proof.Machine.execLdbx d a b g s
  | .ldhx d a b g => Sys2Proof.Machine.execLdhx d a b g s
  | .ldwx d a b g => Sys2Proof.Machine.execLdwx d a b g s
  | .lddx d a b g => Sys2Proof.Machine.execLddx d a b g s
  | .stbx d a b g => Sys2Proof.Machine.execStbx d a b g s
  | .sthx d a b g => Sys2Proof.Machine.execSthx d a b g s
  | .stwx d a b g => Sys2Proof.Machine.execStwx d a b g s
  | .stdx d a b g => Sys2Proof.Machine.execStdx d a b g s
  | .amoadd d a b g => Sys2Proof.Machine.execAmoadd d a b g s
  | .amomin d a b g => Sys2Proof.Machine.execAmomin d a b g s
  | .amomax d a b g => Sys2Proof.Machine.execAmomax d a b g s
  | .amominu d a b g => Sys2Proof.Machine.execAmominu d a b g s
  | .amomaxu d a b g => Sys2Proof.Machine.execAmomaxu d a b g s
  | .amoand d a b g => Sys2Proof.Machine.execAmoand d a b g s
  | .amoor d a b g => Sys2Proof.Machine.execAmoor d a b g s
  | .amoxor d a b g => Sys2Proof.Machine.execAmoxor d a b g s
  | .amoxchg d a b g => Sys2Proof.Machine.execAmoxchg d a b g s
  | .amocas d a b g => Sys2Proof.Machine.execAmocas d a b g s
  | .amofadd d a b g => Sys2Proof.Machine.execAmofadd d a b g s
  | .amofmin d a b g => Sys2Proof.Machine.execAmofmin d a b g s
  | .amofmax d a b g => Sys2Proof.Machine.execAmofmax d a b g s
  | .amoaddw d a b g => Sys2Proof.Machine.execAmoaddw d a b g s
  | .turn g => Sys2Proof.Machine.execTurn g s
  | .cpy crb da mode g db sba aux flags => Sys2Proof.Machine.execCpy crb da mode g db sba aux flags s
  | .cpyr crb da mode g db sba aux flags => Sys2Proof.Machine.execCpyr crb da mode g db sba aux flags s
  | .gath crb da mode g db sba aux flags => Sys2Proof.Machine.execGath crb da mode g db sba aux flags s
  | .scat crb da mode g db sba aux flags => Sys2Proof.Machine.execScat crb da mode g db sba aux flags s
  | .sbinit a b g => Sys2Proof.Machine.execSbinit a b g s
  | .sbexp a b g => Sys2Proof.Machine.execSbexp a b g s
  | .sbarv a b g => Sys2Proof.Machine.execSbarv a b g s
  | .sbwait a b g => Sys2Proof.Machine.execSbwait a b g s
  | .sbtest d a b g => Sys2Proof.Machine.execSbtest d a b g s
  | .dset a imm => Sys2Proof.Machine.execDset a imm s
  | .wdset a g => Sys2Proof.Machine.execWdset a g s
  | .wdq a b g => Sys2Proof.Machine.execWdq a b g s
  | .hopen a b g => Sys2Proof.Machine.execHopen a b g s
  | .hpush d a b g => Sys2Proof.Machine.execHpush d a b g s
  | .hclose a g => Sys2Proof.Machine.execHclose a g s
  | .hnext d a g => Sys2Proof.Machine.execHnext d a g s
  | .hdone a b g => Sys2Proof.Machine.execHdone a b g s
  | .hsync a g => Sys2Proof.Machine.execHsync a g s
  | .clauseEntry f => Sys2Proof.Machine.execClauseEntry f s
  | .convergencePointExecute f => Sys2Proof.Machine.execConvergencePointExecute f s
  | .convergenceFault f => Sys2Proof.Machine.execConvergenceFault f s
  | .waitDeadlock l => Sys2Proof.Machine.execWaitDeadlock l s
  | .harpStall w => Sys2Proof.Machine.execHarpStall w s
  | .longLatencyResult f n => Sys2Proof.Machine.execLongLatencyResult f n s
  | .turnCompletion f => Sys2Proof.Machine.execTurnCompletion f s
  | .publicationApply l n => Sys2Proof.Machine.execPublicationApply l n s
  | .atomicPerform f => Sys2Proof.Machine.execAtomicPerform f s
  | .barrierExit f => Sys2Proof.Machine.execBarrierExit f s
  | .forkLaneDecision f => Sys2Proof.Machine.execForkLaneDecision f s
  | .engineCommandExecute l n => Sys2Proof.Machine.execEngineCommandExecute l n s
  | .stageBarrierActApply w a => Sys2Proof.Machine.execStageBarrierActApply w a s
  | .phaseSettle w a => Sys2Proof.Machine.execPhaseSettle w a s
  | .matrixCommandEffect w n => Sys2Proof.Machine.execMatrixCommandEffect w n s
  | .wdqAnswer l n => Sys2Proof.Machine.execWdqAnswer l n s
  | .harpActApply f => Sys2Proof.Machine.execHarpActApply f s
  | .icinvApply l n => Sys2Proof.Machine.execIcinvApply l n s
  | .packetFetch q => Sys2Proof.Machine.execPacketFetch q s
  | .acceptance q => Sys2Proof.Machine.execAcceptance q s
  | .pressBuild l => Sys2Proof.Machine.execPressBuild l s
  | .workgroupPlacement l => Sys2Proof.Machine.execWorkgroupPlacement l s
  | .workgroupExit w => Sys2Proof.Machine.execWorkgroupExit w s
  | .completionRecordWrite l => Sys2Proof.Machine.execCompletionRecordWrite l s
  | .rotationSave w => Sys2Proof.Machine.execRotationSave w s
  | .rotationRestore w => Sys2Proof.Machine.execRotationRestore w s
  | .warpPromotion w j => Sys2Proof.Machine.execWarpPromotion w j s
  | .permitAudit link permits flits slots => Sys2Proof.Machine.execPermitAudit link permits flits slots s
  | .hostFaultQueueEntry x => Sys2Proof.Machine.execHostFaultQueueEntry x s
  | .stopQueuePost f => Sys2Proof.Machine.execStopQueuePost f s
  | .resumeFault p tag => Sys2Proof.Machine.execResumeFault p tag s
  | .abortFault p tag => Sys2Proof.Machine.execAbortFault p tag s
  | .continueStop p tag => Sys2Proof.Machine.execContinueStop p tag s
  | .endStop p tag => Sys2Proof.Machine.execEndStop p tag s
  | .drainComplete l => Sys2Proof.Machine.execDrainComplete l s
  | .hostAbort l => Sys2Proof.Machine.execHostAbort l s
  | .preEmpt => Sys2Proof.Machine.execPreEmpt s
  | .preemptionBudgetExpiry l => Sys2Proof.Machine.execPreemptionBudgetExpiry l s
  | .workgroupSave w => Sys2Proof.Machine.execWorkgroupSave w s
  | .restoreLaunch => Sys2Proof.Machine.execRestoreLaunch s
  | .createPartition => Sys2Proof.Machine.execCreatePartition s
  | .destroyPartition => Sys2Proof.Machine.execDestroyPartition s
  | .grantGranule => Sys2Proof.Machine.execGrantGranule s
  | .createContext => Sys2Proof.Machine.execCreateContext s
  | .destroyContext => Sys2Proof.Machine.execDestroyContext s
  | .loadDecodeTable => Sys2Proof.Machine.execLoadDecodeTable s
  | .loadDescriptors => Sys2Proof.Machine.execLoadDescriptors s
  | .allocateExtents => Sys2Proof.Machine.execAllocateExtents s
  | .freeExtents => Sys2Proof.Machine.execFreeExtents s
  | .pageTableAdd => Sys2Proof.Machine.execPageTableAdd s
  | .pageTableMove => Sys2Proof.Machine.execPageTableMove s
  | .pageTableRestrict => Sys2Proof.Machine.execPageTableRestrict s
  | .restrictTakesEffect p c => Sys2Proof.Machine.execRestrictTakesEffect p c s
  | .assignQueue => Sys2Proof.Machine.execAssignQueue s
  | .stepMark => Sys2Proof.Machine.execStepMark s
  | .stepPolicy => Sys2Proof.Machine.execStepPolicy s
  | .snapshotSlots => Sys2Proof.Machine.execSnapshotSlots s
  | .exportSnapshot => Sys2Proof.Machine.execExportSnapshot s
  | .restoreSnapshot => Sys2Proof.Machine.execRestoreSnapshot s
  | .setPowerStateRunLevel => Sys2Proof.Machine.execSetPowerStateRunLevel s
  | .setPowerStateIdle => Sys2Proof.Machine.execSetPowerStateIdle s
  | .setPowerStateRetention => Sys2Proof.Machine.execSetPowerStateRetention s
  | .setPowerStateOff => Sys2Proof.Machine.execSetPowerStateOff s
  | .attest => Sys2Proof.Machine.execAttest s
  | .readCertificate => Sys2Proof.Machine.execReadCertificate s
  | .bindPort => Sys2Proof.Machine.execBindPort s
  | .setPowerLimit => Sys2Proof.Machine.execSetPowerLimit s
  | .setResidencyQuota => Sys2Proof.Machine.execSetResidencyQuota s
  | .notifyWrite p q t => Sys2Proof.Machine.execNotifyWrite p q t s
  | .queueConfigure p q ctl => Sys2Proof.Machine.execQueueConfigure p q ctl s
  | .ringEnable p r v => Sys2Proof.Machine.execRingEnable p r v s
  | .ringTailWrite p r t => Sys2Proof.Machine.execRingTailWrite p r t s
  | .evtailWrite p t => Sys2Proof.Machine.execEvtailWrite p t s
  | .registerWrite p off v => Sys2Proof.Machine.execRegisterWrite p off v s
  | .hostWindowWrite p off bytes => Sys2Proof.Machine.execHostWindowWrite p off bytes s
  | .hostWriteTakesEffect p => Sys2Proof.Machine.execHostWriteTakesEffect p s
  | .hostWindowRead p off len => Sys2Proof.Machine.execHostWindowRead p off len s
  | .forwardFrame link frame => Sys2Proof.Machine.execForwardFrame link frame s
  | .residencyReport link => Sys2Proof.Machine.execResidencyReport link s
  | .dbgAttach p => Sys2Proof.Machine.execDbgAttach p s
  | .dbgDetach p => Sys2Proof.Machine.execDbgDetach p s
  | .dbgHalt p => Sys2Proof.Machine.execDbgHalt p s
  | .dbgResume p => Sys2Proof.Machine.execDbgResume p s
  | .dbgStep p => Sys2Proof.Machine.execDbgStep p s
  | .dbgStepComplete f => Sys2Proof.Machine.execDbgStepComplete f s
  | .dbgSetBreakpoint p => Sys2Proof.Machine.execDbgSetBreakpoint p s
  | .dbgClearBreakpoint p => Sys2Proof.Machine.execDbgClearBreakpoint p s
  | .dbgSetWatchpoint p => Sys2Proof.Machine.execDbgSetWatchpoint p s
  | .dbgClearWatchpoint p => Sys2Proof.Machine.execDbgClearWatchpoint p s
  | .dbgReadFibre p => Sys2Proof.Machine.execDbgReadFibre p s
  | .dbgWriteFibre p => Sys2Proof.Machine.execDbgWriteFibre p s
  | .workgroupHaltComplete w => Sys2Proof.Machine.execWorkgroupHaltComplete w s
  | .stallSample p core => Sys2Proof.Machine.execStallSample p core s
  | .errorWindowStart u => Sys2Proof.Machine.execErrorWindowStart u s
  | .correctedError u => Sys2Proof.Machine.execCorrectedError u s
  | .uncorrectableError u => Sys2Proof.Machine.execUncorrectableError u s
  | .fence u => Sys2Proof.Machine.execFence u s
  | .healthRecordPost => Sys2Proof.Machine.execHealthRecordPost s
  | .criticalThermalLimit die => Sys2Proof.Machine.execCriticalThermalLimit die s
  | .thermalWarning die => Sys2Proof.Machine.execThermalWarning die s
  | .watchdogFailure proc => Sys2Proof.Machine.execWatchdogFailure proc s
  | .rootOfTrustFault => Sys2Proof.Machine.execRootOfTrustFault s
  | .rollback p => Sys2Proof.Machine.execRollback p s
  | .replayComplete p => Sys2Proof.Machine.execReplayComplete p s
  | .stepTimerExpiry p => Sys2Proof.Machine.execStepTimerExpiry p s
  | .snapshotStart p => Sys2Proof.Machine.execSnapshotStart p s
  | .snapshotPageCopy p page => Sys2Proof.Machine.execSnapshotPageCopy p page s
  | .snapshotComplete p => Sys2Proof.Machine.execSnapshotComplete p s
  | .dualRunDigestCompare p => Sys2Proof.Machine.execDualRunDigestCompare p s
  | .powerMeterWindow p energy => Sys2Proof.Machine.execPowerMeterWindow p energy s
  | .boot => Sys2Proof.Machine.execBoot s
  | .peerWindowAccess f => Sys2Proof.Machine.execPeerWindowAccess f s
  | .directExclusiveAccess f => Sys2Proof.Machine.execDirectExclusiveAccess f s
  | .spdmRequest => Sys2Proof.Machine.execSpdmRequest s

end Sys2Proof.Machine
end

