-- ==== Sys2Proof/Machine/Sched.lean ====
section
/-! DEFINITION. One step of the device: how the word at which a fibre stands is run (R31, R41, R48, R334 to R339), how an input lands
(R345 to R353), which acts the parts of the device can make, and which of them goes next. -/

namespace Sys2Proof.Machine

/-! ## A word (R31, R41, R48, R334, R337, R339) -/

/-- The instruction at which the fibre stands, none where the encoding is illegal (R31, R32, R48). -/
def Fibre.instr? (f : Fibre) (tab : Nat → Option Nat) : Option Instr :=
  let ws := f.words.drop f.widx
  match decodeWith tab ws with
  | .ok i rest => if placeOk ((tab (f.word.toNat / 2 ^ 22)).getD 0) f.hdr.toNat rest.isEmpty then some i else none
  | .bad _ => none

/-- An illegal encoding: a fault where it is guarded on, a no-op of the instruction's weight where it is not (R41, R48). -/
def State.illegal (s : State) (e : Env) : State :=
  let tab := e.l.dtab.look
  let w := e.f.word
  if e.f.pred (guardWith tab w e.f.cg) then s.park e 0x08 0 0 else s.pass s e e.f (lenWith tab w) (weightWith tab w)

/-- The fibre executes the word at which it stands: first the breakpoint check, unless it is in a wait of the word (R337). -/
def State.runAt (s : State) (e : Env) : Host.Outcome State Fault Refusal :=
  match (if e.f.suppress ∨ e.f.pass ∨ e.f.wne.isSome ∨ e.f.st = .tile ∨ e.f.st = .keyed then none else s.brkAt e.l e.f) with
  | some n => .next (s.park e 0x1A 0 (BitVec.ofNat 64 n))
  | none => match e.f.instr? e.l.dtab.look with
    | some i => exec i { s with cur := e.f.ref }
    | none => .next (s.illegal e)

/-- The fibre stops for the halt of its workgroup (R334). -/
def State.haltHere (s : State) (f : Fibre) : State := (s.setF { f with halted := true }).ticked

/-- The outcome parks the fibre with a debug stop. -/
def debugParked (r : FRef) : Host.Outcome State Fault Refusal → Bool
  | .next t => match t.fibre? r with
    | some f => f.unreported
    | none => false
  | _ => false

/-- What the word of a fibre does where nothing of another fibre holds it: this shows whether a watchpoint catches it (R338). -/
def State.alone (s : State) (e : Env) : Host.Outcome State Fault Refusal :=
  let f := { e.f with stepping := .off, held := none, peers := List.range 4 }
  { s with fibres := [f] }.runAt { e with f := f }

/-- The address with which such a word stops at a watchpoint (R338). -/
def watchInfo (r : FRef) : Host.Outcome State Fault Refusal → Option (BitVec 64)
  | .next t => match t.fibre? r with
    | some f => match f.st with
      | .parked q _ => if q.code = 0x1B then some q.info else none
      | _ => none
    | none => none
  | _ => none

/-- The reason for which such a word still waits, so that its checks are not known: a register that has not arrived. -/
def waitInfo (r : FRef) : Host.Outcome State Fault Refusal → Option Nat
  | .next t => (t.fibre? r).bind (·.held)
  | _ => none

/-- The fibre is found to wait at its word. -/
def State.noteWait (s : State) (f : Fibre) (why : Nat) : State := if f.held = some why then s else (s.setF { f with held := some why }).ticked

/-- A running fibre of a workgroup that is halting, at the clock of its debug stops, stops unless its word is a stop too, and waits until that is
known; below that clock it runs on, and above it stops (R333, R334). DEDUCED, unsafe, log 52. -/
def State.haltOr (s : State) (e : Env) (act : Host.Outcome State Fault Refusal) : Host.Outcome State Fault Refusal :=
  if e.f.stepping ≠ .off ∨ e.f.halted then act
  else match e.w.halt with
    | .none => act
    | .halting (some c) =>
      if e.f.clk < c then act
      else if e.f.clk = c ∧ debugParked e.f.ref act then act
      else if e.f.clk = c ∧ e.f.st ≠ .enter then
        match watchInfo e.f.ref (s.alone e), waitInfo e.f.ref (s.alone e) with
        | some x, _ => .next (s.park e 0x1B 0 x)
        | none, some why => .next (s.noteWait e.f why)
        | none, none => .next (s.haltHere e.f)
      else .next (s.haltHere e.f)
    | _ => .next (s.haltHere e.f)

/-- A fibre about to enter a clause: in a halting workgroup it enters at or below the clock of the debug stops, so that the first word is
checked there (R334). DEDUCED, unsafe, log 52. -/
def State.enterAct (s : State) (e : Env) : Host.Outcome State Fault Refusal :=
  match e.w.halt with
  | .halting (some c) =>
    if e.f.stepping ≠ .off ∨ e.f.halted ∨ e.f.clk ≤ c then execClauseEntry e.f.ref s else .next (s.haltHere e.f)
  | _ => s.haltOr e (execClauseEntry e.f.ref s)

/-- The end of a step, before the next word: where a watchpoint catches that word its stop is raised in place of the step's own; a breakpoint comes
first (R336, R338, R339). DEDUCED, unsafe, log 53. -/
def State.stepEnd (s : State) (e : Env) : Host.Outcome State Fault Refusal :=
  let f := { e.f with stepping := .off, suppress := false }
  let o := s.alone { e with f := f }
  match watchInfo e.f.ref o, waitInfo e.f.ref o with
  | some x, _ => .next (s.park { e with f := f } 0x1B 0 x)
  | none, some why => .next (s.noteWait e.f why)
  | none, none => execDbgStepComplete e.f.ref s

/-- What a fibre that stands at a word or a header does. -/
def wordAct (r : FRef) (s : State) : Host.Outcome State Fault Refusal :=
  match s.env? r with
  | none => .next s
  | some e =>
    if e.f.stepping = .moving ∧ e.f.st = .run then s.stepEnd e
    else if e.f.st = .run ∨ e.f.st = .keyed then s.haltOr e (if e.canRun then s.runAt e else .next s)
    else if e.f.st = .enter then s.enterAct e
    else if e.canRun then s.runAt e
    else .next s

/-- None of some fibres can run its word or enter a clause. -/
def State.wordsStill (s : State) (fs : List Fibre) : Bool := fs.all fun f => !s.canDo (wordAct f.ref)

/-- The reason for which a fibre at its word or header is found to wait there, none where it can go on (R247). -/
def State.heldAt (s : State) (f : Fibre) : Option Nat :=
  match wordAct f.ref s with
  | .next t => if t.tick = s.tick then f.held else match t.fibre? f.ref with
    | some g => if g.st = f.st ∧ g.clk = f.clk ∧ g.widx = f.widx then g.held else none
    | none => none
  | _ => f.held

/-- A fibre stands at a word or a header. -/
def Fibre.atWord (f : Fibre) : Bool := decide (f.st = .run ∨ f.st = .enter ∨ f.st = .tile ∨ f.st = .keyed)

/-- The fibre at its word or header is found to wait there, or not to (R247). -/
def State.knowHeld (s : State) (f : Fibre) : State := if f.atWord then s.setF { f with held := s.heldAt f } else s

/-- Each saved fibre of a launch at its word or header is found to wait there, or not to, as if it stood on a core (R151, R294). DEDUCED, safe,
log 33. -/
def State.knowSaved (s : State) (l : LRef) : State :=
  let off := fun (f : Fibre) => match s.wg? f.ref.wref with
    | some w => w.core.isNone
    | none => false
  let t := s.allOnCores l
  ((s.launchFibres l).filter fun f => off f && f.atWord).foldl (fun u f => u.setF { f with held := t.heldAt f }) s

/-! ## Inputs (R345 to R354) -/

/-- An answer word is written (R350). -/
def answerAct (p : Nat) (v : Word) (s : State) : Host.Outcome State Fault Refusal :=
  let w := v.toNat
  let tag := bits w 23 16
  if ¬ answerOk v then execRegisterWrite p 0x5300 v s
  else if (s.part? p).isNone ∨ ¬ s.boot.ide then .next s.ticked
  else if bits w 31 24 = 0 then (if bits w 7 0 = 1 then execResumeFault p tag s else execAbortFault p tag s)
  else if bits w 7 0 = 1 then execContinueStop p tag s
  else execEndStop p tag s

/-- A word is written to a partition page (R348). DESIGN CHOICE, unsafe, log 3; DEDUCED, unsafe, log 50. -/
def pageAct (p off : Nat) (v : Word) (s : State) : Host.Outcome State Fault Refusal :=
  if off < 0x400 ∧ off % 4 = 0 then execNotifyWrite p (off / 4) v s
  else if 0x1000 ≤ off ∧ off < 0x5000 ∧ off % 64 = 0 then execQueueConfigure p ((off - 0x1000) / 64) (v.setWidth 64) s
  else if off = 0x5044 then execEvtailWrite p v s
  else if 0x5200 ≤ off ∧ off < 0x52A0 ∧ off % 32 = 4 then execRingTailWrite p ((off - 0x5200) / 32) v s
  else if 0x5200 ≤ off ∧ off < 0x52A0 ∧ off % 32 = 20 then execRingEnable p ((off - 0x5200) / 32) (v.setWidth 64 <<< 32) s
  else if off = 0x5300 then answerAct p v s
  else execRegisterWrite p off v s

/-- An input lands: a double word is one write of `CTL` or of the word of `EN`, and elsewhere two words, low one first. DESIGN CHOICE,
unsafe, log 3. -/
def land (x : Input) (s : State) : Host.Outcome State Fault Refusal :=
  match x with
  | .mgmt off v => if off = 0x104 then execRingTailWrite mgmtPage 5 v s else execRegisterWrite mgmtPage off v s
  | .page p off v => pageAct p off v s
  | .page64 p off v =>
    if 0x1000 ≤ off ∧ off < 0x5000 ∧ off % 64 = 0 then execQueueConfigure p ((off - 0x1000) / 64) v s
    else if 0x5200 ≤ off ∧ off < 0x52A0 ∧ off % 32 = 16 then execRingEnable p ((off - 0x5200) / 32) v s
    else pageAct p off (lo32 v) { s with inbox := .page p (off + 4) (hi32 v) :: s.inbox }
  | .write p off bs => execHostWindowWrite p off bs s
  | .read p off n => execHostWindowRead p off n s
  | .frame l bs => execForwardFrame l bs s
  | .report l => execResidencyReport l s
  | .window u => execErrorWindowStart u s
  | .corrected u => execCorrectedError u s
  | .uncorrected u => execUncorrectableError u s
  | .rotFault => execRootOfTrustFault s
  | .watchdog n => execWatchdogFailure n s
  | .audit l a b c => execPermitAudit l a b c s
  | .critical d => execCriticalThermalLimit d s
  | .warning d => execThermalWarning d s
  | .timer p => execStepTimerExpiry p s
  | .power p n => execPowerMeterWindow p n s
  | .sample p k => execStallSample p k (((s.onCore p k).flatMap fun x => s.wgFibres x.2.ref).foldl State.knowHeld s)
  | .budget l => execPreemptionBudgetExpiry l s
  | .abort l => execHostAbort l s
  | .spdm => execSpdmRequest s

/-- The oldest input lands; one that finds nothing to do is gone all the same. DESIGN CHOICE, unsafe, log 3. -/
def inboxAct (s : State) : Host.Outcome State Fault Refusal :=
  match s.inbox with
  | [] => .next s
  | x :: r => match land x { s with inbox := r } with
    | .next t => .next { t with tick := s.tick + 1 }
    | y => y

/-! ## The acts of the device -/

/-- An act of some part of the device. -/
abbrev Act := State → Host.Outcome State Fault Refusal

/-- The acts of a fibre besides its words. -/
def fibreActs (f : Fibre) : List Act :=
  let r := f.ref
  (match f.st with
    | .enter => []
    | .run => []
    | .turn _ _ => [execTurnCompletion r]
    | .conv _ => [execConvergencePointExecute r, execConvergenceFault r]
    | .bar _ _ _ => [execBarrierExit r, execConvergenceFault r]
    | .atom _ => [execAtomicPerform r]
    | .fork _ _ _ => [execForkLaneDecision r, execConvergenceFault r]
    | .tile => []
    | .keyed => []
    | .peer _ => [execPeerWindowAccess r]
    | .excl => [execDirectExclusiveAccess r]
    | .sbwait _ _ _ _ => []
    | .harp _ => [execHarpActApply r]
    | .hstall _ _ _ _ _ _ => [execHarpActApply r]
    | .hsync _ _ _ => [execHarpActApply r]
    | .parked _ _ => [execHostFaultQueueEntry (.fibre r), execStopQueuePost r])
  ++ (List.range f.outs.length).map fun n => execLongLatencyResult r n

/-- None of a launch's fibres can run a word, a saved one as if it stood on a core. -/
def State.launchStill (s : State) (l : LRef) : Bool := (s.allOnCores l).wordsStill (s.launchFibres l)

/-- MATRIX_COMMAND_EFFECT as the schedule offers it: in a launch that drains, once none of its fibres can run a word, wherever it is saved
(R294). -/
def matrixAct (l : LRef) (w : WRef) (n : Nat) (s : State) : Host.Outcome State Fault Refusal :=
  if (s.launch? l).any (·.draining) then
    if (s.knowSaved l).launchStill l then execMatrixCommandEffect w n (s.knowSaved l) else .next s
  else execMatrixCommandEffect w n s

/-- DRAIN_COMPLETE as the schedule offers it: once none of the launch's fibres can run a word, wherever it is saved (R294). -/
def drainAct (l : LRef) (s : State) : Host.Outcome State Fault Refusal :=
  if (s.launch? l).any (·.draining) && (s.knowSaved l).launchStill l then execDrainComplete l (s.knowSaved l) else .next s

/-- WORKGROUP_HALT_COMPLETE as the schedule offers it: once none of a halting workgroup's fibres can run a word (R334). -/
def haltAct (w : WRef) (s : State) : Host.Outcome State Fault Refusal :=
  if (s.wg? w).any (fun x => x.halt ≠ .halted) && !s.wordsStill (s.wgFibres w) then .next s else execWorkgroupHaltComplete w s

/-- An act of the rotation as the schedule offers it: what saved fibres could do is known (R151). DEDUCED, safe, log 33. -/
def rotationAct (act : WRef → State → Host.Outcome State Fault Refusal) (w : WRef) (s : State) : Host.Outcome State Fault Refusal :=
  act w (s.knowSaved w.launch)

/-- The acts of a workgroup. -/
def wgActs (s : State) (w : Workgroup) : List Act :=
  (w.sbars.flatMap fun b => [execStageBarrierActApply w.ref b.addr, execPhaseSettle w.ref b.addr])
    ++ ((w.mcmds.filter fun c => !c.done).map fun c => matrixAct w.ref.launch w.ref c.n)
    ++ ((s.warps.filter fun v => v.wref = w.ref).map fun v => execWarpPromotion w.ref v.j)
    ++ [execHarpStall w.ref, execWorkgroupExit w.ref, rotationAct execRotationSave w.ref, rotationAct execRotationRestore w.ref, execWorkgroupSave w.ref,
        haltAct w.ref]

/-- The acts of a launch. -/
def launchActs (l : Launch) : List Act :=
  ((List.range l.pubs.length).map fun n => execPublicationApply l.ref n)
    ++ ((l.ecmds.filter fun c => !c.done).flatMap fun c => [execEngineCommandExecute l.ref c.n, execHostFaultQueueEntry (.engine l.ref c.n)])
    ++ ((l.wdqs.filter fun q => !q.done).map fun q => execWdqAnswer l.ref q.n)
    ++ ((l.icinvs.filter fun v => v.bytes.isNone).map fun v => execIcinvApply l.ref v.n)
    ++ [execWorkgroupPlacement l.ref, execCompletionRecordWrite l.ref, execPressBuild l.ref, execWaitDeadlock l.ref, drainAct l.ref]

/-- The act of the debugger's command under way; the answer to a step waits while the stepped fibre can run its instruction
(R330, R331, R336). -/
def dbgActs (p : Partition) : List Act :=
  match p.dbgBusy with
  | some 0x01 => [execDbgAttach p.id]
  | some 0x02 => [execDbgDetach p.id]
  | some 0x03 => [execDbgHalt p.id]
  | some 0x04 => [execDbgResume p.id]
  | some 0x05 => [fun s =>
      let a := fun (n : Nat) => (p.dbgCmd.getD (n + 1) 0).toNat
      match (s.launch? ⟨a 0 % 256, a 1⟩).map fun l => (⟨⟨l.ref, a 2⟩, a 3 % l.warps, a 4⟩ : FRef) with
      | some r => if p.dbgBegun && s.canDo (wordAct r) then .next s else execDbgStep p.id s
      | none => execDbgStep p.id s]
  | some 0x06 => [execDbgSetBreakpoint p.id]
  | some 0x07 => [execDbgClearBreakpoint p.id]
  | some 0x08 => [execDbgSetWatchpoint p.id]
  | some 0x09 => [execDbgClearWatchpoint p.id]
  | some 0x0A => [execDbgReadFibre p.id]
  | some 0x0B => [execDbgWriteFibre p.id]
  | _ => []

/-- The acts of a partition. -/
def partActs (p : Partition) : List Act :=
  dbgActs p ++ [execHostWriteTakesEffect p.id, execRollback p.id, execReplayComplete p.id, execDualRunDigestCompare p.id,
      execSnapshotStart p.id, execSnapshotComplete p.id]
    ++ (p.ctxs.map fun c => execRestrictTakesEffect p.id c.id)
    ++ ((p.snaps.filter fun x => !x.complete).flatMap fun x => x.todo.map fun g => execSnapshotPageCopy p.id g)

/-- The acts of the operator's side: the command under way, records, fences, boot, and reports that are due. -/
def deviceActs (s : State) : List Act :=
  [execBoot, execHealthRecordPost] ++ (match s.mgmt.busy with
    | some i => [exec i]
    | none => []) ++ (s.mgmt.toFence.map fun u => execFence u)
    ++ ((s.ports.filter fun x => x.report).map fun x => execResidencyReport x.link)

/-- Every act that the device might make in a state. DESIGN CHOICE, safe, log 2; DESIGN CHOICE, safe, log 59. -/
def State.acts (s : State) : List Act :=
  (s.fibres.map fun f => wordAct f.ref) ++ s.fibres.flatMap fibreActs ++ s.wgs.flatMap (wgActs s) ++ s.launches.flatMap launchActs
    ++ (s.queues.flatMap fun q => if q.part.isSome then [execPacketFetch q.id, execAcceptance q.id] else [])
    ++ s.parts.flatMap partActs ++ deviceActs s ++ [inboxAct]

/-- The first act of a list that does something; when none does, time passes. DESIGN CHOICE, safe, log 1; DESIGN CHOICE, safe, log 2. -/
def firstDone (s : State) : List Act → Host.Outcome State Fault Refusal
  | [] => .next s.ticked
  | a :: r => match a s with
    | .next t => if t.tick = s.tick then firstDone s r else .next t
    | x => x

/-- The choice of an act: the schedule's next number, or else the step counter, says where the search among the acts begins. Every order
of acts that the spec leaves open is that of some schedule. DESIGN CHOICE, safe, log 2; DESIGN CHOICE, safe, log 59. -/
def stepState (s : State) : Host.Outcome State Fault Refusal :=
  let acts := s.acts
  let k := (match s.sched with
    | [] => s.tick
    | n :: _ => n) % acts.length
  firstDone { s with sched := s.sched.tail } (acts.drop k ++ acts.take k)

end Sys2Proof.Machine
end

