-- ==== Sys2Proof/Machine/Place.lean ====
section
/-! DEFINITION. A state in which a given instruction is the next that runs: what loading a program, launching it and entering its
clause leave behind, for one fibre and one instruction (R17, R30, R265, R270, R351). -/

namespace Sys2Proof.Machine

/-- The launch of a placed instruction: one workgroup of one warp of one fibre, with 64 registers, 4 KiB of scratchpad and 16 tiles.
DEDUCED, safe, log 6; DESIGN CHOICE, safe, log 8. -/
def placedLaunch : Launch :=
  { ref := ⟨0, 0⟩, part := 0, ctx := 0, pgx := 1, pgy := 1, pgz := 1, gx := 1, gy := 1, gz := 1, warps := 1, fibres := 1, regs := 64,
    scratch := 16, tiles := 16, qlog := 10, order := true, gang := false, noPress := true, lseed := 0, entry := 0x100000000#57, data := 0,
    dataLen := 0, args := [], smap := [], doneAddr := 0, defOrdered := true, ranges := [], sets := [(0, [(0, 0)])], dtab := .native,
    dbase := [], acc := 1, stamp := 1, old := [], next := 1, exits := [], pubs := [], bars := [], ecmds := [], icinvs := [], dist := [],
    wdqs := [], fresh := 1, draining := false, preempt := none }

/-- The context of a placed instruction. DESIGN CHOICE, safe, log 8. -/
def placedContext : Context :=
  { id := 0, root := 0, quota := 0, dtab := .native, descs := [], extents := [], pins := [], newDtab := none, newDescs := none, held := [] }

/-- Its partition: quad 0 and granule 0. DESIGN CHOICE, safe, log 8. -/
def placedPartition : Partition := { newPartition 0 [0] with granules := [0], ctxs := [placedContext], accs := 1, notifies := 1 }

/-- Its workgroup, on core 0. -/
def placedWg : Workgroup := placedLaunch.newWg 0 0

/-- Its warp. -/
def placedWarp : Warp := { wref := ⟨⟨0, 0⟩, 0⟩, j := 0, sregs := List.replicate 64 0, slot := 0, active := true, halts := [] }

/-- The header of a clause of one instruction: its words, its class, and `T` for a transfer (R28). -/
def placedHeader (op len : Nat) : Word :=
  BitVec.ofNat 32 (len * 2 ^ 28 + ((clsOf op).map clsCode).getD 0 * 2 ^ 25 + (if isTransferOp op then 2 ^ 24 else 0))

/-- The fibre that stands at the first word of a clause. DESIGN CHOICE, safe, log 8. -/
def placedFibre (hdr : Word) (ws : List Word) : Fibre :=
  { placedLaunch.newFibre ⟨⟨⟨0, 0⟩, 0⟩, 0, 0⟩ 0 with
    hdr := hdr, words := ws, st := .run, npc := placedLaunch.entry + BitVec.ofNat 57 (4 * (1 + ws.length)) }

/-- The state with an instruction's words as the clause in which its one fibre stands; the schedule names that fibre. DEDUCED, safe, log
6. -/
def State.placeWord (s : State) (nbits w : Nat) : State :=
  let all := wordsOfBytes (tableBytes nbits w)
  let len := lenWith nativeTable (all.getD 0 0)
  let f := placedFibre (placedHeader (bits w 31 22) len) (all.take len)
  { s with sched := 0 :: s.sched, parts := placedPartition :: s.parts.filter (fun p => p.id ≠ 0),
           launches := placedLaunch :: s.launches.filter (fun l => l.ref ≠ ⟨0, 0⟩),
           wgs := placedWg :: s.wgs.filter (fun v => v.ref.launch ≠ ⟨0, 0⟩),
           warps := placedWarp :: s.warps.filter (fun v => v.wref.launch ≠ ⟨0, 0⟩),
           fibres := f :: s.fibres.filter (fun g => g.ref.wref.launch ≠ ⟨0, 0⟩) }

end Sys2Proof.Machine
end

