-- ==== Sys2Proof/Machine/Step.lean ====
section
/-! DEFINITION. The step of the machine, and a state in which a given instruction is the next to run. -/

namespace Sys2Proof.Machine

/-- One step: one act of the device. -/
def step (s : State) : Host.Outcome State Fault Refusal := stepState s

/-- A state in which the instruction of a table word is the next that step runs: partition 0 with quad 0, a launch of one fibre, and that
instruction as the fibre's fetched clause (R17, R30). DEDUCED, safe, log 6. -/
def State.withFetchWord (s : State) (nbits w : Nat) : State := s.placeWord nbits w

end Sys2Proof.Machine
end

