-- ==== Sys2Proof/Safety.lean ====
section
/-! DEFINITION. What a sound state of the machine is, and the terms in which claims about words and acts are stated: a fibre about
to run its word, operands that are there, and what a word may leave changed. -/

namespace Sys2Proof.Machine

/-! ## Sound states -/

/-- The sparse memories of a workgroup are in canonical form. -/
def Workgroup.memOk (w : Workgroup) : Bool := memWf w.spad && memWf w.desc

/-- The descriptor tables of a context are in canonical form. -/
def Context.memOk (c : Context) : Bool := memWf c.descs && c.newDescs.all memWf

/-- A journalled descriptor table is in canonical form. -/
def JRec.memOk : JRec → Bool
  | .descs _ _ m => memWf m
  | _ => true

/-- The tables of a snapshot are in canonical form. -/
def Snapshot.memOk (x : Snapshot) : Bool := x.ctxs.all Context.memOk

/-- The tables that a partition holds are in canonical form. -/
def Partition.memOk (p : Partition) : Bool :=
  p.ctxs.all Context.memOk && p.journal.all JRec.memOk && p.snaps.all Snapshot.memOk && p.replay.all fun r => r.recs.all JRec.memOk

/-- Every sparse memory of the device is in canonical form: equal memories are equal lists. -/
def State.memOk (s : State) : Bool :=
  memWf s.mem && memWf s.mgmt.xfer && s.wgs.all Workgroup.memOk && s.launches.all (fun l => memWf l.dbase) && s.parts.all Partition.memOk

/-- The constant predicates read as the spec says: `p0` is 1 and `p1` is 0 (R17). -/
def Fibre.constOk (f : Fibre) : Bool := f.preds.getLsbD 0 && !f.preds.getLsbD 1

/-- A sound state: canonical memories, and constant predicates in every fibre. -/
def State.sound (s : State) : Bool := s.memOk && s.fibres.all Fibre.constOk

/-! ## A word about to run -/

/-- e is the current fibre with its surroundings as it executes its word: no stop, halt or save holds it, and of a wait of the word nothing
is noted any more. -/
def Runs (s : State) (e : Env) : Prop := ∃ e₀, s.env? s.cur = some e₀ ∧ e₀.canRun = true ∧ e = { e₀ with f := { e₀.f with held := none } }

/-- The word's weight leaves the clock below 2^56 (R19). -/
def Room (e : Env) (wt : Nat) : Prop := e.f.clk + wt < clockTop

/-- Every vector register listed lies in the fibre's allocation (R18). -/
def Held (f : Fibre) (rs : List Nat) : Prop := ∀ i ∈ rs, f.phys i < f.regs.length

/-- No result still outstanding will write a vector register listed (R42). -/
def Here (f : Fibre) (rs : List Nat) : Prop := ∀ i ∈ rs, f.awaits (f.phys i) = false

/-- The word runs in the current fibre, guarded on by predicate g, with room for its weight. -/
def RunsOn (s : State) (e : Env) (g wt : Nat) : Prop := Runs s e ∧ e.f.pred g = true ∧ Room e wt

/-- The state after a fibre, which holds the word's effect as f, has passed a word of len words and weight wt: it stands len words
further, its clock has risen by wt, and the words of its partition are counted (R45, R134, R341). t holds the word's other effects,
and e is the fibre before it. -/
def passed (t : State) (e : Env) (f : Fibre) (len wt : Nat) : State :=
  ((t.moveClock e.l (f.past len) (e.f.clk + wt)).count e.l.part 0 1).ticked

/-- The word i completes and leaves the fibre as f, one word and one clock further. -/
def Leaves (s : State) (e : Env) (i : Instr) (f : Fibre) : Prop := exec i s = .next (passed s e f 1 1)

/-- The word i completes with x in vector register d. -/
def Writes (s : State) (e : Env) (i : Instr) (d : Nat) (x : Word) : Prop := Leaves s e i (vset e.f d x)

/-- The word i completes with x in the pair of vector registers d. -/
def Writes2 (s : State) (e : Env) (i : Instr) (d : Nat) (x : BitVec 64) : Prop := Leaves s e i (vset2 e.f d x)

/-- The word i completes with a condition and its complement in the predicate pair d (R90). -/
def Tests (s : State) (e : Env) (i : Instr) (d : Nat) (b : Bool) : Prop := Leaves s e i (psetPair e.f d b)

/-- The word i completes with a floating-point result in vector register d, its flags merged (R84). -/
def Floats (s : State) (e : Env) (i : Instr) (d : Nat) (r : FR) : Prop :=
  Leaves s e i (vset (e.f.flag r.fl) d (BitVec.ofNat 32 r.bits))

/-- The word waits, for a stall reason of R247, and has no other effect. -/
def HeldFor (s : State) (e : Env) (i : Instr) (why : Nat) : Prop := exec i s = .next (s.hold e why)

/-- The word parks its fibre with a fault record, and has no other effect (R289). -/
def Faults (s : State) (e : Env) (i : Instr) (code cause : Nat) (info : BitVec 64) : Prop :=
  exec i s = .next (s.park e code cause info)

/-- The value of vector register i of a fibre. -/
def Fibre.val (f : Fibre) (i : Nat) : Word := f.regs.getD (f.phys i) 0

/-- The value of the pair of vector registers i, i + 1 (R18). -/
def Fibre.val2 (f : Fibre) (i : Nat) : BitVec 64 := pair64 (f.val i) (f.val (i + 1))

/-- The outstanding result that a long-latency arithmetic word leaves for v d (R46, R83). -/
def Fibre.late (f : Fibre) (d : Nat) (x : Word) : Fibre :=
  { f with outs := f.outs.map (Outst.drop (f.phys d)) ++
      [{ kind := .arith, dst := [some (f.phys d)], token := f.setTok, key := ⟨f.clk, 0, 0⟩, addr := 0, size := 0, sext := false,
         vals := some [x], rd := noRd, locs := [], oaddr := f.pc, widx := f.widx }] }

/-- r is an exact magnitude above 0, of sign neg, rounded once to the nearest value of the format, ties to even: a finite value, `NX` saying
that it differs, or infinity where the magnitude passes every finite one. The magnitude is known by how its double, in units of 2^q,
compares with each natural number (R59, R64, R67). -/
def Fmt.Nearest (t : Fmt) (neg : Bool) (r : FR) (q : Int) (cmp : Nat → Ordering) : Prop :=
  (r.fl &&& flagOF = 0 → ∃ k c, t.value r.bits = .fin neg k c ∧ let v := k * 2 ^ (c - q).toNat
    (r.fl &&& flagNX = 0 ↔ cmp (2 * v) = .eq) ∧
    ∀ p n' k' c', p < 2 ^ t.width → t.value p = .fin n' k' c' → let w := k' * 2 ^ (c' - q).toNat
      (v < w → cmp (v + w) ≠ .gt) ∧ (w < v → cmp (v + w) ≠ .lt) ∧ (v ≠ w → cmp (v + w) = .eq → r.bits % 2 = 0)) ∧
  (r.fl &&& flagOF ≠ 0 → r.fl &&& flagNX ≠ 0 ∧ r.bits = t.signed neg t.inf ∧
    ∀ p n' k' c', p < 2 ^ t.width → t.value p = .fin n' k' c' → cmp (2 * (k' * 2 ^ (c' - q).toNat)) = .gt)

/-! ## Convergence points -/

/-- The current fibre's arrival at point i. -/
def arrived (s : State) (e : Env) (i : Instr) : State := s.setF { e.f with st := .conv i }

/-- The live fibres of a scope that have arrived, with their surroundings. -/
def meeting (s : State) (sc : Scope) (e : Env) (i : Instr) : List Env :=
  ((arrived s e i).scopeOf sc e.f.ref).filterMap fun x => (arrived s e i).env? x.ref

/-- The current fibre runs point i, and it is the last of its scope to arrive; no pre-emption holds them in their wait (R15, R302). -/
def LastAt (s : State) (sc : Scope) (e : Env) (i : Instr) : Prop :=
  Runs s e ∧ e.l.preempt = none ∧ ((arrived s e i).scopeOf sc e.f.ref).all (waitsAt { e.f with st := .conv i } i) = true

/-- The fibres given pass a point of len words and weight wt, each holding the result of res, at their own clocks (R91). -/
def passEach (s : State) (es : List Env) (len wt : Nat) (res : Env → Fibre) : State :=
  es.foldl (fun t x => passed t x (res x) len wt) s

/-- A fibre guarded on holds its result, another one is as it was (R91). -/
def ifOn (g : Nat) (res : Env → Fibre) (x : Env) : Fibre := if x.f.pred g then res x else x.f

/-- The contributing fibres of a warp point, in ascending lanes (R91). -/
def lanesOn (g : Nat) (es : List Env) : List Env :=
  (List.range 32).flatMap fun k => es.filter fun x => x.f.ref.lane = k ∧ x.f.pred g

/-- The fibre that stands in a lane, or the reader itself where the lane is not live (R92). -/
def inLane (es : List Env) (lane : Nat) (me : Env) : Fibre := ((es.find? fun x => x.f.ref.lane = lane).getD me).f

/-- No uniform load of the warp is outstanding, so that its uniform registers can be read and written (R42, R160). -/
def Env.uniHere (e : Env) : Prop := e.p.uouts = []

/-- No uniform load of the warp has still to write one of the uniform registers listed (R42, R160). -/
def UniHere (e : Env) (rs : List Nat) : Prop := ∀ i ∈ rs, i ∉ e.p.uouts

/-- The current fibre completes point i, and every fibre that passes it has room for its weight. -/
def Completes (s : State) (sc : Scope) (e : Env) (i : Instr) (wt : Nat) : Prop :=
  LastAt s sc e i ∧ ∀ x ∈ meeting s sc e i, Room x wt

/-- Point i passes, and each fibre guarded on by g holds its result. -/
def Gives (s : State) (sc : Scope) (e : Env) (i : Instr) (g : Nat) (res : Env → Fibre) : Prop :=
  exec i s = .next (passEach (arrived s e i) (meeting s sc e i) 1 1 (ifOn g res)).ticked

/-- Warp point i of len words and as much weight, guarded by g, passes: the warp's uniform registers change once by upd when some
fibre is guarded on, and stay as they were when none is (R94, R97). -/
def GivesUniform (s : State) (e : Env) (i : Instr) (g len : Nat) (upd : Warp → Warp) : Prop :=
  exec i s = .next (passEach (if (meeting s .warp e i).any (fun x => x.f.pred g) then (arrived s e i).updWarp e.p.wref e.p.j upd
    else arrived s e i) (meeting s .warp e i) len len Env.f).ticked

/-! ## Memory words -/

/-- The fibre with one more outstanding result, which takes its destination registers over from earlier ones (R42, R46). -/
def Fibre.awaiting (f : Fibre) (o : Outst) : Fibre :=
  { f with outs := (o.dst.foldl (fun os d => match d with
      | some k => os.map (Outst.drop k)
      | none => os) f.outs) ++ [{ o with oaddr := f.pc, widx := f.widx }] }

/-- The outstanding load of n bytes at address ea into n / 4 registers, at least one, from v d: its values are there at once where the
location's class lets it be read directly (R141, R161). -/
def Env.loading (e : Env) (d n : Nat) (sext : Bool) (ea : BitVec 64) (acc : Acc) (vals : Option (List Word)) : Fibre :=
  e.f.awaiting
    { kind := .load, dst := e.f.dsts d (max 1 (n / 4)), token := e.f.setTok, key := e.key, addr := ea.toNat, size := n,
      sext := sext, vals := vals, rd := e.rd, locs := acc.locs }

/-- The registers from v d that hold n bytes, a narrow value in one register. -/
def regsOf (d n : Nat) : List Nat := (List.range (max 1 (n / 4))).map (d + ·)

/-- Byte k of the registers from v d, the lowest byte of each first (R5, R162). -/
def Fibre.byteOf (f : Fibre) (d k : Nat) : Byte := (f.val (d + k / 4)).extractLsb' (8 * (k % 4)) 8

/-- The byte that a fibre's pending stores hold for a location (R137). -/
def Fibre.pendAt (f : Fibre) (x : Loc) : Option Byte := (f.pend.find? fun b => b.loc = x).map (·.val)

/-- The pending stores of a fibre once it has stored the n bytes of v d at the locations of an access (R135, R137). -/
def Fibre.pendWith (f : Fibre) (d n : Nat) (acc : Acc) : List PByte :=
  (List.range n).foldl (fun p k => match acc.locs[k]? with
    | some x => putPend p ⟨acc.addr + k, x, f.byteOf d k⟩
    | none => p) f.pend

/-- The fibre is as it was but for its pending stores, which now hold the n bytes of v d at the locations given (R137, R162). -/
def StoresPending (f f' : Fibre) (d n : Nat) (locs : List Loc) : Prop :=
  { f' with pend := f.pend } = f ∧ (∀ k x, k < n → locs[k]? = some x → f'.pendAt x = some (f.byteOf d k)) ∧
  ∀ x, x ∉ locs → f'.pendAt x = f.pendAt x

/-- The machine's memory holds the n bytes of v d at the locations given, for the launch of e, and every other byte as it did (R141,
R162). -/
def StoresDirect (s t : State) (e : Env) (d n : Nat) (locs : List Loc) : Prop :=
  (∀ k x, k < n → locs[k]? = some x → t.baseByte e.l.ref x = e.f.byteOf d k) ∧ ∀ l x, x ∉ locs → t.baseByte l x = s.baseByte l x

/-! ## Commands and acts -/

/-- Word i of wt words and weight completes, its matrix command c queued behind those of its workgroup (R112, R113). -/
def Queues (s : State) (e : Env) (i : Instr) (wt : Nat) (c : MCmd) : Prop :=
  exec i s = .next (passed ((s.updL e.l.ref fun l => { l with fresh := l.fresh + 1 }).updW e.w.ref fun w => { w with mcmds := w.mcmds ++ [c] })
    e e.f wt wt)

/-- The command that a matrix word issues now on tile t: it carries the fibre's key, batch and view, and has not taken effect (R112). -/
def Env.mcmd (e : Env) (i : Instr) (t id : Nat) (pres : List Nat) (da db : Desc) (o0 o1 : Word) : MCmd :=
  { n := e.l.fresh, i := i, key := e.key, uid := e.f.uid, batch := e.f.commits, tile := t, id := id, pres := pres, da := da, db := db,
    o0 := o0, o1 := o1, rd := e.rd, done := false, src := (e.f.pc, e.f.widx) }

/-- Word i completes and queues act k on the stage barrier at address a, in key order (R183, R187). -/
def Acts (s : State) (e : Env) (i : Instr) (a : Nat) (k : SbKind) : Prop := exec i s = .next (passed (s.queueAct e a k) e e.f 1 1)

/-- Word i leaves its fibre waiting for its Harp act, as it was otherwise (R202). -/
def AwaitsHarp (s : State) (e : Env) (i : Instr) : Prop := exec i s = .next (s.setF { e.f with st := .harp i }).ticked

/-! ## Acts of the device -/

/-- Act i happens, and u is the state after it, but for the count of steps. -/
def Does (s : State) (i : Instr) (u : State) : Prop := exec i s = .next u.ticked

/-- Act i is not yet possible: it changes nothing. -/
def Waits (s : State) (i : Instr) : Prop := exec i s = .next s

/-- Every fibre given stands parked in u with a record of the code and its INFO, and is otherwise as it was in s (R289). -/
def AllParked (s u : State) (fs : List Fibre) (code : Nat) (info : Fibre → BitVec 64) : Prop :=
  ∀ g ∈ fs, ∃ x r, s.fibre? g.ref = some x ∧ u.fibre? g.ref = some { x with st := .parked r .no } ∧ r.code = code ∧ r.info = info g

/-- The fibre stands again at a word, or before its next clause, after a turn at clock t (R133). -/
def Fibre.resumed (f : Fibre) (t : Nat) : Fibre := { f with view := t, st := if f.words.length ≤ f.widx then .enter else .run }

/-- The fibre's workgroup stands on a core: no saved form of it is kept beside the fibre (R151, R304). -/
def OnCore (s : State) (r : FRef) : Prop := ∀ w, s.wg? r.wref = some w → w.core ≠ none ∧ w.image = none

/-! ## Packets and launches -/

/-- A packet of the partition has completed in u with a status and detail: the queue's numbers say so, and where its record's address
is aligned and translates for a write, the record stands there (R231, R234, R238). -/
def Completed (s u : State) (p : Partition) (c : Context) (q : Queue) (seq : Word) (status detail doneAddr : Nat) : Prop :=
  (∃ q', u.queue? q.id = some q' ∧ q'.doneSeq = (q.complete seq status).doneSeq ∧ q'.fails = (q.complete seq status).fails) ∧
  ∀ va pa, doneAddr % 16 = 0 → regionOf (BitVec.ofNat 64 doneAddr) = some (.glob va) → inArgs va = false →
    walkFrom s.mem p c va .write [4, 3, 2, 1, 0] c.root = .ok pa → memBytes u.mem pa 16 = recordBytes seq status detail

/-- Launch l has ended in u with a status: none of it is left, and its packet has completed (R238, R294). -/
def Ended (s u : State) (l : Launch) (status : Nat) : Prop :=
  u.launch? l.ref = none ∧ u.launchFibres l.ref = [] ∧ (∀ w ∈ u.wgs, w.ref.launch ≠ l.ref) ∧ (∀ v ∈ u.warps, v.wref.launch ≠ l.ref) ∧
  ∀ p c q, s.part? l.part = some p → p.ctx? l.ctx = some c → s.queue? l.ref.queue = some q → memWf s.mem = true →
    Completed s u p c q (BitVec.ofNat 32 l.ref.seq) status 0 l.doneAddr

/-! ## Commands of the host and the debugger -/

/-- Argument n of the management command under way (R347). -/
def State.arg (s : State) (n : Nat) : Nat := (s.mgmt.block.getD (n + 1) 0).toNat

/-- Arguments n and n + 1 as one value, low word first (R347). -/
def State.arg2 (s : State) (n : Nat) : Nat := s.arg n + s.arg (n + 1) * 2 ^ 32

/-- Management command i, under way, is answered now with a status and reply words, and u is the state after (R345, R347). -/
def Answers (s u : State) (i : Instr) (status : Nat) (ws : List Word) : Prop :=
  exec i s = .next u ∧ u.tick = s.tick + 1 ∧ u.mgmt.busy = none ∧ u.mgmt.reply = replyBlock s.mgmt.block status ws

/-- Management command i is refused with a status, and changes nothing (R347). -/
def Rejects (s : State) (i : Instr) (status : Nat) : Prop := exec i s = .next (s.reply status []).ticked

/-- Management command i is answered with status 0 and reply words; it leaves its partition as p' and all else but the answer as it
was. -/
def Changes (s : State) (i : Instr) (p p' : Partition) (ws : List Word) : Prop :=
  ∃ u, Answers s u i 0 ws ∧ u.part? p.id = some p' ∧ (∀ n, n ≠ p.id → u.part? n = s.part? n) ∧ u.mem = s.mem ∧ u.queues = s.queues ∧
    u.launches = s.launches ∧ u.fibres = s.fibres

/-- Management command i stands under way, about partition p. -/
def Asked (s : State) (i : Instr) (p : Partition) : Prop := s.mgmt.busy = some i ∧ s.part? (s.arg 0) = some p

/-- The same, about context c of partition p. -/
def AskedCtx (s : State) (i : Instr) (p : Partition) (c : Context) : Prop := Asked s i p ∧ p.ctx? (s.arg 1) = some c

/-- Argument n of the debugger's command under way in partition p (R330). -/
def Partition.dbgArg (p : Partition) (n : Nat) : Nat := (p.dbgCmd.getD (n + 1) 0).toNat

/-- The debugger's command with an opcode stands under way in partition p, and has not begun (R330). -/
def DbgAsked (s : State) (op : Nat) (p : Partition) : Prop := s.part? p.id = some p ∧ p.dbgBusy = some op ∧ p.dbgBegun = false

/-- It is answered now with a status in mailbox word 8, and u is the state after (R330). -/
def DbgAnswers (s u : State) (i : Instr) (p : Partition) (status : Nat) : Prop :=
  exec i s = .next u ∧ s.tick < u.tick ∧ ∃ y, u.part? p.id = some y ∧ y.dbgBusy = none ∧
    (p.mbox.length = 64 → y.mbox.getD 8 0 = BitVec.ofNat 32 (status * 2 ^ 24 + bits (p.dbgCmd.getD 0 0).toNat 23 16 * 2 ^ 16))

/-- It is answered with a status, and nothing else changes. -/
def DbgRejects (s : State) (i : Instr) (p : Partition) (status : Nat) : Prop :=
  exec i s = .next (s.updP p.id fun y => y.dbgReply status []).ticked

/-- Workgroup w of launch l is the one that the debugger's command names (R330). -/
def DbgNames (s : State) (p : Partition) (l : Launch) (w : Workgroup) : Prop :=
  s.launch? ⟨p.dbgArg 0 % 256, p.dbgArg 1⟩ = some l ∧ l.part = p.id ∧ s.wg? ⟨l.ref, p.dbgArg 2⟩ = some w

/-- e is the fibre that the debugger's command names (R330). -/
def DbgNamesFibre (s : State) (p : Partition) (e : Env) : Prop :=
  DbgNames s p e.l e.w ∧ p.dbgArg 3 / e.l.warps = e.w.ref.wg ∧ s.env? ⟨e.w.ref, p.dbgArg 3 % e.l.warps, p.dbgArg 4⟩ = some e

/-- The authority has decided in u: d waits to be posted, and the partitions that it rolls back or gives up have stopped, with none of
their launches left (R312, R319, R328). -/
def Decides (s u : State) (d : Decision) : Prop :=
  u.mgmt.held = s.mgmt.held ++ [d] ∧ u.mem = s.mem ∧
  ∀ n ∈ d.rollbacks ++ d.deads, (∀ y, u.part? n = some y → y.stopped = true) ∧ ∀ l ∈ u.launches, l.part ≠ n

/-- The partition, its work going on: neither stopped, unrecoverable, replaying nor held by a mark. -/
def Partition.plain (p : Partition) : Prop := p.stopped = false ∧ p.dead = false ∧ p.replay = none ∧ p.mark = none

/-! ## Frames -/

/-- g keeps the registers of f: every vector register but those of ds, the window, the branch targets, the rounding mode, the seed, the
next clause and the view. -/
def Fibre.keeps (f g : Fibre) (ds : List Nat) : Prop :=
  (∀ k, (∀ d ∈ ds, k ≠ f.phys d) → g.regs.getD k 0 = f.regs.getD k 0) ∧ g.wbase = f.wbase ∧ g.bregs = f.bregs ∧ g.rmode = f.rmode ∧
  g.seed = f.seed ∧ g.npc = f.npc ∧ g.view = f.view

/-- From s to t no byte of memory, no scratchpad, tile, barrier or stream of a workgroup, no uniform register and no other fibre changes,
and the fibre of e becomes one that ok admits. -/
def OnlyFibre (s t : State) (e : Env) (ok : Fibre → Prop) : Prop :=
  t.mem = s.mem ∧ t.wgs = s.wgs ∧ t.warps = s.warps ∧ (∀ q, q ≠ e.f.ref → t.fibre? q = s.fibre? q) ∧ ∃ g, t.fibre? e.f.ref = some g ∧ ok g

/-- From s to t every fibre keeps its vector registers, window, predicates, branch targets and next clause. -/
def RegistersStay (s t : State) : Prop :=
  ∀ q f, s.fibre? q = some f → ∃ g, t.fibre? q = some g ∧ g.regs = f.regs ∧ g.wbase = f.wbase ∧ g.preds = f.preds ∧ g.bregs = f.bregs ∧ g.npc = f.npc

end Sys2Proof.Machine
end

