-- ==== Sys2Proof/Certificates/Slice0/Obligations.lean ====
section
/-! DEFINITION. The statements about the model, in the terms of Sys2Proof.Safety: results in the spec's own arithmetic, each for
every state and operand that its premises admit. -/

open Sys2Proof Sys2Proof.Machine


/-! ## Encoding, decoding and the step (R32 to R52) -/

/-- Words that the spec spells out as examples, and words of the vector, lane, control and memory families written from their encodings:
the instruction that each stands for (R33 to R39, R52). -/
def Obligations.DecodeWords : Prop :=
  decode [0x1F0407FF#32] = .ok (.icmpiLtu 4 1 0x3FF) [] ∧
  decode [0x21840400#32] = .ok (.redadd 4 1 0) [] ∧
  decode [0x22420402#32] = .ok (.scanadd 2 1 2) [] ∧
  decode [0x21450800#32] = .ok (.ballot 5 2 0) [] ∧
  decode [0x20430470#32] = .ok (.shflx 3 1 7 0) [] ∧
  decode [0x18090003#32, 0xDEADBEEF#32] = .ok (.li 9 3 0xDEADBEEF#32) [] ∧
  decode [0x80D28000#32] = .ok (.jmp 2 5) [] ∧
  decode [0xC1040BFC#32] = .ok (.ldw 4 2 0x3FC) []

/-- Decoding gives every legal instruction word back, with every operand, and the words that follow it untouched (R32 to R40, R52).
Whatever decodes is a legal instruction word, and its own encoding: no reserved bit or value passes (R40, R48). -/
def Obligations.DecodeAndEncodeAgree : Prop :=
  (∀ (i : Instr) (rest : List Word), i.isWord = true → i.wellFormed = true → decode (encode i ++ rest) = .ok i rest) ∧
  (∀ (i : Instr) (ws rest : List Word), decode ws = .ok i rest → i.isWord = true ∧ i.wellFormed = true ∧ encode i ++ rest = ws)

/-- A decode table replaces the opcode and nothing else: the word decodes as the native word of the opcode in its entry; an opcode without
a valid entry is refused (R32, R49, R50). -/
def Obligations.TableReplacesOpcode : Prop :=
  ∀ (tab : Nat → Option Nat) (w : Word) (ws : List Word),
    (tab (w.toNat / 2 ^ 22) = none → decodeWith tab (w :: ws) = .bad .undecoded) ∧
    (∀ n, tab (w.toNat / 2 ^ 22) = some n → n < 1024 → isNativeOp n = true →
      decodeWith tab (w :: ws) = decode (BitVec.ofNat 32 (n * 2 ^ 22 + w.toNat % 2 ^ 22) :: ws))

/-- A step runs the decoded instruction: when the schedule names a fibre that stands at a word, nothing holds it, no breakpoint lies there
and its words decode to i in their place, the step is exec of i for that fibre (R45, R48). Where the spec does not decide it, the model's
own choices hold: log entries 1 and 2. -/
def Obligations.StepRunsDecoded : Prop :=
  ∀ (s t : State) (n : Nat) (r : List Nat) (f : Fibre) (e : Env) (i : Instr),
    s.sched = n :: r → s.fibres[n]? = some f → s.env? f.ref = some e → e.f = f → f.st = .run → e.canRun = true → f.stepping = .off →
    e.w.halt = .none → s.brkAt e.l f = none → f.instr? e.l.dtab.look = some i →
    exec i { s with sched := r, cur := f.ref } = .next t → t.tick ≠ s.tick → step s = .next t

/-! ## Reset, and what every step keeps -/

/-- Right after reset no partition exists and nothing runs, the 256 queue records stand at the values that R351 gives, no port is bound,
no image has been released, and the state is sound (R265, R351, R353, R358). Where the spec does not decide it, the model's own choices
hold: log entries 5 and 61. -/
def Obligations.ResetState : Prop :=
  State.reset.parts = [] ∧ State.reset.launches = [] ∧ State.reset.fibres = [] ∧ State.reset.queues.length = 256 ∧
  (∀ n, n < 256 → ∃ q, State.reset.queue? n = some q ∧ q.part = none ∧ q.en = false ∧ q.mask = 0 ∧ q.refused = false ∧
    q.nextSeq = 0 ∧ q.doneSeq = 0xFFFFFFFF#32 ∧ q.ring = 0) ∧
  State.reset.ports.length = 14 ∧ (∀ x ∈ State.reset.ports, x.part = none) ∧ State.reset.boot.released = 0 ∧ State.reset.sound = true

/-- Every step keeps every sparse memory of the device in canonical form: physical memory, scratchpads, descriptor tables and the transfer
area. The form is the model's own: equal memories are equal states. Where the spec does not decide it, the model's own choice holds: log
entry 4. -/
def Obligations.StepKeepsMemory : Prop :=
  ∀ s t : State, s.memOk = true → step s = .next t → t.memOk = true

/-- Every step leaves `p0` at 1 and `p1` at 0 in every fibre (R17). -/
def Obligations.StepKeepsConstants : Prop :=
  ∀ s t : State, s.fibres.all Fibre.constOk = true → step s = .next t → t.fibres.all Fibre.constOk = true

/-! ## Integer, predicate and special-register words (R69, R83 to R90, R99 to R101) -/

/-- The register-form integer instructions but for those of R69, R86 and R87: the value that each writes, as R85 gives it; `adds` and
`subs` set `IS` when they clamp (R85). `bfe` extracts a field, `bfi` inserts one bit by bit, and `dp4a` adds four signed byte products to
its destination (R86). The immediate forms of the integer instructions: the immediate sign-extended, or zero-extended for the bitwise
ones, under the clause guard (R43, R88). -/
def Obligations.IntegerResults : Prop :=
  (∀ (s : State) (e : Env) (d a b g : Nat), RunsOn s e g 1 → Held e.f [d, a, b] → Here e.f [a, b] →
    let x := e.f.val a
    let y := e.f.val b
    let n := y.toNat % 64
    Writes s e (.add d a b g) d (BitVec.ofNat 32 (x.toNat + y.toNat)) ∧
    Writes s e (.sub d a b g) d (BitVec.ofInt 32 ((x.toNat : Int) - y.toNat)) ∧
    Writes s e (.mul d a b g) d (BitVec.ofNat 32 (x.toNat * y.toNat)) ∧
    Writes s e (.mulh d a b g) d ((x.signExtend 64 * y.signExtend 64).extractLsb' 32 32) ∧
    Writes s e (.mulhu d a b g) d ((x.setWidth 64 * y.setWidth 64).extractLsb' 32 32) ∧
    Writes s e (.and d a b g) d (x &&& y) ∧ Writes s e (.or d a b g) d (x ||| y) ∧ Writes s e (.xor d a b g) d (x ^^^ y) ∧
    Writes s e (.shl d a b g) d (if n < 32 then BitVec.ofNat 32 (x.toNat * 2 ^ n) else 0) ∧
    Writes s e (.shr d a b g) d (if n < 32 then BitVec.ofNat 32 (x.toNat / 2 ^ n) else 0) ∧
    Writes s e (.sar d a b g) d (if n < 32 then BitVec.ofInt 32 (x.toInt / 2 ^ n) else if x.getLsbD 31 then 0xFFFFFFFF#32 else 0) ∧
    Writes s e (.min d a b g) d (BitVec.ofInt 32 (min x.toInt y.toInt)) ∧
    Writes s e (.max d a b g) d (BitVec.ofInt 32 (max x.toInt y.toInt)) ∧
    Writes s e (.minu d a b g) d (BitVec.ofNat 32 (min x.toNat y.toNat)) ∧
    Writes s e (.maxu d a b g) d (BitVec.ofNat 32 (max x.toNat y.toNat)) ∧
    (∀ (i : Instr) (v : Int), (i, v) ∈ [(Instr.adds d a b g, x.toInt + y.toInt), (.subs d a b g, x.toInt - y.toInt)] →
      let c := max (-(2 ^ 31)) (min v (2 ^ 31 - 1))
      Leaves s e i (vset (e.f.flag (if v = c then 0 else flagIS)) d (BitVec.ofInt 32 c)))) ∧
  (∀ (s : State) (e : Env) (d a b g : Nat), RunsOn s e g 1 → Held e.f [d, a, b] → Here e.f [d, a, b] →
    Writes s e (.mad d a b g) d (BitVec.ofNat 32 ((e.f.val a).toNat * (e.f.val b).toNat + (e.f.val d).toNat))) ∧
  (∀ (s : State) (e : Env) (d a g : Nat), RunsOn s e g 1 → Held e.f [d, a] → Here e.f [a] →
    let x := e.f.val a
    Writes s e (.abs d a g) d (BitVec.ofNat 32 x.toInt.natAbs) ∧
    Writes s e (.neg d a g) d (BitVec.ofInt 32 (-(x.toNat : Int))) ∧
    (∃ n, n ≤ 32 ∧ x.toNat < 2 ^ (32 - n) ∧ (x.toNat ≠ 0 → 2 ^ (31 - n) ≤ x.toNat ∧ n < 32) ∧
      Writes s e (.clz d a g) d (BitVec.ofNat 32 n)) ∧
    Writes s e (.popc d a g) d (BitVec.ofNat 32 ((List.range 32).countP fun k => x.getLsbD k)) ∧
    (∃ v : Word, (∀ k, k < 32 → v.getLsbD k = x.getLsbD (31 - k)) ∧ Writes s e (.brev d a g) d v) ∧
    Writes s e (.mov d a g) d x) ∧
  (∀ (s : State) (e : Env) (d a b g : Nat), RunsOn s e g 1 → Held e.f [d, d + 1, a, a + 1, b, b + 1] →
    Here e.f [a, a + 1, b, b + 1] →
    Writes2 s e (.addw d a b g) d (BitVec.ofNat 64 ((e.f.val2 a).toNat + (e.f.val2 b).toNat)) ∧
    Writes2 s e (.subw d a b g) d (BitVec.ofInt 64 (((e.f.val2 a).toNat : Int) - (e.f.val2 b).toNat))) ∧
  (∀ (s : State) (e : Env) (d a b g : Nat), RunsOn s e g 1 → Held e.f [d, d + 1, a, a + 1, b] → Here e.f [a, a + 1, b] →
    Writes2 s e (.shlw d a b g) d (BitVec.ofNat 64 ((e.f.val2 a).toNat * 2 ^ ((e.f.val b).toNat % 64)))) ∧
  (∀ (s : State) (e : Env) (d a b g : Nat), RunsOn s e g 1 → Held e.f [d, a, b] → Here e.f [a, b] →
    let pos := (e.f.val b).toNat % 64
    let len := (e.f.val b).toNat / 2 ^ 8 % 64
    let field : Nat := (e.f.val a).toNat / 2 ^ pos % 2 ^ len
    Writes s e (.bfe d a b g) d (if (e.f.val b).getLsbD 16 ∧ 0 < len ∧ 2 ^ (len - 1) ≤ field then BitVec.ofInt 32 ((field : Int) - 2 ^ len)
      else BitVec.ofNat 32 field)) ∧
  (∀ (s : State) (e : Env) (d a b g : Nat), RunsOn s e g 1 → Held e.f [d, a, b] → Here e.f [d, a, b] →
    let pos := (e.f.val b).toNat % 64
    let len := (e.f.val b).toNat / 2 ^ 8 % 64
    (∃ v : Word, (∀ k, k < 32 → v.getLsbD k = if pos ≤ k ∧ k < pos + len then (e.f.val a).getLsbD (k - pos) else (e.f.val d).getLsbD k) ∧
      Writes s e (.bfi d a b g) d v) ∧
    (let p := fun (j : Nat) => ((e.f.val a).extractLsb' (8 * j) 8).toInt * ((e.f.val b).extractLsb' (8 * j) 8).toInt
     Writes s e (.dp4a d a b g) d (BitVec.ofInt 32 ((e.f.val d).toNat + (p 0 + p 1 + p 2 + p 3))))) ∧
  (∀ (s : State) (e : Env) (d a i : Nat), RunsOn s e e.f.cg 1 → Held e.f [d, a] → Here e.f [a] → i < 1024 →
    let x := e.f.val a
    let v := (BitVec.ofNat 10 i).toInt
    let z := BitVec.ofNat 32 i
    Writes s e (.addi d a i) d (BitVec.ofInt 32 (x.toNat + v)) ∧ Writes s e (.muli d a i) d (BitVec.ofInt 32 (x.toNat * v)) ∧
    Writes s e (.andi d a i) d (x &&& z) ∧ Writes s e (.ori d a i) d (x ||| z) ∧ Writes s e (.xori d a i) d (x ^^^ z)) ∧
  (∀ (s : State) (e : Env) (d a n : Nat), RunsOn s e e.f.cg 1 → Held e.f [d, a] → Here e.f [a] → n < 64 →
    let x := e.f.val a
    Writes s e (.shli d a n) d (if n < 32 then BitVec.ofNat 32 (x.toNat * 2 ^ n) else 0) ∧
    Writes s e (.shri d a n) d (if n < 32 then BitVec.ofNat 32 (x.toNat / 2 ^ n) else 0) ∧
    Writes s e (.sari d a n) d (if n < 32 then BitVec.ofInt 32 (x.toInt / 2 ^ n) else if x.getLsbD 31 then 0xFFFFFFFF#32 else 0)) ∧
  (∀ (s : State) (e : Env) (d a i : Nat), RunsOn s e e.f.cg 1 → Held e.f [d, d + 1, a, a + 1] → Here e.f [a, a + 1] → i < 1024 →
    Writes2 s e (.addwi d a i) d (BitVec.ofInt 64 ((e.f.val2 a).toNat + (BitVec.ofNat 10 i).toInt))) ∧
  (∀ (s : State) (e : Env) (d i : Nat), RunsOn s e e.f.cg 1 → Held e.f [d] → i < 1024 →
    Writes s e (.movi d i) d (BitVec.ofInt 32 (BitVec.ofNat 10 i).toInt))

/-- `sel` writes a where the predicate that `G` names is 1 and b where it is 0; its only guard is the clause guard, and where that is 0
the word passes without effect (R87). -/
def Obligations.SelectResult : Prop :=
  ∀ (s : State) (e : Env) (d a b p : Nat), Runs s e → Room e 1 →
    (e.f.pred e.f.cg = true → Held e.f [d, a, b] → Here e.f [a, b] →
      (e.f.pred p = true → Writes s e (.sel d a b p) d (e.f.val a)) ∧ (e.f.pred p = false → Writes s e (.sel d a b p) d (e.f.val b))) ∧
    (e.f.pred e.f.cg = false → Leaves s e (.sel d a b p) e.f)

/-- `li`, opcode 0x060 of format W, writes its second word, whatever it is, where its first is guarded on; it passes both words with
weight 2 and sets no flag (R89). -/
def Obligations.LiteralResult : Prop :=
  (∀ (s : State) (e : Env) (d g : Nat) (lit : Word), Runs s e → Room e 2 →
    (e.f.pred g = true → Held e.f [d] →
      exec (.li d g lit) s = .next (passed s e (vset e.f d lit) 2 2) ∧ (vset e.f d lit).fflags = e.f.fflags) ∧
    (e.f.pred g = false → exec (.li d g lit) s = .next (passed s e e.f 2 2))) ∧
  (∀ (d g : Nat) (lit : Word), d < 64 → g < 16 → encode (.li d g lit) = [BitVec.ofNat 32 (0x060 * 2 ^ 22 + d * 2 ^ 16 + g), lit] ∧
    decode [BitVec.ofNat 32 (0x060 * 2 ^ 22 + d * 2 ^ 16 + g), lit] = .ok (.li d g lit) [])

/-- Every integer compare writes its result and the complement into its predicate pair, from a register under its guard or from the
sign-extended immediate under the clause guard; the pair `p0` keeps its constants, an odd pair is illegal, and no flag is set (R43, R90).
The divisions leave a long-latency result: the quotient truncated toward zero and the remainder with the sign of the dividend, and for the
divisor 0 and for -2^31 by -1 the values that R69 lists (R69, R83). -/
def Obligations.ComparesAndDivisions : Prop :=
  (∀ (s : State) (e : Env) (d a b g : Nat), RunsOn s e g 1 → Held e.f [a, b] → Here e.f [a, b] →
    let x := e.f.val a
    let y := e.f.val b
    Tests s e (.icmpEq d a b g) d (decide (x.toNat = y.toNat)) ∧ Tests s e (.icmpNe d a b g) d (decide (x.toNat ≠ y.toNat)) ∧
    Tests s e (.icmpLt d a b g) d (decide (x.toInt < y.toInt)) ∧ Tests s e (.icmpLe d a b g) d (decide (x.toInt ≤ y.toInt)) ∧
    Tests s e (.icmpLtu d a b g) d (decide (x.toNat < y.toNat)) ∧ Tests s e (.icmpLeu d a b g) d (decide (x.toNat ≤ y.toNat))) ∧
  (∀ (s : State) (e : Env) (d a i : Nat), RunsOn s e e.f.cg 1 → Held e.f [a] → Here e.f [a] → i < 1024 →
    let x := e.f.val a
    let y : Word := BitVec.ofInt 32 (BitVec.ofNat 10 i).toInt
    Tests s e (.icmpiEq d a i) d (decide (x.toNat = y.toNat)) ∧ Tests s e (.icmpiNe d a i) d (decide (x.toNat ≠ y.toNat)) ∧
    Tests s e (.icmpiLt d a i) d (decide (x.toInt < y.toInt)) ∧ Tests s e (.icmpiLe d a i) d (decide (x.toInt ≤ y.toInt)) ∧
    Tests s e (.icmpiLtu d a i) d (decide (x.toNat < y.toNat)) ∧ Tests s e (.icmpiLeu d a i) d (decide (x.toNat ≤ y.toNat))) ∧
  (∀ (f : Fibre) (d : Nat) (c : Bool), d % 2 = 0 → d < 16 →
    (psetPair f d c).pred d = (if d = 0 then f.pred 0 else c) ∧ (psetPair f d c).pred (d + 1) = (if d = 0 then f.pred 1 else !c) ∧
    (∀ k, k ≠ d → k ≠ d + 1 → (psetPair f d c).pred k = f.pred k) ∧ (psetPair f d c).fflags = f.fflags) ∧
  (∀ d a b g i : Nat, d % 2 = 1 → ∀ x ∈ [Instr.icmpEq d a b g, .icmpNe d a b g, .icmpLt d a b g, .icmpLe d a b g, .icmpLtu d a b g,
    .icmpLeu d a b g, .icmpiEq d a i, .icmpiNe d a i, .icmpiLt d a i, .icmpiLe d a i, .icmpiLtu d a i, .icmpiLeu d a i],
    x.wellFormed = false) ∧
  (∀ (s : State) (e : Env) (d a b g : Nat), RunsOn s e g 1 → Held e.f [d, a, b] → Here e.f [a, b] →
     let x := e.f.val a
     let y := e.f.val b
     Leaves s e (.divu d a b g) (e.f.late d (if y = 0 then 0xFFFFFFFF#32 else BitVec.ofNat 32 (x.toNat / y.toNat))) ∧
     Leaves s e (.remu d a b g) (e.f.late d (if y = 0 then x else BitVec.ofNat 32 (x.toNat % y.toNat))) ∧
     Leaves s e (.div d a b g) (e.f.late d (if y = 0 then 0xFFFFFFFF#32 else if x = 0x80000000#32 ∧ y = 0xFFFFFFFF#32 then 0x80000000#32
       else BitVec.ofInt 32 (x.toInt.tdiv y.toInt))) ∧
     Leaves s e (.rem d a b g) (e.f.late d (if y = 0 then x else if x = 0x80000000#32 ∧ y = 0xFFFFFFFF#32 then 0
       else BitVec.ofInt 32 (x.toInt.tmod y.toInt))))

/-- The predicate instructions; a write to `p0` or `p1` is discarded, and no other predicate changes (R17, R99). `rdsr` reads each special
register, an unassigned index as 0; `wrsr` and `setrm` write the three that can be written, and a rounding mode outside 0 to 4 raises the
illegal-operand fault with the source value (R65, R100, R101, R110). -/
def Obligations.PredicatesAndSpecialRegisters : Prop :=
  (∀ (s : State) (e : Env) (d a b g : Nat), RunsOn s e g 1 →
    Leaves s e (.pand d a b g) (pset1 e.f d (e.f.pred a && e.f.pred b)) ∧
    Leaves s e (.por d a b g) (pset1 e.f d (e.f.pred a || e.f.pred b)) ∧
    Leaves s e (.pxor d a b g) (pset1 e.f d (e.f.pred a ^^ e.f.pred b)) ∧
    Leaves s e (.pandn d a b g) (pset1 e.f d (e.f.pred a && !e.f.pred b))) ∧
  (∀ (s : State) (e : Env) (d i : Nat), RunsOn s e e.f.cg 1 → Leaves s e (.pset d i) (pset1 e.f d (i.testBit 0))) ∧
  (∀ (s : State) (e : Env) (d g : Nat), RunsOn s e g 1 → Held e.f [d] →
    ∃ v : Word, (∀ k, k < 32 → v.getLsbD k = if k < 16 then e.f.pred k else false) ∧ Writes s e (.pget d g) d v) ∧
  (∀ (s : State) (e : Env) (a g : Nat), RunsOn s e g 1 → Held e.f [a] → Here e.f [a] →
    ∃ p : BitVec 16, p.getLsbD 0 = true ∧ p.getLsbD 1 = false ∧ (∀ k, 2 ≤ k → k < 16 → p.getLsbD k = (e.f.val a).getLsbD k) ∧
      Leaves s e (.pput a g) { e.f with preds := p }) ∧
  (∀ (f : Fibre) (d : Nat) (b : Bool), d < 16 → (pset1 f d b).pred d = (if d < 2 then f.pred d else b) ∧
    ∀ k, k ≠ d → (pset1 f d b).pred k = f.pred k) ∧
  (∀ (s : State) (e : Env) (d i : Nat) (x : Nat), RunsOn s e e.f.cg 1 → Held e.f [d] →
    let n := e.f.ref.wref.wg
    (i, x) ∈ [(0, e.f.clk % 2 ^ 32), (1, e.f.clk / 2 ^ 32), (2, n * e.l.warps + e.f.ref.warp), (3, e.f.ref.lane), (4, n % e.l.gx),
      (5, n / e.l.gx % e.l.gy), (6, n / (e.l.gx * e.l.gy)), (7, e.l.gx), (8, e.l.gy), (9, e.l.gz), (10, e.l.warps), (11, e.l.qlog),
      (12, e.f.fflags.toNat), (13, rmodeCode e.f.rmode), (14, e.f.seed.toNat), (15, e.f.view % 2 ^ 32)] ∨ (16 ≤ i ∧ x = 0) →
    Writes s e (.rdsr d i) d (BitVec.ofNat 32 x)) ∧
  (∀ (s : State) (e : Env) (a : Nat), RunsOn s e e.f.cg 1 → Held e.f [a] → Here e.f [a] →
    let x := e.f.val a
    Leaves s e (.wrsr a 12) { e.f with fflags := BitVec.ofNat 6 x.toNat } ∧ Leaves s e (.wrsr a 14) { e.f with seed := x } ∧
    (∀ m : RMode, rmodeCode m = x.toNat → Leaves s e (.wrsr a 13) { e.f with rmode := m }) ∧
    (4 < x.toNat → Faults s e (.wrsr a 13) 0x0B 0 (x.setWidth 64))) ∧
  (∀ (s : State) (e : Env) (m : RMode), RunsOn s e e.f.cg 1 → Leaves s e (.setrm (rmodeCode m)) { e.f with rmode := m }) ∧
  (∀ a i : Nat, (i < 12 ∨ 14 < i → (Instr.wrsr a i).wellFormed = false) ∧ (4 < i → (Instr.setrm i).wellFormed = false))

/-! ## Floating point (R55 to R68, R102 to R110) -/

/-- A value rounds to nearest, ties to even: what the format gives is the nearest of its finite values, NX says that it differs, and
overflow comes only beyond the largest finite value (R59, R64, R67). The directed modes give the next finite value toward zero, down or
up; where they overflow, the largest finite value or infinity, as the direction asks (R65, R67). -/
def Obligations.RoundsCorrectly : Prop :=
  (∀ (t : Fmt) (neg : Bool) (m : Nat) (e q : Int), t ∈ [fp32, fp16, bf16, e4m3, e5m2] → m ≠ 0 → q ≤ e → q ≤ t.minExp →
     let v := scaled neg m e q
     let r := t.round rneRnd neg m e
     (r.fl &&& flagOF = 0 → ∃ n k c, t.value r.bits = .fin n k c ∧ n = neg ∧
       (r.fl &&& flagNX = 0 ↔ scaled n k c q = v) ∧
       ∀ p n' k' c', p < 2 ^ t.width → t.value p = .fin n' k' c' →
         (v - scaled n k c q).natAbs ≤ (v - scaled n' k' c' q).natAbs ∧
         ((v - scaled n k c q).natAbs = (v - scaled n' k' c' q).natAbs → scaled n k c q ≠ scaled n' k' c' q → r.bits % 2 = 0)) ∧
     (r.fl &&& flagOF ≠ 0 → r.fl &&& flagNX ≠ 0 ∧ r.bits = t.signed neg (if t.ieee then t.inf else t.maxFin) ∧
       ∀ p n' k' c', p < 2 ^ t.width → t.value p = .fin n' k' c' → (scaled n' k' c' q).natAbs < v.natAbs)) ∧
  (∀ (t : Fmt) (rd : Rnd) (neg : Bool) (m : Nat) (e q : Int), t ∈ [fp32, fp16, bf16, e4m3, e5m2] → m ≠ 0 → q ≤ e → q ≤ t.minExp →
     rd.mode ∈ [RMode.rtz, .rdn, .rup] →
     let v := scaled neg m e q
     let r := t.round rd neg m e
     let away := (rd.mode = .rdn ∧ neg = true) ∨ (rd.mode = .rup ∧ neg = false)
     (r.fl &&& flagOF = 0 → ∃ n k c, t.value r.bits = .fin n k c ∧ n = neg ∧ (r.fl &&& flagNX = 0 ↔ scaled n k c q = v) ∧
       (if away then v.natAbs ≤ (scaled n k c q).natAbs else (scaled n k c q).natAbs ≤ v.natAbs) ∧
       ∀ p n' k' c', p < 2 ^ t.width → t.value p = .fin n' k' c' →
         if away then v.natAbs ≤ (scaled n' k' c' q).natAbs → (scaled n k c q).natAbs ≤ (scaled n' k' c' q).natAbs
         else (scaled n' k' c' q).natAbs ≤ v.natAbs → (scaled n' k' c' q).natAbs ≤ (scaled n k c q).natAbs) ∧
     (r.fl &&& flagOF ≠ 0 → r.fl &&& flagNX ≠ 0 ∧ r.bits = t.signed neg (if away ∧ t.ieee then t.inf else t.maxFin) ∧
       ∀ p n' k' c', p < 2 ^ t.width → t.value p = .fin n' k' c' → (scaled n' k' c' q).natAbs < v.natAbs))

/-- FP32 arithmetic: each word writes the exact value of its operation, rounded once in the mode of RMODE, and merges its flags; a NaN
operand gives 0x7FC00000, with NV when one signals (R64, R102, R105). The rounding itself is stated above. `fcls` sets the one bit of the
operand's class, and no flag (R104). The long-latency functions leave an outstanding result, computed with RNE whatever RMODE holds; their
special operands, and that of frnd, give what R103 lists. A quotient, a square root and its reciprocal are the exact value rounded once to
nearest, ties to even; frnd gives the integer that its mode names; fex2 of an integer and flg2 of a power of two are exact, and elsewhere
lie between the exact values around them, inexact (R46, R64 to R66, R103). Where the spec does not decide it, the model's own choice
holds: log entry 23. -/
def Obligations.FloatResults : Prop :=
  (∀ (s : State) (e : Env) (d a b g : Nat), RunsOn s e g 1 → Held e.f [d, a, b] → Here e.f [a, b] →
    let x := fp32.value (e.f.val a).toNat
    let y := fp32.value (e.f.val b).toNat
    Floats s e (.fadd d a b g) d (fp32.addF (e.rnd 0) x y) ∧ Floats s e (.fsub d a b g) d (fp32.addF (e.rnd 0) x y.negate) ∧
    Floats s e (.fmul d a b g) d (fp32.mulF (e.rnd 0) x y) ∧
    Floats s e (.fmin d a b g) d (fp32.minmax false (e.f.val a).toNat (e.f.val b).toNat) ∧
    Floats s e (.fmax d a b g) d (fp32.minmax true (e.f.val a).toNat (e.f.val b).toNat) ∧
    Floats s e (.fscl d a b g) d (fsclF (e.rnd 0) (e.f.val a) (e.f.val b))) ∧
  (∀ (s : State) (e : Env) (d a b g : Nat), RunsOn s e g 1 → Held e.f [d, a, b] → Here e.f [d, a, b] →
    let x := fp32.value (e.f.val a).toNat
    let y := fp32.value (e.f.val b).toNat
    let z := fp32.value (e.f.val d).toNat
    Floats s e (.ffma d a b g) d (fp32.fmaF true (e.rnd 0) x y z) ∧ Floats s e (.ffms d a b g) d (fp32.fmaF true (e.rnd 0) x y z.negate)) ∧
  (∀ (s : State) (e : Env) (d a g : Nat), RunsOn s e g 1 → Held e.f [d, a] → Here e.f [a] →
    let x := e.f.val a
    let nan := (fp32.value x.toNat).isNan
    Writes s e (.fabs d a g) d (if nan then 0x7FC00000#32 else BitVec.ofNat 32 (x.toNat % 2 ^ 31)) ∧
    Writes s e (.fneg d a g) d (if nan then 0x7FC00000#32 else BitVec.ofNat 32 (x.toNat + 2 ^ 31)) ∧
    Floats s e (.frnd d a g) d (frndF (e.rnd 0) x.toNat)) ∧
  (∀ (rd : Rnd) (x y z : FV), x.isNan || y.isNan →
    let nv := if x.isSig || y.isSig then flagNV else 0
    fp32.addF rd x y = ⟨0x7FC00000, nv⟩ ∧ fp32.mulF rd x y = ⟨0x7FC00000, nv⟩ ∧
    (z.isSig = false → fp32.fmaF true rd x y z = ⟨0x7FC00000, nv⟩)) ∧
  (∀ (rd : Rnd) (n n' : Bool) (e : Int) (z : FV), fp32.fmaF true rd (.inf n) (.fin n' 0 e) z = ⟨0x7FC00000, flagNV⟩ ∧
    fp32.fmaF true rd (.fin n' 0 e) (.inf n) z = ⟨0x7FC00000, flagNV⟩ ∧
    fp32.fmaF true rd (.inf n) (.fin n' 1 e) (.inf (n == n')) = ⟨0x7FC00000, flagNV⟩) ∧
  (∀ (s : State) (e : Env) (d a g : Nat), RunsOn s e g 1 → Held e.f [d, a] → Here e.f [a] →
     let x := e.f.val a
     let ex := x.toNat / 2 ^ 23 % 2 ^ 8
     let fr := x.toNat % 2 ^ 23
     let neg := x.getLsbD 31
     ∀ k, k = (if ex = 255 ∧ fr ≠ 0 then (if fr < 2 ^ 22 then 8 else 9) else if ex = 255 then (if neg then 0 else 7)
         else if ex = 0 ∧ fr = 0 then (if neg then 3 else 4) else if ex = 0 then (if neg then 2 else 5) else (if neg then 1 else 6)) →
       Writes s e (.fcls d a g) d (BitVec.ofNat 32 (2 ^ k))) ∧
  (∀ (s : State) (e : Env) (d a b g : Nat), RunsOn s e g 1 → Held e.f [d, a, b] → Here e.f [a, b] →
    let r := fdivF (fp32.value (e.f.val a).toNat) (fp32.value (e.f.val b).toNat)
    Leaves s e (.fdiv d a b g) ((e.f.flag r.fl).late d (BitVec.ofNat 32 r.bits))) ∧
  (∀ (s : State) (e : Env) (d a g : Nat) (i : Instr) (r : FR), RunsOn s e g 1 → Held e.f [d, a] → Here e.f [a] →
    let x := fp32.value (e.f.val a).toNat
    (i, r) ∈ [(Instr.fsqrt d a g, fsqrtF x), (.frcp d a g, fdivF (.fin false 1 0) x), (.frsq d a g, frsqF x), (.fex2 d a g, fex2F x),
      (.flg2 d a g, flg2F x)] →
    Leaves s e i ((e.f.flag r.fl).late d (BitVec.ofNat 32 r.bits))) ∧
  (∀ (n n' : Bool) (m : Nat) (e e' : Int), m ≠ 0 →
    fdivF (.fin n m e) (.fin n' 0 e') = ⟨fp32.signed (n ^^ n') 0x7F800000, flagDZ⟩ ∧ fdivF (.fin n 0 e) (.fin n' 0 e') = ⟨0x7FC00000, flagNV⟩ ∧
    fdivF (.inf n) (.inf n') = ⟨0x7FC00000, flagNV⟩ ∧ fdivF (.fin n m e) (.inf n') = ⟨fp32.signed (n ^^ n') 0, 0⟩ ∧
    fsqrtF (.fin true 0 e) = ⟨0x80000000, 0⟩ ∧ fsqrtF (.inf false) = ⟨0x7F800000, 0⟩ ∧ fsqrtF (.fin true m e) = ⟨0x7FC00000, flagNV⟩ ∧
    fsqrtF (.inf true) = ⟨0x7FC00000, flagNV⟩ ∧ frsqF (.fin n 0 e) = ⟨fp32.signed n 0x7F800000, flagDZ⟩ ∧ frsqF (.inf false) = ⟨0, 0⟩ ∧
    frsqF (.fin true m e) = ⟨0x7FC00000, flagNV⟩ ∧ frsqF (.inf true) = ⟨0x7FC00000, flagNV⟩ ∧ fex2F (.fin n 0 e) = ⟨0x3F800000, 0⟩ ∧
    fex2F (.inf false) = ⟨0x7F800000, 0⟩ ∧ fex2F (.inf true) = ⟨0, 0⟩ ∧ flg2F (.fin n 0 e) = ⟨0xFF800000, flagDZ⟩ ∧
    flg2F (.inf false) = ⟨0x7F800000, 0⟩ ∧ flg2F (.fin true m e) = ⟨0x7FC00000, flagNV⟩ ∧ flg2F (.inf true) = ⟨0x7FC00000, flagNV⟩) ∧
  (∀ (rd : Rnd) (x : Nat), x ∈ [0, 0x80000000, 0x7F800000, 0xFF800000] → frndF rd x = ⟨x, 0⟩) ∧
  (∀ (n n' : Bool) (m' : Nat) (e e' : Int), m' ≠ 0 → fdivF (.fin n 0 e) (.fin n' m' e') = ⟨fp32.signed (n ^^ n') 0, 0⟩ ∧
    fdivF (.inf n) (.fin n' m' e') = ⟨fp32.signed (n ^^ n') 0x7F800000, 0⟩ ∧ fdivF (.inf n) (.fin n' 0 e') = ⟨fp32.signed (n ^^ n') 0x7F800000, 0⟩) ∧
  (∀ (x : Nat) (n : Bool) (m : Nat) (e : Int), fp32.value x = .fin n m e → m < 2 ^ 24) ∧
  (∀ (n n' : Bool) (m m' : Nat) (e e' q : Int), 0 < m → m < 2 ^ 24 → 0 < m' → m' < 2 ^ 24 → q ≤ -149 →
    (q ≤ e - e' → fp32.Nearest (n ^^ n') (fdivF (.fin n m e) (.fin n' m' e')) q fun z => compare (2 * m * 2 ^ (e - e' - q).toNat) (z * m')) ∧
    (2 * q ≤ e → fp32.Nearest false (fsqrtF (.fin false m e)) q fun z => compare (4 * m * 2 ^ (e - 2 * q).toNat) (z * z)) ∧
    (2 * q ≤ -e → fp32.Nearest false (frsqF (.fin false m e)) q fun z => compare (4 * 2 ^ (-e - 2 * q).toNat) (z * z * m))) ∧
  (∀ (rd : Rnd) (x : Nat) (n : Bool) (m : Nat) (e : Int), fp32.value x = .fin n m e → m ≠ 0 →
    let u := 2 ^ 149
    let a := m * 2 ^ (e + 149).toNat
    let r := frndF rd x
    let away := (rd.mode = .rdn ∧ n = true) ∨ (rd.mode = .rup ∧ n = false)
    ∃ k c, fp32.value r.bits = .fin n k c ∧ let w := k * 2 ^ (c + 149).toNat
      w % u = 0 ∧ r.fl = (if w = a then 0 else flagNX) ∧
      (rd.mode = .rne → 2 * w ≤ 2 * a + u ∧ 2 * a ≤ 2 * w + u ∧ (2 * w = 2 * a + u ∨ 2 * a = 2 * w + u → w / u % 2 = 0)) ∧
      (away → a ≤ w ∧ w < a + u) ∧ (rd.mode ∈ [RMode.rtz, .rdn, .rup] → ¬ away → w ≤ a ∧ a < w + u) ∧
      (rd.mode = .sr → w = a / u * u + if rd.draw < a % u * 2 ^ 32 / u then u else 0)) ∧
  (∀ (x : Nat) (n : Bool) (m : Nat) (e : Int), fp32.value x = .fin n m e →
    let a : Nat := m * 2 ^ (e + 149).toNat
    let v : Int := if n then -(a : Int) else a
    let k := v / 2 ^ 149
    let r := fex2F (.fin n m e)
    (v % 2 ^ 149 = 0 → -149 ≤ k → k ≤ 127 → r.fl = 0 ∧ ∃ j c, fp32.value r.bits = .fin false j c ∧ j * 2 ^ (c + 149).toNat = 2 ^ (k + 149).toNat) ∧
    (v % 2 ^ 149 ≠ 0 → -126 ≤ k → k < 127 → r.fl = flagNX ∧ ∃ j c, fp32.value r.bits = .fin false j c ∧
      2 ^ (k + 149).toNat ≤ j * 2 ^ (c + 149).toNat ∧ j * 2 ^ (c + 149).toNat ≤ 2 ^ (k + 150).toNat) ∧
    (128 ≤ k → r = ⟨0x7F800000, flagOF ||| flagNX⟩) ∧ (v ≤ -150 * 2 ^ 149 → r = ⟨0, flagUF ||| flagNX⟩)) ∧
  (∀ (x : Nat) (m : Nat) (e : Int), fp32.value x = .fin false m e → m ≠ 0 →
    let k := e + Nat.log2 m
    let r := flg2F (.fin false m e)
    ∃ n j c, fp32.value r.bits = .fin n j c ∧
      (m = 2 ^ Nat.log2 m → r.fl = 0 ∧ scaled n j c (-149) = k * 2 ^ 149) ∧
      (m ≠ 2 ^ Nat.log2 m → r.fl &&& flagNX ≠ 0 ∧ k * 2 ^ 149 ≤ scaled n j c (-149) ∧ scaled n j c (-149) ≤ (k + 1) * 2 ^ 149))

/-- The four floating-point compares: the result and its complement into the predicate pair, and NV for a signalling NaN, or for any NaN
in `lt` and `le`. Finite values compare in units of a common power of two (R106). The packed instructions compute two elements by
themselves, element k with draw index k, and merge both elements' flags; the pair products are exact and rounded once (R107, R108). The
conversions: to integers with the limits of R68, from integers, narrowing into the low elements with draw indices 0 and 1, and widening
the one element that the word names (R67, R68, R109). Where the spec does not decide it, the model's own choice holds: log entry 24. -/
def Obligations.FloatComparesAndConversions : Prop :=
  (∀ (s : State) (e : Env) (d a b g : Nat), RunsOn s e g 1 → Held e.f [a, b] → Here e.f [a, b] →
    let x := fp32.value (e.f.val a).toNat
    let y := fp32.value (e.f.val b).toNat
    let nan := x.isNan || y.isNan
    let sig := if x.isSig || y.isSig then flagNV else 0
    let any := if nan then flagNV else 0
    ∀ lt gt : Bool, (nan = false → lt = x.ltV false y ∧ gt = y.ltV false x) → (nan = true → lt = false ∧ gt = false) →
    Leaves s e (.fcmpEq d a b g) (psetPair (e.f.flag sig) d (!nan && !lt && !gt)) ∧
    Leaves s e (.fcmpLt d a b g) (psetPair (e.f.flag any) d (!nan && lt)) ∧
    Leaves s e (.fcmpLe d a b g) (psetPair (e.f.flag any) d (!nan && !gt)) ∧
    Leaves s e (.fcmpUn d a b g) (psetPair (e.f.flag sig) d nan)) ∧
  (∀ (n n' : Bool) (m m' : Nat) (c c' q : Int), q ≤ c → q ≤ c' →
    ((FV.fin n m c).ltV false (.fin n' m' c') = true ↔ scaled n m c q < scaled n' m' c' q) ∧
    ((FV.inf n).ltV false (.fin n' m' c') = n) ∧ ((FV.fin n m c).ltV false (.inf n') = !n') ∧ ((FV.inf n).ltV false (.inf n') = (n && !n'))) ∧
  (∀ (s : State) (e : Env) (d a b g : Nat) (t : Fmt) (add mul fma : Instr), RunsOn s e g 1 → Held e.f [d, a, b] →
    (t, add, mul, fma) ∈ [(fp16, Instr.hadd2 d a b g, Instr.hmul2 d a b g, Instr.hfma2 d a b g), (bf16, .badd2 d a b g, .bmul2 d a b g, .bfma2 d a b g)] →
    let v := fun (r k : Nat) => t.value ((e.f.val r).toNat / 2 ^ (16 * k) % 2 ^ 16)
    let both := fun (op : Nat → FR) (r : FR) => r.bits = (op 0).bits + 2 ^ 16 * (op 1).bits ∧ r.fl = (op 0).fl ||| (op 1).fl
    ∀ r : FR,
      (Here e.f [a, b] → both (fun k => t.addF (e.rnd k) (v a k) (v b k)) r → Floats s e add d r) ∧
      (Here e.f [a, b] → both (fun k => t.mulF (e.rnd k) (v a k) (v b k)) r → Floats s e mul d r) ∧
      (Here e.f [d, a, b] → both (fun k => t.fmaF Config.fmaInvalid (e.rnd k) (v a k) (v b k) (v d k)) r → Floats s e fma d r)) ∧
  (∀ (s : State) (e : Env) (d a b g : Nat), RunsOn s e g 1 → Held e.f [d, a, b] → Here e.f [d, a, b] →
    Floats s e (.dp2h d a b g) d (dp2F fp16 (e.rnd 0) (e.f.val a) (e.f.val b) (e.f.val d)) ∧
    Floats s e (.dp2b d a b g) d (dp2F bf16 (e.rnd 0) (e.f.val a) (e.f.val b) (e.f.val d))) ∧
  (∀ (s : State) (e : Env) (d a g : Nat), RunsOn s e g 1 → Held e.f [d, a] → Here e.f [a] →
    let x := e.f.val a
    let toI := fun (i : Instr) (lo hi : Int) => ∀ r, r = toIntF (e.rnd 0) lo hi (fp32.value x.toNat) →
      Leaves s e i (vset (e.f.flag r.2) d (BitVec.ofInt 32 r.1))
    toI (.cvtfi d a g) (-(2 ^ 31)) (2 ^ 31 - 1) ∧ toI (.cvtfu d a g) 0 (2 ^ 32 - 1) ∧
    Floats s e (.cvtif d a g) d (ofIntF fp32 (e.rnd 0) x.toInt) ∧ Floats s e (.cvtuf d a g) d (ofIntF fp32 (e.rnd 0) x.toNat) ∧
    Floats s e (.cvthl d a g) d (widen (fp16.value (x.toNat % 2 ^ 16))) ∧ Floats s e (.cvthh d a g) d (widen (fp16.value (x.toNat / 2 ^ 16))) ∧
    Floats s e (.cvtbl d a g) d (widen (bf16.value (x.toNat % 2 ^ 16))) ∧ Floats s e (.cvtbh d a g) d (widen (bf16.value (x.toNat / 2 ^ 16))) ∧
    Floats s e (.cvte4f d a g) d (widen (e4m3.value (x.toNat % 2 ^ 8))) ∧ Floats s e (.cvte5f d a g) d (widen (e5m2.value (x.toNat % 2 ^ 8)))) ∧
  (∀ (s : State) (e : Env) (d a b g : Nat), RunsOn s e g 1 → Held e.f [d, a, b] → Here e.f [a, b] →
    let x := fp32.value (e.f.val a).toNat
    let y := fp32.value (e.f.val b).toNat
    ∀ (t : Fmt) (i : Instr) (lo hi : FR), (t, i) ∈ [(fp16, Instr.cvth d a b g), (bf16, .cvtb d a b g), (e4m3, .cvte4 d a b g), (e5m2, .cvte5 d a b g)] →
      lo = t.narrow (e.rnd 0) x → hi = t.narrow (e.rnd 1) y → Floats s e i d ⟨lo.bits + 2 ^ t.width * hi.bits, lo.fl ||| hi.fl⟩) ∧
  (∀ (rd : Rnd) (n sg : Bool) (lo hi : Int), toIntF rd lo hi (.nan n sg) = (0, flagNV) ∧
    toIntF rd lo hi (.inf n) = (if n then lo else hi, flagNV ||| flagIS))

/-! ## Convergence points and uniform words (R15, R91 to R98) -/

/-- A fibre that arrives at a convergence point while another live fibre of its scope has not stays there with no other effect: the point
has not executed (R15, R92). So does the last to arrive at a uniform word while a uniform load of the warp is outstanding (R42, R160).
Where the spec does not decide it, the model's own choice holds: log entry 12. -/
def Obligations.ConvergenceWaits : Prop :=
  (∀ (s : State) (e : Env) (d a b g i : Nat) (lit : Word) (w : Instr), Runs s e →
    w ∈ [Instr.shfl d a b g, .shflx d a b g, .bcast d a b g, .voteany d a g, .voteall d a g, .ballot d a g, .redadd d a g, .redmin d a g,
      .redmax d a g, .scanadd d a g, .electw d g, .lid d g, .wsync g, .uadd d a b g, .usub d a b g, .umul d a b g, .uand d a b g,
      .uor d a b g, .uxor d a b g, .ushl d a b g, .ushr d a b g, .uaddw d a b g, .umov d a g, .uget d a b g, .uaddi d a i, .uli d g lit,
      .uldw d a i, .uldd d a i] →
    (∃ x ∈ (arrived s e w).warpFibres e.f.ref.wref e.f.ref.warp, x.st ≠ .conv w) → exec w s = .next (arrived s e w).ticked) ∧
  (∀ (s : State) (e : Env) (d g : Nat), Runs s e →
    (∃ x ∈ (arrived s e (.elect d g)).wgFibres e.f.ref.wref, x.st ≠ .conv (.elect d g)) →
    exec (.elect d g) s = .next (arrived s e (.elect d g)).ticked) ∧
  (∀ (s : State) (e : Env) (d a b g : Nat) (lit : Word) (w : Instr), Runs s e → e.p.uouts ≠ [] →
    w ∈ [Instr.ballot d a g, .redadd d a g, .redmin d a g, .redmax d a g, .uadd d a b g, .usub d a b g, .umul d a b g, .uand d a b g, .uor d a b g,
      .uxor d a b g, .ushl d a b g, .ushr d a b g, .uaddw d a b g, .umov d a g, .uget d a b g, .uli d g lit] →
    (∃ x ∈ meeting s .warp e w, x.f.pred g = true) → exec w s = .next (arrived s e w).ticked) ∧
  (∀ (s : State) (e : Env) (d a i : Nat) (w : Instr), Runs s e → e.p.uouts ≠ [] → w ∈ [Instr.uaddi d a i, .uldw d a i, .uldd d a i] →
    (∃ x ∈ meeting s .warp e w, x.f.pred x.f.cg = true) → exec w s = .next (arrived s e w).ticked)

/-- `shfl`, `shflx` and `bcast` read the register of one source lane, whether or not it is guarded on, and the reader's own where that
lane is not live; `movs` copies a uniform register without converging (R91 to R93, R98). Votes, elections, lane numbers, running sums and
`wsync`: what each contributing fibre holds after the point; the others pass unchanged (R91 to R93, R95, R224). `ballot` and the
reductions write one uniform register from the contributing fibres, and leave it where none contributes; a write to `s0` is discarded (R91
to R94). Where the spec does not decide it, the model's own choice holds: log entry 12. -/
def Obligations.LaneWords : Prop :=
  (∀ (s : State) (e : Env) (d a b g : Nat) (i : Instr) (src : Env → Nat),
    (i, src) ∈ [(Instr.shfl d a b g, fun x => (x.f.val b).toNat % 32), (.shflx d a b g, fun x => x.f.ref.lane ^^^ (x.f.val b).toNat % 32)] →
    Completes s .warp e i 1 →
    (∀ x ∈ meeting s .warp e i, x.f.pred g = true → Held x.f [d, b] ∧ Here x.f [b] ∧
      Held (inLane (meeting s .warp e i) (src x) x) [a] ∧ Here (inLane (meeting s .warp e i) (src x) x) [a]) →
    Gives s .warp e i g fun x => vset x.f d ((inLane (meeting s .warp e i) (src x) x).val a)) ∧
  (∀ (s : State) (e : Env) (d a b g : Nat), let i := Instr.bcast d a b g
    Completes s .warp e i 1 → UniHere e [b] →
    (∀ x ∈ meeting s .warp e i, x.f.pred g = true → Held x.f [d] ∧
      Held (inLane (meeting s .warp e i) ((sget x.p b).toNat % 32) x) [a] ∧ Here (inLane (meeting s .warp e i) ((sget x.p b).toNat % 32) x) [a]) →
    Gives s .warp e i g fun x => vset x.f d ((inLane (meeting s .warp e i) ((sget x.p b).toNat % 32) x).val a)) ∧
  (∀ (s : State) (e : Env) (d a g : Nat), RunsOn s e g 1 → Held e.f [d] →
    (UniHere e [a] → Writes s e (.movs d a g) d (if a = 0 then 0 else e.p.sregs.getD a 0)) ∧ (¬ UniHere e [a] → HeldFor s e (.movs d a g) 6)) ∧
  (∀ (s : State) (e : Env) (d a g : Nat), let i := Instr.voteany d a g
    Completes s .warp e i 1 → Gives s .warp e i g fun x => psetPair x.f d (decide (∃ y ∈ meeting s .warp e i, y.f.pred g = true ∧ y.f.pred a = true))) ∧
  (∀ (s : State) (e : Env) (d a g : Nat), let i := Instr.voteall d a g
    Completes s .warp e i 1 → Gives s .warp e i g fun x => psetPair x.f d (decide (∀ y ∈ meeting s .warp e i, y.f.pred g = true → y.f.pred a = true))) ∧
  (∀ (s : State) (e : Env) (d g : Nat), let i := Instr.electw d g
    Completes s .warp e i 1 → Gives s .warp e i g fun x =>
      psetPair x.f d (decide (∀ y ∈ meeting s .warp e i, y.f.pred g = true → x.f.ref.lane ≤ y.f.ref.lane))) ∧
  (∀ (s : State) (e : Env) (d g : Nat), let i := Instr.elect d g
    Completes s .wg e i 1 → Gives s .wg e i g fun x =>
      psetPair x.f d (decide (∀ y ∈ meeting s .wg e i, y.f.pred g = true →
        x.f.ref.warp < y.f.ref.warp ∨ (x.f.ref.warp = y.f.ref.warp ∧ x.f.ref.lane ≤ y.f.ref.lane)))) ∧
  (∀ (s : State) (e : Env) (d g : Nat), let i := Instr.lid d g
    Completes s .warp e i 1 → (∀ x ∈ meeting s .warp e i, x.f.pred g = true → Held x.f [d]) →
    Gives s .warp e i g fun x => vset x.f d
      (BitVec.ofNat 32 ((meeting s .warp e i).countP fun y => y.f.pred g ∧ y.f.ref.lane < x.f.ref.lane))) ∧
  (∀ (s : State) (e : Env) (d a g : Nat), let i := Instr.scanadd d a g
    Completes s .warp e i 1 → (∀ x ∈ meeting s .warp e i, x.f.pred g = true → Held x.f [d, a] ∧ Here x.f [a]) →
    Gives s .warp e i g fun x => vset x.f d (BitVec.ofNat 32
      (((lanesOn g (meeting s .warp e i)).filter fun y => y.f.ref.lane ≤ x.f.ref.lane).map fun y => (y.f.val a).toNat).sum)) ∧
  (∀ (s : State) (e : Env) (g : Nat), Completes s .warp e (.wsync g) 1 → Gives s .warp e (.wsync g) g fun x => x.f) ∧
  (∀ (s : State) (e : Env) (d a g : Nat), let i := Instr.ballot d a g
    Completes s .warp e i 1 → e.uniHere → (∀ x ∈ meeting s .warp e i, x.f.ref.lane < 32) →
    ∃ v : Word, (((meeting s .warp e i).map fun x => x.f.ref.lane).Nodup →
        ∀ k, k < 32 → v.getLsbD k = decide (∃ x ∈ meeting s .warp e i, x.f.pred g = true ∧ x.f.pred a = true ∧ x.f.ref.lane = k)) ∧
      GivesUniform s e i g 1 fun p => sset p d v) ∧
  (∀ (s : State) (e : Env) (d a g : Nat) (i : Instr) (ok : List Word → Word → Prop),
    (i, ok) ∈ [(Instr.redadd d a g, fun xs v => v = BitVec.ofNat 32 (xs.map BitVec.toNat).sum),
      (.redmin d a g, fun xs v => (xs ≠ [] → v ∈ xs) ∧ ∀ x ∈ xs, v.toInt ≤ x.toInt),
      (.redmax d a g, fun xs v => (xs ≠ [] → v ∈ xs) ∧ ∀ x ∈ xs, x.toInt ≤ v.toInt)] →
    Completes s .warp e i 1 → e.uniHere → (∀ x ∈ meeting s .warp e i, x.f.pred g = true → Held x.f [a] ∧ Here x.f [a]) →
    ∃ v, ok ((lanesOn g (meeting s .warp e i)).map fun x => x.f.val a) v ∧ GivesUniform s e i g 1 fun p => sset p d v) ∧
  (∀ (p : Warp) (d k : Nat) (x : Word), d < p.sregs.length → sget (sset p d x) k = if k = 0 then 0 else if k = d then x else sget p k)

/-- The uniform instructions compute from the warp's uniform registers and write one of them, or an even pair, once (R96, R97). -/
def Obligations.UniformWords : Prop :=
  (∀ (s : State) (e : Env) (d a b g : Nat) (i : Instr) (v : Word),
    let x := sget e.p a
    let y := sget e.p b
    let n := y.toNat % 64
    (i, v) ∈ [(Instr.uadd d a b g, BitVec.ofNat 32 (x.toNat + y.toNat)), (.usub d a b g, BitVec.ofInt 32 ((x.toNat : Int) - y.toNat)),
      (.umul d a b g, BitVec.ofNat 32 (x.toNat * y.toNat)), (.uand d a b g, x &&& y), (.uor d a b g, x ||| y), (.uxor d a b g, x ^^^ y),
      (.ushl d a b g, if n < 32 then BitVec.ofNat 32 (x.toNat * 2 ^ n) else 0),
      (.ushr d a b g, if n < 32 then BitVec.ofNat 32 (x.toNat / 2 ^ n) else 0), (.umov d a g, x)] →
    Completes s .warp e i 1 → e.uniHere → GivesUniform s e i g 1 fun p => sset p d v) ∧
  (∀ (s : State) (e : Env) (d a b g : Nat), Completes s .warp e (.uaddw d a b g) 1 → e.uniHere →
    GivesUniform s e (.uaddw d a b g) g 1 fun p => sset2 p d (BitVec.ofNat 64 ((sget2 e.p a).toNat + (sget2 e.p b).toNat))) ∧
  (∀ (s : State) (e : Env) (d a i : Nat), i < 1024 → Completes s .warp e (.uaddi d a i) 1 → e.uniHere →
    (∀ x ∈ meeting s .warp e (.uaddi d a i), x.f.cg = e.f.cg) →
    GivesUniform s e (.uaddi d a i) e.f.cg 1 fun p => sset p d (BitVec.ofInt 32 ((sget e.p a).toNat + (BitVec.ofNat 10 i).toInt))) ∧
  (∀ (s : State) (e : Env) (d g : Nat) (lit : Word), Completes s .warp e (.uli d g lit) 2 → e.uniHere →
    GivesUniform s e (.uli d g lit) g 2 fun p => sset p d lit) ∧
  (∀ (s : State) (e : Env) (d a b g : Nat), let i := Instr.uget d a b g
    let k := (sget e.p b).toNat % 32
    Completes s .warp e i 1 → e.uniHere →
    ((∀ x ∈ meeting s .warp e i, x.f.ref.lane ≠ k) → GivesUniform s e i g 1 fun p => sset p d 0) ∧
    (∀ x, (meeting s .warp e i).find? (fun y => y.f.ref.lane = k) = some x → Held x.f [a] → Here x.f [a] →
      GivesUniform s e i g 1 fun p => sset p d (x.f.val a)))

/-! ## Memory words (R20, R135 to R144, R157 to R170) -/

/-- Where an address lies and what stops an access to it, in the order of the checks: no region, alignment, the scratchpad's bound, a peer
window without a gang, and then the class (R20, R144, R157, R158). Where the spec does not decide it, the model's own choices hold: log
entries 9 and 62. -/
def Obligations.AccessChecks : Prop :=
  (∀ ea : BitVec 64, let a := ea.toNat
    (a < 2 ^ 20 → regionOf ea = some (.own a)) ∧
    (2 ^ 20 ≤ a → a < 0x1000000 → regionOf ea = none) ∧ (0x1400000 ≤ a → a < 2 ^ 32 → regionOf ea = none) ∧
    (0x1000000 ≤ a → a < 0x1400000 → regionOf ea = some (.peer (a / 2 ^ 20 - 16) (a % 2 ^ 20))) ∧
    (2 ^ 32 ≤ a → a < 2 ^ 56 → regionOf ea = some (.glob a)) ∧
    (2 ^ 56 ≤ a → a < 2 ^ 64 - 2 ^ 56 → regionOf ea = none) ∧ (2 ^ 64 - 2 ^ 56 ≤ a → regionOf ea = some (.glob (a % 2 ^ 57)))) ∧
  (∀ (s : State) (e : Env) (ea : BitVec 64) (n align : Nat) (k : AKind),
    (regionOf ea = none → s.access e ea n align k = .error (.fault 0x02 0 ea)) ∧
    (regionOf ea ≠ none → ea.toNat % align ≠ 0 → s.access e ea n align k = .error (.fault 0x03 0 ea)) ∧
    (∀ o, regionOf ea = some (.own o) → ea.toNat % align = 0 → e.l.scratch * 256 < o + n →
      s.access e ea n align k = .error (.fault 0x04 0 ea)) ∧
    (∀ m o, regionOf ea = some (.peer m o) → ea.toNat % align = 0 → e.l.gang = false → s.access e ea n align k = .error (.fault 0x02 0 ea)) ∧
    (∀ va, regionOf ea = some (.glob va) → ea.toNat % align = 0 → k ≠ .load → k ≠ .prefetch → (classOf e.l va).1 = .constant →
      s.access e ea n align k = .error (.fault 0x06 0 ea)) ∧
    (∀ va c, regionOf ea = some (.glob va) → ea.toNat % align = 0 → inArgs va = false → classFault e k va = none →
      s.translateFor e.l va k = .error c → s.access e ea n align k = .error (.fault 0x01 c ea)))

/-- A load whose address passes the checks leaves an outstanding result: an Ordered location is read when the horizons let it, a Constant
or Exclusive one at once, an argument from the launch (R141, R157, R161, R163). A check that fails parks the fibre. The value that a load
makes of its bytes: little-endian, narrow ones extended to 32 bits, wide ones word by word (R5, R161). Where the spec does not decide it,
the model's own choices hold: log entries 9 and 10. -/
def Obligations.LoadsIssue : Prop :=
  (∀ (s : State) (e : Env) (d a i n : Nat) (sext : Bool) (w : Instr), i < 1024 →
    (w, n, sext) ∈ [(Instr.ldb d a i, 1, false), (.ldsb d a i, 1, true), (.ldh d a i, 2, false), (.ldsh d a i, 2, true), (.ldw d a i, 4, false),
      (.ldd d a i, 8, false), (.ldq d a i, 16, false)] →
    RunsOn s e e.f.cg 1 → Held e.f (regsOf d n ++ [a, a + 1]) → Here e.f [a, a + 1] → e.f.outCount < 63 →
    let ea := BitVec.ofInt 64 ((e.f.val2 a).toNat + (BitVec.ofNat 10 i).toInt)
    ∀ acc : Acc,
    (s.access e ea n n .load = .ok acc → acc.args = none →
      (acc.cls = .ordered → Leaves s e w (e.loading d n sext ea acc none)) ∧
      (acc.cls ≠ .ordered → Leaves s e w (e.loading d n sext ea acc (some (loadWords n sext (acc.locs.map (s.baseByte e.l.ref))))))) ∧
    (∀ bs, s.access e ea n n .load = .ok acc → acc.args = some bs → Leaves s e w (e.loading d n sext ea acc (some (loadWords n sext bs)))) ∧
    (∀ c k x, s.access e ea n n .load = .error (.fault c k x) → Faults s e w c k x)) ∧
  (∀ (s : State) (e : Env) (d a b g n : Nat) (w : Instr),
    (w, n) ∈ [(Instr.ldbx d a b g, 1), (.ldhx d a b g, 2), (.ldwx d a b g, 4), (.lddx d a b g, 8)] →
    RunsOn s e g 1 → Held e.f (regsOf d n ++ [b]) → Here e.f [b] → UniHere e [a, a + 1] → e.f.outCount < 63 →
    let ea := BitVec.ofNat 64 ((sget2 e.p a).toNat + (e.f.val b).toNat * n)
    ∀ acc : Acc,
    (s.access e ea n n .load = .ok acc → acc.args = none →
      (acc.cls = .ordered → Leaves s e w (e.loading d n false ea acc none)) ∧
      (acc.cls ≠ .ordered → Leaves s e w (e.loading d n false ea acc (some (loadWords n false (acc.locs.map (s.baseByte e.l.ref))))))) ∧
    (∀ bs, s.access e ea n n .load = .ok acc → acc.args = some bs → Leaves s e w (e.loading d n false ea acc (some (loadWords n false bs)))) ∧
    (∀ c k x, s.access e ea n n .load = .error (.fault c k x) → Faults s e w c k x)) ∧
  (∀ (b0 b1 b2 b3 c0 c1 c2 c3 : Byte) (r : List Byte),
     loadWords 1 false [b0] = [b0.setWidth 32] ∧ loadWords 1 true [b0] = [b0.signExtend 32] ∧
     loadWords 2 false [b0, b1] = [(b1 ++ b0).setWidth 32] ∧ loadWords 2 true [b0, b1] = [(b1 ++ b0).signExtend 32] ∧
     loadWords 4 false [b0, b1, b2, b3] = [b3 ++ b2 ++ b1 ++ b0] ∧
     loadWords 8 false [b0, b1, b2, b3, c0, c1, c2, c3] = [b3 ++ b2 ++ b1 ++ b0, c3 ++ c2 ++ c1 ++ c0] ∧
     (r.length = 8 → loadWords 16 false ([b0, b1, b2, b3, c0, c1, c2, c3] ++ r) = [b3 ++ b2 ++ b1 ++ b0, c3 ++ c2 ++ c1 ++ c0] ++ loadWords 8 false r))

/-- A store whose address passes the checks: Ordered bytes become pending while the footprint stays within 128 sectors, and otherwise the
fibre first turns at the next boundary; bytes of an Exclusive page are written to memory at once; the low byte of the first register goes
to the lowest address (R135, R137, R141, R157, R162, R163). A check that fails parks the fibre. Where the spec does not decide it, the
model's own choices hold: log entries 9 and 16. -/
def Obligations.StoresComplete : Prop :=
  (∀ (s : State) (e : Env) (d a i n : Nat) (w : Instr), i < 1024 →
    (w, n) ∈ [(Instr.stb d a i, 1), (.sth d a i, 2), (.stw d a i, 4), (.std d a i, 8), (.stq d a i, 16)] →
    RunsOn s e e.f.cg 1 → Held e.f (regsOf d n ++ [a, a + 1]) → Here e.f (regsOf d n ++ [a, a + 1]) →
    let ea := BitVec.ofInt 64 ((e.f.val2 a).toNat + (BitVec.ofNat 10 i).toInt)
    ∀ acc : Acc,
    (s.access e ea n n .store = .ok acc → acc.cls = .ordered → footprint (e.f.pendWith d n acc) ≤ 128 →
      ∃ f, StoresPending e.f f d n acc.locs ∧ Leaves s e w f) ∧
    (s.access e ea n n .store = .ok acc → acc.cls = .ordered → 128 < footprint (e.f.pendWith d n acc) →
      nextB e.l.q e.f.clk < 2 ^ 56 → exec w s = .next ((s.turnAt e.l { e.f with clk := nextB e.l.q e.f.clk, pass := false, peers := [] }
        (nextB e.l.q e.f.clk) .resume).count e.l.part 4 1).ticked) ∧
    (s.memOk = true → s.access e ea n n .store = .ok acc → acc.cls = .exclusive →
      ∃ t, StoresDirect s t e d n acc.locs ∧ exec w s = .next (passed t e e.f 1 1)) ∧
    (∀ c k x, s.access e ea n n .store = .error (.fault c k x) → Faults s e w c k x)) ∧
  (∀ (s : State) (e : Env) (d a b g n : Nat) (w : Instr),
    (w, n) ∈ [(Instr.stbx d a b g, 1), (.sthx d a b g, 2), (.stwx d a b g, 4), (.stdx d a b g, 8)] →
    RunsOn s e g 1 → Held e.f (regsOf d n ++ [b]) → Here e.f (regsOf d n ++ [b]) → UniHere e [a, a + 1] →
    let ea := BitVec.ofNat 64 ((sget2 e.p a).toNat + (e.f.val b).toNat * n)
    ∀ acc : Acc,
    (s.access e ea n n .store = .ok acc → acc.cls = .ordered → footprint (e.f.pendWith d n acc) ≤ 128 →
      ∃ f, StoresPending e.f f d n acc.locs ∧ Leaves s e w f) ∧
    (s.access e ea n n .store = .ok acc → acc.cls = .ordered → 128 < footprint (e.f.pendWith d n acc) →
      nextB e.l.q e.f.clk < 2 ^ 56 → exec w s = .next ((s.turnAt e.l { e.f with clk := nextB e.l.q e.f.clk, pass := false, peers := [] }
        (nextB e.l.q e.f.clk) .resume).count e.l.part 4 1).ticked) ∧
    (s.memOk = true → s.access e ea n n .store = .ok acc → acc.cls = .exclusive →
      ∃ t, StoresDirect s t e d n acc.locs ∧ exec w s = .next (passed t e e.f 1 1)) ∧
    (∀ c k x, s.access e ea n n .store = .error (.fault c k x) → Faults s e w c k x))

/-- The uniform loads are warp points: they read a Constant page or the arguments for the whole warp, and leave one outstanding result in
each fibre that is guarded on, under its clause's token; any other place faults all of these. The uniform registers take the words when
the first of the results arrives, `s0` keeping its zero (R46, R97, R160, R164). Prefetch and pinning are hints: no register or memory byte
changes, `pf` raises no translation fault, and where a context's quota is used up a `pin` takes no further superblock (R165, R166). Where
the spec does not decide it, the model's own choices hold: log entries 21 and 22. -/
def Obligations.UniformLoadsAndHints : Prop :=
  (∀ (s : State) (e : Env) (d a i n : Nat) (w : Instr), i < 1024 → (w, n) ∈ [(Instr.uldw d a i, 4), (.uldd d a i, 8)] → e.uniHere →
    let ea := BitVec.ofInt 64 ((sget2 e.p a).toNat + (BitVec.ofNat 10 i).toInt)
    let es := meeting s .warp e w
    let regs := (List.range (n / 4)).map (d + ·)
    (∀ x ∈ es, x.f.pred x.f.cg = true → x.f.outCount < 63) →
    (∀ va bs, Completes s .warp e w 1 → (∃ x ∈ es, x.f.pred x.f.cg = true) → ea.toNat % n = 0 → regionOf ea = some (.glob va) →
      (classOf e.l va).1 = .constant →
      (inArgs va = true ∧ bs = (List.range n).map (fun k => argByte e.l (va - argBase + k)) ∨
        inArgs va = false ∧ ∃ pa, s.translate e.l va .read = .ok pa ∧ bs = memBytes s.mem pa n) →
      ∃ locs, exec w s = .next (passEach ((arrived s e w).updWarp e.p.wref e.p.j fun p => { p with uouts := regs }) es 1 1 fun x =>
        if x.f.pred x.f.cg then x.f.withUload ea x.key regs (loadWords n false bs) locs else x.f.uLanded).ticked) ∧
    (LastAt s .warp e w → ea.toNat % n = 0 → regionOf ea ≠ none → (∀ va, regionOf ea = some (.glob va) → (classOf e.l va).1 ≠ .constant) →
      es ≠ [] → (∀ x ∈ es, x.f.pred x.f.cg = true) → exec w s = .next (parkAll (arrived s e w) es 0x06 3 ea).ticked)) ∧
  (∀ (p : Warp) (o : Outst) (d k : Nat) (x : Word), o.sdst = [d] → d ∈ p.uouts → d < p.sregs.length →
    d ∉ (p.landed o [x]).uouts ∧ sget (p.landed o [x]) k = if k = 0 then 0 else if k = d then x else sget p k) ∧
  (∀ (s : State) (e : Env) (a i : Nat), i < 1024 → RunsOn s e e.f.cg 1 → Held e.f [a, a + 1] → Here e.f [a, a + 1] →
    let ea := BitVec.ofInt 64 ((e.f.val2 a).toNat + (BitVec.ofNat 10 i).toInt)
    (∀ acc, s.access e ea 1 1 .prefetch = .ok acc → Leaves s e (.pf a i) e.f) ∧
    (∀ k, s.access e ea 1 1 .prefetch = .error (.fault 0x01 k ea) → Leaves s e (.pf a i) e.f) ∧
    (∀ c k, c ≠ 0x01 → s.access e ea 1 1 .prefetch = .error (.fault c k ea) → Faults s e (.pf a i) c k ea)) ∧
  (∀ (s : State) (e : Env) (a b g : Nat), RunsOn s e g 1 → UniHere e [a, a + 1, b] → ∀ w ∈ [Instr.pin a b g, .unpin a b g],
    ∃ t, exec w s = .next (passed t e e.f 1 1) ∧ t.mem = s.mem ∧ t.wgs = s.wgs ∧ t.warps = s.warps ∧ t.fibres = s.fibres ∧ t.launches = s.launches) ∧
  (∀ (s : State) (e : Env) (a b g : Nat) (c : Context), RunsOn s e g 1 → UniHere e [a, a + 1, b] → s.ctxOf? e.l = some c →
    c.quota ≤ (c.pins.map fun x => x.block).eraseDups.length → ∃ t c', exec (.pin a b g) s = .next (passed t e e.f 1 1) ∧ t.ctxOf? e.l = some c' ∧
      { c' with pins := c.pins } = c ∧ (∀ x ∈ c.pins, x ∈ c'.pins) ∧ ∀ x ∈ c'.pins, ∃ y ∈ c.pins, y.block = x.block ∧ y.phys = x.phys)

/-- An atomic whose address passes the checks publishes the fibre's pending stores and takes its turn at its own clock, with its operation
and operands, and the location is as it was; a check that fails takes no turn. `turn` takes the turn alone (R133, R136, R139, R156, R167
to R170). The new value that each atomic gives its location (R168, R169). Where the spec does not decide it, the model's own choices hold:
log entries 9 and 16. -/
def Obligations.AtomicsAreOneTurn : Prop :=
  (∀ (s : State) (e : Env) (d a b g n m : Nat) (w : Instr) (op : AOp),
    (w, op, n, m) ∈ [(Instr.amoadd d a b g, AOp.add, 1, 1), (.amomin d a b g, .min, 1, 1), (.amomax d a b g, .max, 1, 1),
      (.amominu d a b g, .minu, 1, 1), (.amomaxu d a b g, .maxu, 1, 1), (.amoand d a b g, .and, 1, 1), (.amoor d a b g, .or, 1, 1),
      (.amoxor d a b g, .xor, 1, 1), (.amoxchg d a b g, .xchg, 1, 1), (.amocas d a b g, .cas, 1, 2), (.amofadd d a b g, .fadd, 1, 1),
      (.amofmin d a b g, .fmin, 1, 1), (.amofmax d a b g, .fmax, 1, 1), (.amoaddw d a b g, .addw, 2, 2)] →
    RunsOn s e g 1 → Held e.f ((List.range n).map (d + ·) ++ [a, a + 1] ++ (List.range m).map (b + ·)) →
    Here e.f ([a, a + 1] ++ (List.range m).map (b + ·)) → e.f.outCount < 63 →
    (∀ acc, s.access e (e.f.val2 a) (4 * n) (4 * n) .atomic = .ok acc →
      exec w s = .next (s.turnAt e.l e.f e.f.clk (.atom
        { op := op, addr := (e.f.val2 a).toNat, locs := acc.locs, direct := decide (acc.cls = .exclusive), b0 := e.f.val b,
          b1 := if m = 2 then e.f.val (b + 1) else 0, dst := (List.range n).map (e.f.phys d + ·) })).ticked) ∧
    (∀ c k x, s.access e (e.f.val2 a) (4 * n) (4 * n) .atomic = .error (.fault c k x) → Faults s e w c k x)) ∧
  (∀ (s : State) (e : Env) (g : Nat), RunsOn s e g 1 →
    exec (.turn g) s = .next (s.turnAt e.l e.f e.f.clk (.leave (e.f.clk + 1))).ticked) ∧
  (∀ (s : State) (e : Env) (t : Nat) (k : AfterTurn), s.env? e.f.ref = some e →
    (s.turnAt e.l e.f t k).mem = s.mem ∧ (s.turnAt e.l e.f t k).fibre? e.f.ref = some { e.f.published t with st := .turn t k } ∧
    ∃ l, (s.turnAt e.l e.f t k).launch? e.l.ref = some l ∧
      l.pubs = (e.l.publish ⟨⟨t, e.l.warps * e.f.ref.wref.wg + e.f.ref.warp, e.f.ref.lane⟩, 0, false, pendBytes e.f.pend,
      some (e.f.pc, e.f.widx)⟩).pubs) ∧
  (∀ (o b c : Word) (w : BitVec 64),
     atomValue .add o.toNat b c = (o.toNat + b.toNat) % 2 ^ 32 ∧ atomValue .min o.toNat b c = (BitVec.ofInt 32 (min o.toInt b.toInt)).toNat ∧
     atomValue .max o.toNat b c = (BitVec.ofInt 32 (max o.toInt b.toInt)).toNat ∧ atomValue .minu o.toNat b c = min o.toNat b.toNat ∧
     atomValue .maxu o.toNat b c = max o.toNat b.toNat ∧ atomValue .and o.toNat b c = (o &&& b).toNat ∧
     atomValue .or o.toNat b c = (o ||| b).toNat ∧ atomValue .xor o.toNat b c = (o ^^^ b).toNat ∧ atomValue .xchg o.toNat b c = b.toNat ∧
     atomValue .cas o.toNat b c = (if o = b then c.toNat else o.toNat) ∧
     atomValue .addw w.toNat b c = (w.toNat + b.toNat + 2 ^ 32 * c.toNat) % 2 ^ 64 ∧
     atomValue .fadd o.toNat b c = (fp32.addF rneRnd (fp32.value o.toNat) (fp32.value b.toNat)).bits ∧
     atomValue .fmin o.toNat b c = (fp32.minmax false o.toNat b.toNat).bits ∧ atomValue .fmax o.toNat b c = (fp32.minmax true o.toNat b.toNat).bits)

/-! ## Tiles, engines and the Harp (R111 to R130, R171 to R208) -/

/-- The matrix words that issue a command: with operands in shape, format and bounds the command joins its workgroup's queue with the key,
batch and view of the fibre; what fails a check parks the fibre. It waits while 64 commands are incomplete and a fibre of a lower key
still runs, for which entries are kept (R111 to R113, R118, R119, R121 to R127). `mcommit` closes the fibre's batch, and `mwait` completes
once every batch but the n last committed has taken effect, and waits until then (R116, R127). `mrd` and `mwr` access the element or the
status word of a tile that the index register selects, once every command on the tile below their key has taken effect and none of them is
still open; an index between them is an illegal operand (R113, R117, R128, R130). Where the spec does not decide it, the model's own
choices hold: log entries 9, 22, 58 and 63. -/
def Obligations.MatrixWords : Prop :=
  (∀ (s : State) (e : Env) (tile da db mode id pre0 pre1 org kd g : Nat) (i : Instr) (ter : Bool),
    (i, ter) ∈ [(Instr.mmf tile da db mode id pre0 pre1 org kd, false), (.mmt tile da db mode id pre0 pre1 org kd, true)] → g = e.f.cg →
    RunsOn s e g 2 → UniHere e [org, org + 1] →
    let a := s.descEntry e da
    let b := s.descEntry e db
    let o0 := sget e.p org
    let o1 := sget e.p (org + 1)
    let ca := boxAt o0.toNat (o1.toNat % 2 ^ 16 : Nat) (8 * kd) (a.box 1)
    let cb := boxAt o0.toNat (o1.toNat / 2 ^ 16 : Nat) (8 * kd) (b.box 1)
    let bad := beyondAlloc e.l a (a.sfmt ≠ 0 && mode < 2) ca ++ beyondAlloc e.l b (b.sfmt ≠ 0) cb
    (e.l.tiles ≤ tile → Faults s e i 0x10 0 (BitVec.ofNat 64 tile)) ∧
    (tile < e.l.tiles → a.valid = false → Faults s e i 0x12 0 (BitVec.ofNat 64 da)) ∧
    (tile < e.l.tiles → a.valid = true → b.valid = false → Faults s e i 0x12 0 (BitVec.ofNat 64 db)) ∧
    (tile < e.l.tiles → a.valid = true → b.valid = true → matDescOk a false = true → matDescOk b false = true →
      (a.fmt, b.fmt) ∈ (if ter then [(9, 6), (9, 7)] else [(1, 1), (2, 2), (3, 3), (3, 4), (4, 3), (4, 4), (5, 5)]) →
      (a.fmt = 5 ∨ a.fmt = 9 → o0.toNat % 8 = 0) →
      (bad = [] → s.queueFree e = true → Queues s e i 2 (e.mcmd i tile id (predOf e.w e.f.uid pre0 ++ predOf e.w e.f.uid pre1) a b o0 o1)) ∧
      (bad = [] → s.queueFree e = false → HeldFor s e i 7) ∧
      (∀ x, x ∈ bad → (∀ y ∈ bad, x ≤ y) → Faults s e i 0x04 0 (BitVec.ofInt 64 x)))) ∧
  (∀ (s : State) (e : Env) (d a g : Nat), RunsOn s e g 1 →
    (d < e.l.tiles → s.queueFree e = true → Queues s e (.mzero d g) 1 (e.mcmd (.mzero d g) d 63 [] noDesc noDesc 0 0) ∧
      (UniHere e [a] → Queues s e (.mscale d a g) 1 (e.mcmd (.mscale d a g) d 63 [] noDesc noDesc (sget e.p a) 0))) ∧
    (d < e.l.tiles → s.queueFree e = false → HeldFor s e (.mzero d g) 7) ∧
    (e.l.tiles ≤ d → Faults s e (.mzero d g) 0x10 0 (BitVec.ofNat 64 d) ∧ Faults s e (.mscale d a g) 0x10 0 (BitVec.ofNat 64 d))) ∧
  (∀ (s : State) (e : Env) (d a n : Nat), n < 256 → RunsOn s e e.f.cg 1 → UniHere e [a, a + 1] → ∀ i ∈ [Instr.mld d a n, .mst d a n],
    let t := s.descEntry e n
    (e.l.tiles ≤ d → Faults s e i 0x10 0 (BitVec.ofNat 64 d)) ∧
    (d < e.l.tiles → t.valid = false → Faults s e i 0x12 0 (BitVec.ofNat 64 n)) ∧
    (d < e.l.tiles → t.valid = true → matDescOk t true = true → t.fmt ∉ [0, 1, 2, 8] → Faults s e i 0x11 0 (BitVec.ofNat 64 n)) ∧
    (d < e.l.tiles → t.valid = true → matDescOk t true = true → t.fmt ∈ [0, 1, 2, 8] →
      beyondAlloc e.l t false (boxAt (sget e.p a).toInt (sget e.p (a + 1)).toInt (t.box 0) (t.box 1)) = [] → s.queueFree e = true →
      Queues s e i 1 (e.mcmd i d 63 [] t noDesc (sget e.p a) (sget e.p (a + 1))))) ∧
  (∀ (s : State) (e : Env), s.queueFree e = true ↔ ((e.w.mcmds.filter fun c => !c.done).length < 64 ∨
    ∀ g ∈ s.wgFibres e.w.ref, g.ref ≠ e.f.ref → g.st = .enter ∨ g.st = .run → keyLt e.key (keyAt e.l g.ref g.clk) = true)) ∧
  (∀ (s : State) (e : Env) (g : Nat), RunsOn s e g 1 →
    exec (.mcommit g) s = .next (passed (s.updW e.w.ref fun w => { w with mlog := w.mlog ++ [.commit e.f.uid e.f.commits e.key] }) e
      { e.f with commits := e.f.commits + 1 } 1 1)) ∧
  (∀ (s : State) (e : Env) (i : Nat), i < 64 → RunsOn s e e.f.cg 1 →
    ((∀ c ∈ e.w.mcmds, c.uid = e.f.uid → c.batch + i < e.f.commits → c.done = true) →
      exec (.mwait i) s = .next (passed (s.updW e.w.ref fun w => { w with mlog := w.mlog ++ [.wait e.f.uid (e.f.commits - i) e.key] }) e e.f 1 1)) ∧
    ((∃ c ∈ e.w.mcmds, c.uid = e.f.uid ∧ c.batch + i < e.f.commits ∧ c.done = false) → HeldFor s e (.mwait i) 10)) ∧
  (∀ (s : State) (e : Env) (d a b g : Nat), RunsOn s e g 1 → Held e.f [d, b] → Here e.f [b] → e.f.outCount < 63 →
    let i := (e.f.val b).toNat
    (e.l.tiles ≤ a → Faults s e (.mrd d a b g) 0x10 0 (BitVec.ofNat 64 a)) ∧
    (a < e.l.tiles → 0x4000 ≤ i → i ≠ 0x10000 → Faults s e (.mrd d a b g) 0x0B 0 (BitVec.ofNat 64 i)) ∧
    (a < e.l.tiles → (i < 0x4000 ∨ i = 0x10000) → s.matrixOk e.l e.w.ref e.key e.f.uid = true → tileReady e.w a e.key = true →
      (tileOpen e.w a e.key = true → Faults s e (.mrd d a b g) 0x13 0 (BitVec.ofNat 64 a)) ∧
      (tileOpen e.w a e.key = false → Leaves s e (.mrd d a b g) (e.f.awaiting
        { kind := .tile, dst := e.f.dsts d 1, token := e.f.setTok, key := e.key, addr := a + 16 * i, size := 4, sext := false,
          rd := noRd, locs := [],
          vals := some [if i < 0x4000 then elemGet (e.w.tile a).elems i else (e.w.tile a).status.setWidth 32] })))) ∧
  (∀ (s : State) (e : Env) (d a b g : Nat), RunsOn s e g 1 → Held e.f [a, b] → Here e.f [a, b] →
    let i := (e.f.val b).toNat
    let x := e.f.val a
    (e.l.tiles ≤ d → Faults s e (.mwr d a b g) 0x10 0 (BitVec.ofNat 64 d)) ∧
    (d < e.l.tiles → 0x4000 ≤ i → i ≠ 0x10000 → Faults s e (.mwr d a b g) 0x0B 0 (BitVec.ofNat 64 i)) ∧
    (d < e.l.tiles → (i < 0x4000 ∨ i = 0x10000) → s.matrixOk e.l e.w.ref e.key e.f.uid = true → tileReady e.w d e.key = true →
      (tileOpen e.w d e.key = true → Faults s e (.mwr d a b g) 0x13 0 (BitVec.ofNat 64 d)) ∧
      (tileOpen e.w d e.key = false → (e.w.tile d).elems.Pairwise (fun y z => y.1 < z.1) → ∃ t : Tile,
        exec (.mwr d a b g) s = .next (passed (s.updW e.w.ref fun w => { w with tiles := setAt w.tiles d t }) e e.f 1 1) ∧
        t.status = (if i < 0x4000 then (e.w.tile d).status else x.extractLsb' 0 2) ∧
        ∀ k, elemGet t.elems k = if k = i ∧ i < 0x4000 then x else elemGet (e.w.tile d).elems k)))

/-- The copy words: with valid descriptors that fit each other, an index list and a live barrier, the command joins its launch with the
fibre's key and coordinates, and its bytes are registered on the barrier; a descriptor that is not valid is a fault (R171 to R179, R369).
Where the spec does not decide it, the model's own choices hold: log entries 9, 20 and 58. -/
def Obligations.CopyWords : Prop :=
  ∀ (s : State) (e : Env) (crb da mode g db sba aux flags : Nat) (i : Instr),
    i ∈ [Instr.cpy crb da mode g db sba aux flags, .cpyr crb da mode g db sba aux flags, .gath crb da mode g db sba aux flags,
      .scat crb da mode g db sba aux flags] →
    RunsOn s e g 2 →
    let rs := [crb, crb + 1, crb + 2, crb + 3, sba] ++ (if 2 ≤ ecKind i then [aux] else [])
    Held e.f rs → Here e.f rs →
    let c := (List.range 4).map fun k => (e.f.val (crb + k)).toInt
    let a := s.descEntry e da
    let b := s.descEntry e db
    (a.valid = false → Faults s e i 0x12 0 (BitVec.ofNat 64 da)) ∧ (a.valid = true → b.valid = false → Faults s e i 0x12 0 (BitVec.ofNat 64 db)) ∧
    (∀ (idx : List Nat) (sb : StageBar), a.valid = true → b.valid = true → descOk i a c (orgOnA i) = true → descOk i b c (!orgOnA i) = true →
      descPairOk i a b = true → s.indexList e i aux (flags % 2 ^ 11) = .ok idx → s.peerSide e a = .ok () → s.peerSide e b = .ok () →
      s.liveBar e (e.f.val sba).toNat = .ok sb →
      ∀ cancelled, cancelled = ((movesOf i a c idx).any fun m => cancels a m.src || cancels b m.dst) →
      (cancelled = false → elemChecks e i a b (movesOf i a c idx) = .ok ()) →
      ∃ m : ECmd, m.n = e.l.fresh ∧ m.i = i ∧ m.key = e.key ∧ m.wref = e.w.ref ∧ m.da = a ∧ m.db = b ∧ m.coords = c ∧ m.idx = idx ∧
        m.bar = sb.addr ∧ m.phase = none ∧ m.rd = e.rd ∧ m.bytes = ecBytes i a idx ∧ m.done = cancelled ∧ m.cause = (if cancelled then 3 else 0) ∧
        exec i s = .next (passed ((s.updL e.l.ref fun l => { l with fresh := e.l.fresh + 1, ecmds := l.ecmds ++ [m] }).queueAct e sb.addr
          (.reg m.n m.bytes)) e e.f 2 2))

/-- The stage-barrier words: `sbinit` makes a barrier whose 64 bytes read 0 above its key, `sbexp` and `sbarv` queue an act on a live one,
`sbwait` turns and waits, `sbtest` answers for a phase that is settled, open or retired; operands out of range park the fibre (R182, R183,
R187 to R189). `dset` makes 64 bytes pending for a descriptor entry, `wdset` configures the distributor, and `wdq` asks it for an item,
registers on a barrier and turns (R191 to R193). Where the spec does not decide it, the model's own choices hold: log entries 14, 15 and
62. -/
def Obligations.BarrierAndDistributorWords : Prop :=
  (∀ (s : State) (e : Env) (a b g : Nat), RunsOn s e g 1 → Held e.f [a, b] → Here e.f [a, b] →
    let o := (e.f.val a).toNat
    let n := (e.f.val b).toNat
    (o % 64 ≠ 0 ∨ e.l.scratch * 256 < o + 64 → Faults s e (.sbinit a b g) 0x14 0 (BitVec.ofNat 64 o)) ∧
    (o % 64 = 0 → o + 64 ≤ e.l.scratch * 256 → e.w.bar? o ≠ none ∨ 64 ≤ e.w.sbars.length → Faults s e (.sbinit a b g) 0x14 0 (BitVec.ofNat 64 o)) ∧
    (o % 64 = 0 → o + 64 ≤ e.l.scratch * 256 → e.w.bar? o = none → e.w.sbars.length < 64 → s.sbinitPending e = false →
      ((n = 0 ∨ 65535 < n) → Faults s e (.sbinit a b g) 0x0B 0 (BitVec.ofNat 64 n)) ∧
      (1 ≤ n → n ≤ 65535 → ∃ t, exec (.sbinit a b g) s = .next (passed t e e.f 1 1) ∧ t = (s.updW e.w.ref fun w => { w with sbars := w.sbars ++ [newBar o n e.key] }) ∧
        (∀ rd k, keyLt e.key rd.key = true → k < 64 → t.readRd e.l rd (.spad e.w.ref.wg (o + k)) = 0)))) ∧
  (∀ (s : State) (e : Env) (a b g : Nat) (sb : StageBar), RunsOn s e g 1 → Held e.f [a, b] → Here e.f [a, b] →
    s.liveBar e (e.f.val a).toNat = .ok sb →
    let n := (e.f.val b).toNat
    Acts s e (.sbexp a b g) sb.addr (.exp n) ∧
    (1 ≤ n → n ≤ 65535 → Acts s e (.sbarv a b g) sb.addr (.arv n)) ∧
    ((n = 0 ∨ 65535 < n) → Faults s e (.sbarv a b g) 0x0B 0 (BitVec.ofNat 64 n)) ∧
    (n < 2 ^ 31 → exec (.sbwait a b g) s = .next (s.turnAt e.l e.f e.f.clk (.sbwait sb.addr n e.f.clk none)).ticked) ∧
    (2 ^ 31 ≤ n → Faults s e (.sbwait a b g) 0x0B 0 (BitVec.ofNat 64 n)) ∧
    (∀ d, s.actsBelowDone e.l e.w sb e.key e.f.ref = true →
      let away := (n % 2 ^ 31 + 2 ^ 31 - sb.phase % 2 ^ 31) % 2 ^ 31
      (away < 2 ^ 30 ∨ away = 2 ^ 31 - 1 ∧ e.f.view ≤ sb.cp → Tests s e (.sbtest d a b g) d false) ∧
      (away = 2 ^ 31 - 1 → sb.cp < e.f.view → sb.cdone = false → HeldFor s e (.sbtest d a b g) 14) ∧
      (away = 2 ^ 31 - 1 → sb.cp < e.f.view → sb.cdone = true →
        let r := if 2 ^ 31 ≤ n then sb.cstat else true
        (r = true → sb.ccause ≠ 0 → Faults s e (.sbtest d a b g) 0x15 sb.ccause (BitVec.ofNat 64 (e.f.val a).toNat)) ∧
        (r = false ∨ sb.ccause = 0 → Tests s e (.sbtest d a b g) d r)) ∧
      (2 ^ 30 ≤ away → away ≠ 2 ^ 31 - 1 → Faults s e (.sbtest d a b g) 0x15 0x80 (BitVec.ofNat 64 (e.f.val a).toNat)))) ∧
  (∀ (s : State) (e : Env) (a b g d : Nat), RunsOn s e g 1 → Held e.f [a, b] → Here e.f [a, b] →
    ((e.f.val a).toNat % 64 ≠ 0 ∨ e.l.scratch * 256 < (e.f.val a).toNat + 64) →
    ∀ i ∈ [Instr.sbexp a b g, .sbarv a b g, .sbwait a b g, .sbtest d a b g], Faults s e i 0x14 0 (BitVec.ofNat 64 (e.f.val a).toNat)) ∧
  (∀ (s : State) (e : Env) (a i : Nat) (acc : Acc) (bs : List Byte), i < 256 → RunsOn s e e.f.cg 1 → Held e.f [a, a + 1] → Here e.f [a, a + 1] →
    s.access e (e.f.val2 a) 64 64 .load = .ok acc → s.accBytes e acc = .ok bs → bs.length = 64 → footprint e.f.pend ≤ 126 →
    ∃ f : Fibre, Leaves s e (.dset a i) f ∧ { f with pend := e.f.pend } = e.f ∧
      (∀ k x, bs[k]? = some x → f.pendAt (.desc e.w.ref.wg (64 * i + k)) = some x) ∧
      ∀ x, (∀ k, k < 64 → x ≠ .desc e.w.ref.wg (64 * i + k)) → f.pendAt x = e.f.pendAt x) ∧
  (∀ (s : State) (e : Env) (a g : Nat) (acc : Acc) (bs : List Byte), RunsOn s e g 1 → Held e.f [a, a + 1] → Here e.f [a, a + 1] →
    s.access e (e.f.val2 a) 16 16 .load = .ok acc → s.accBytes e acc = .ok bs →
    let v := ofBytes bs
    let count := v % 2 ^ 32
    let first := v / 2 ^ 32 % 2 ^ 32
    (v < 2 ^ 64 → first + count < 2 ^ 32 → exec (.wdset a g) s =
      .next (passed (s.updL e.l.ref fun l => { l with dist := l.dist ++ [(e.key, first, count)] }) e e.f 1 1)) ∧
    (2 ^ 64 ≤ v ∨ 2 ^ 32 ≤ first + count → Faults s e (.wdset a g) 0x0B 0 (e.f.val2 a))) ∧
  (∀ (s : State) (e : Env) (a b g : Nat), RunsOn s e g 1 → Held e.f [a, b] → Here e.f [a, b] →
    let o := (e.f.val a).toNat
    (2 ^ 20 ≤ o → Faults s e (.wdq a b g) 0x02 0 (BitVec.ofNat 64 o)) ∧
    (o < 2 ^ 20 → o % 4 ≠ 0 → Faults s e (.wdq a b g) 0x03 0 (BitVec.ofNat 64 o)) ∧
    (o < 2 ^ 20 → o % 4 = 0 → e.l.scratch * 256 < o + 4 → Faults s e (.wdq a b g) 0x04 0 (BitVec.ofNat 64 o)) ∧
    (o < 2 ^ 20 → o % 4 = 0 → o + 4 ≤ e.l.scratch * 256 → s.hitsBarrier e e.w.ref.wg o 4 ≠ none → Faults s e (.wdq a b g) 0x14 0 (BitVec.ofNat 64 o)) ∧
    (∀ sb, o < 2 ^ 20 → o % 4 = 0 → o + 4 ≤ e.l.scratch * 256 → s.hitsBarrier e e.w.ref.wg o 4 = none → s.sbinitPending e = false → s.liveBar e (e.f.val b).toNat = .ok sb →
      exec (.wdq a b g) s = .next ((((s.updL e.l.ref fun l =>
          { l with fresh := e.l.fresh + 1, wdqs := l.wdqs ++ [⟨e.l.fresh, e.key, e.w.ref, o, sb.addr, none, false, (e.f.pc, e.f.widx)⟩] }).queueAct e sb.addr
        (.wdq e.l.fresh)).turnAt e.l e.f e.f.clk (.leave (e.f.clk + 1)))).ticked))

/-- The Harp words check their operands and then wait for their act, the fibre otherwise as it was (R201 to R207). Each Harp word
completes in two steps: it waits for its act, and once the act's place in the order has come the act has its effect: a stream opens, a
push adds its constraint and turns, a stream drains, an `hnext` gets its answer, a constraint is done, an `hsync` of a closed stream turns
(R197, R201 to R207). Harp acts, in key order: opening, pushing into the first group that no body shares, closing, handing out, retiring
when the last constraint is done, and synchronising; a stream in the wrong state faults (R196 to R207). Where the spec does not decide it,
the model's own choice holds: log entry 17. -/
def Obligations.HarpStreams : Prop :=
  (∀ (s : State) (e : Env) (a g : Nat), RunsOn s e g 1 → AwaitsHarp s e (.hclose a g) ∧ AwaitsHarp s e (.hsync a g)) ∧
  (∀ (s : State) (e : Env) (a b g : Nat), RunsOn s e g 1 → Held e.f [b, b + 1] → Here e.f [b, b + 1] →
    let n := (e.f.val2 b).toNat
    (1 ≤ n → n ≤ 2 ^ 24 → AwaitsHarp s e (.hopen a b g)) ∧ (n = 0 ∨ 2 ^ 24 < n → Faults s e (.hopen a b g) 0x0B 0 (BitVec.ofNat 64 n))) ∧
  (∀ (s : State) (e : Env) (d a b g : Nat), RunsOn s e g 1 → Held e.f [d, d + 1, d + 2, d + 3, b] → Here e.f [d, d + 1, d + 2, d + 3, b] →
    let n := (e.f.val b).toNat
    (n < 0xFFFFFFFE → AwaitsHarp s e (.hpush d a b g)) ∧ (0xFFFFFFFE ≤ n → Faults s e (.hpush d a b g) 0x0B 0 (BitVec.ofNat 64 n)) ∧
    AwaitsHarp s e (.hdone a b g)) ∧
  (∀ (s : State) (e : Env) (d a g : Nat), RunsOn s e g 1 → Held e.f [d] → e.f.outCount < 63 → AwaitsHarp s e (.hnext d a g)) ∧
  (∀ (s : State) (e : Env) (d a b g : Nat), RunsOn s e g 1 → e.moves = true → Held e.f [d, d + 1, d + 2, d + 3, b, b + 1] →
     Here e.f [d, d + 1, d + 2, d + 3, b, b + 1] → e.f.outCount < 63 →
     let x := e.w.stream a
     let c := e.f.clk
     let slots := (List.range 4).map fun k => (e.f.val (d + k)).toNat
     let goes := fun (i : Instr) (eff : State → Env → State) =>
       let y := { e with f := { e.f with st := .harp i } }
       let t := (s.setF y.f).ticked
       exec i s = .next t ∧ (t.harpOk e.l e.w.ref a e.key e.f.ref = true → exec (.harpActApply e.f.ref) t = .next (eff t y))
     (x.st = .closed → 1 ≤ (e.f.val2 b).toNat → (e.f.val2 b).toNat ≤ 2 ^ 24 → goes (.hopen a b g) fun t y =>
       passed ((t.setStream e.w.ref a { Stream.closed with st := .opened, nb := (e.f.val2 b).toNat }).refitPins e.l.part) y y.f 1 1) ∧
     (x.st = .opened → (e.f.val b).toNat < 0xFFFFFFFE → (∀ n ∈ slots, n = 0xFFFFFFFF ∨ n < x.nb) → x.fits slots = true →
       goes (.hpush d a b g) fun t y => ((t.setStream e.w.ref a (x.push slots (e.f.val b).toNat)).raiseTurn e.l y.f c (.leave (c + 1))).ticked) ∧
     (x.st = .opened → x.cons ≠ [] → goes (.hclose a g) fun t y => passed (t.setStream e.w.ref a { x with st := .draining }) y y.f 1 1) ∧
     (goes (.hnext d a g) fun t y => ((t.setStream e.w.ref a (x.answer c).2).turnAt e.l (vset y.f d (BitVec.ofNat 32 (x.answer c).1)) c
       (.leave (c + 1))).ticked) ∧
     (let mine := fun (z : Constraint) => decide (z.st = .handed) && decide (z.payload = (e.f.val b).toNat)
      let z := { x with cons := markFirst mine .done x.cons }
      x.st ≠ .closed → x.cons.any mine = true → z.retire c = none →
        goes (.hdone a b g) fun t y => ((t.setStream e.w.ref a z).turnAt e.l y.f c (.leave (c + 1))).ticked) ∧
     (x.st = .closed → goes (.hsync a g) fun t y => (t.turnAt e.l y.f c (.leave (c + 1))).ticked) ∧
     (x.st ≠ .closed → goes (.hsync a g) fun t y => (t.turnAt e.l y.f c (.hsync a (x.f + 1) c none)).ticked)) ∧
  (∀ (s : State) (r : FRef) (e : Env) (i : Instr), s.env? r = some e → e.f.st = .harp i → e.moves = true →
    s.harpOk e.l e.w.ref (harpHandle i) e.key r = true →
    let x := fun (h : Nat) => e.w.stream h
    let reg := fun (n : Nat) => e.f.regs.getD (e.f.wbase + n) 0
    (∀ a b g, i = .hopen a b g → ((x a).st = .closed → Room e 1 → exec (.harpActApply r) s = .next (passed ((s.setStream e.w.ref a
        { st := .opened, nb := (pair64 (reg b) (reg (b + 1))).toNat, last := [], cons := [], f := 0, rclk := [] }).refitPins e.l.part) e e.f 1 1)) ∧
      ((x a).st ≠ .closed → exec (.harpActApply r) s = .next (s.park e 0x16 0 (BitVec.ofNat 64 a)))) ∧
    (∀ d a b g, i = .hpush d a b g → (x a).st = .opened →
      let slots := (List.range 4).map fun k => (reg (d + k)).toNat
      ((∃ b, slots.find? (fun b => decide (b ≠ 0xFFFFFFFF ∧ (x a).nb ≤ b)) = some b ∧
          exec (.harpActApply r) s = .next (s.park e 0x0B 0 (BitVec.ofNat 64 b))) ∨
        (∀ b ∈ slots, b = 0xFFFFFFFF ∨ b < (x a).nb)) ∧
      ((∀ b ∈ slots, b = 0xFFFFFFFF ∨ b < (x a).nb) → (x a).fits slots = true →
        Does s (.harpActApply r) ((s.setStream e.w.ref a ((x a).push slots (reg b).toNat)).raiseTurn e.l e.f e.f.clk (.leave (e.f.clk + 1)))) ∧
      ((∀ b ∈ slots, b = 0xFFFFFFFF ∨ b < (x a).nb) → (x a).fits slots = false →
        Does s (.harpActApply r) (s.turnAt e.l e.f e.f.clk (.hstall a slots (reg b).toNat e.f.clk e.f.clk false)))) ∧
    (∀ a g, i = .hclose a g → (x a).st = .opened → Room e 1 →
      ((x a).cons ≠ [] → exec (.harpActApply r) s = .next (passed (s.setStream e.w.ref a { x a with st := .draining }) e e.f 1 1)) ∧
      ((x a).cons = [] → let t := s.setStream e.w.ref a Stream.closed
        exec (.harpActApply r) s =
          .next (passed ((t.wgFibres e.w.ref).foldl (fun t g => t.wakeClosed e.l a g) t) e e.f 1 1))) ∧
    (∀ d a g, i = .hnext d a g → Does s (.harpActApply r) ((s.setStream e.w.ref a ((x a).answer e.f.clk).2).turnAt e.l
      (vset e.f d (BitVec.ofNat 32 ((x a).answer e.f.clk).1)) e.f.clk (.leave (e.f.clk + 1)))) ∧
    (∀ a b g, i = .hdone a b g → (x a).st ≠ .closed →
      let mine := fun (y : Constraint) => decide (y.st = .handed) && decide (y.payload = (reg b).toNat)
      let y := { x a with cons := markFirst mine .done (x a).cons }
      ((∀ y ∈ (x a).cons, mine y = false) → exec (.harpActApply r) s = .next (s.park e 0x0B 0 (BitVec.ofNat 64 (reg b).toNat))) ∧
      ((∃ y ∈ (x a).cons, mine y = true) → y.retire e.f.clk = none →
        Does s (.harpActApply r) ((s.setStream e.w.ref a y).turnAt e.l e.f e.f.clk (.leave (e.f.clk + 1)))) ∧
      (∀ z, (∃ y ∈ (x a).cons, mine y = true) → y.retire e.f.clk = some z → ∃ u w, Does s (.harpActApply r) u ∧ u.mem = s.mem ∧
        u.wg? e.w.ref = some w ∧ (a < e.w.harp.length → w.stream a = z) ∧
        u.fibre? r = some { e.f.published e.f.clk with st := .turn e.f.clk (.leave (e.f.clk + 1)) })) ∧
    (∀ a g, i = .hsync a g → ((x a).st = .closed → Does s (.harpActApply r) (s.turnAt e.l e.f e.f.clk (.leave (e.f.clk + 1)))) ∧
      ((x a).st ≠ .closed → Does s (.harpActApply r) (s.turnAt e.l e.f e.f.clk (.hsync a ((x a).f + 1) e.f.clk none))))) ∧
  (∀ (x : Stream) (slots : List Nat) (p : Nat), let g := x.groupFor slots
    (x.push slots p).cons = x.cons ++ [⟨p, g, .waiting⟩] ∧ x.f < g ∧ (∀ b ∈ slots, b ≠ 0xFFFFFFFF → x.lastOf b < g ∧ (x.push slots p).lastOf b = g) ∧
    ∀ n, n < g → n = x.f ∨ n < x.f ∨ ∃ b ∈ slots, b ≠ 0xFFFFFFFF ∧ n ≤ x.lastOf b) ∧
  (∀ (x : Stream) (c : Nat), (x.answer c).1 = 0xFFFFFFFE ∨ (x.answer c).1 = 0xFFFFFFFF ∨
    ∃ y ∈ x.cons, y.group = x.f + 1 ∧ y.st = .waiting ∧ (x.answer c).1 = y.payload)

/-- The engines: a copy command runs once nothing it reads or orders against is outstanding, and its bytes land; acts on a stage barrier
apply in key order, a closed phase settles, the distributor answers in key order, a code rewrite takes its bytes (R147, R152, R153, R174
to R180, R183 to R188, R193, R194, R299). A matrix command takes its whole effect on its tile once no other fibre can act at or below its
key: `mzero` clears it, `mscale` scales every element with one rounding to nearest, and only `mst` writes memory, by a publication of its
key (R113, R123 to R126). Where the spec does not decide it, the model's own choices hold: log entries 15, 18, 19, 20 and 25. -/
def Obligations.EnginesAndTiles : Prop :=
  (∀ (s : State) (r : LRef) (n : Nat) (l : Launch) (c : ECmd) (w : Workgroup), s.launch? r = some l →
    l.ecmds.find? (fun c => c.n = n ∧ ¬ c.done ∧ ¬ c.waiting) = some c → s.wg? c.wref = some w → w.core ≠ none →
    (s.ecReady l c = false → Waits s (.engineCommandExecute r n)) ∧
    (s.ecReady l c = true → ∀ xs miss hit, s.runMoves l c c.moves [] 0 0 = (xs, miss, hit) →
      (0 < miss → c.skip = false → Does s (.engineCommandExecute r n)
        (s.updL r fun l => { l with ecmds := l.ecmds.map fun m => if m.n = n then { m with waiting := true } else m })) ∧
      (miss = 0 ∨ c.skip = true →
        let landed := (8 * c.bytes - (miss + hit) * fmtBits c.db.fmt) / 8
        let pub : Pub := { key := c.key, rank := 2, release := false, bytes := (xs.filter fun x => !x.direct).flatMap fun x => x.bytes,
                           src := some (c.addr, c.widx) }
        ∃ u l', Does s (.engineCommandExecute r n) u ∧ u.launch? r = some l' ∧ u.fibres = s.fibres ∧ l'.pubs = (l.publish pub).pubs ∧
          (∀ m ∈ l'.ecmds, m.n = n → m.done = true ∧ m.landed = landed ∧ m.cause = if c.skip then 4 else if 0 < hit then 6 else 0) ∧
          ((∀ x ∈ xs, x.direct = false) → (∀ p, s.part? l.part = some p → (p.ring 4).room = false) → u.mem = s.mem)))) ∧
  (∀ (s : State) (r : WRef) (a : Nat) (w : Workgroup) (l : Launch) (b : StageBar) (x : SbAct) (rest : List SbAct), s.wg? r = some w →
    s.launch? r.launch = some l → w.bar? a = some b → b.acts = x :: rest → w.core ≠ none → (∀ g ∈ s.wgFibres r, s.actPast l x.key g = true) →
    (x.kind.arrivals = 0 ∨ (x.kind.arrivals : Int) < b.pend ∨ b.cdone = true) →
    (∀ g ∈ s.wgFibres r, sbOf g = none) →
    Does s (.stageBarrierActApply r a) ((s.updW r fun w => w.updBar a fun b => { b.applyAct l x with acts := b.acts.tail }).updL r.launch fun l =>
      l.bindPhase x b.phase)) ∧
  (∀ (b : StageBar) (l : Launch) (k : Key) (n : Nat),
    let x := b.applyAct l ⟨k, .arv n⟩
    let y := b.applyAct l ⟨k, .exp n⟩
    ((n : Int) < b.pend → x.pend = b.pend - n ∧ x.phase = b.phase ∧ x.op = max b.op k.clk) ∧
    (b.pend ≤ (n : Int) → x.phase = b.phase + 1 ∧ x.pend = b.arrive ∧ x.oexp = 0 ∧ x.oreg = 0 ∧ x.oland = 0 ∧ x.cp = max b.op k.clk ∧ x.cdone = false ∧
      (b.ocause = 0 → b.ocauseKey = none → x.ccause = if b.pend < n then 2 else if b.oreg ≠ b.oexp then 1 else 0)) ∧
    y.phase = b.phase ∧ y.oexp = b.oexp + n ∧ y.pend = b.pend) ∧
  (∀ (s : State) (r : WRef) (a : Nat) (w : Workgroup) (l : Launch) (b : StageBar), s.wg? r = some w → s.launch? r.launch = some l →
    w.bar? a = some b → w.core ≠ none → b.cdone = false → (∀ g ∈ s.wgFibres r, sbOf g = none) → l.phaseFinished r a (b.phase - 1) = true →
    Does s (.phaseSettle r a) (s.updW r fun w => w.updBar a fun b => { b with cdone := true })) ∧
  (∀ (s : State) (r : LRef) (n : Nat) (l : Launch) (q : WdqReq) (v : Word), s.launch? r = some l →
    l.wdqs.find? (fun q => q.n = n ∧ ¬ q.done) = some q → (∀ w, s.wg? q.wref = some w → w.core ≠ none) → s.distClear l q.key.clk = true →
    v = l.distAnswer q.key →
    let t := s.updL r fun l =>
      { l.publish { key := q.key, rank := 2, release := false,
                    bytes := (List.range 4).map fun k => ⟨.spad q.wref.wg (q.ans + k), v.extractLsb' (8 * k) 8, 0xFF⟩, src := some q.src } with
        wdqs := l.wdqs.map fun x => if x.n = n then { x with done := true } else x }
    (q.phase = none → Does s (.wdqAnswer r n) (t.count l.part 10 4)) ∧
    (∀ p, q.phase = some p → Does s (.wdqAnswer r n) ((t.updW q.wref fun w => w.updBar q.bar fun b => b.land p 4).count l.part 10 4))) ∧
  (∀ (s : State) (r : LRef) (n : Nat) (l : Launch) (v : Icinv) (bs : List Byte), s.launch? r = some l →
    l.icinvs.find? (fun v => v.n = n ∧ v.bytes = none) = some v → s.launchBeyond l v.key = true → s.ownerPast l v.wref v.key none = true →
    (let xs := s.codeLocs l v.wref.wg v.lo (v.hi - v.lo)
     s.landed l v.rd.view xs = true ∧ s.pendingWrite l (fun k => keyLt k v.key) xs = false) →
    bs = s.codeBytes l v.wref.wg v.rd v.lo (v.hi - v.lo) →
    ∃ u, Does s (.icinvApply r n) u ∧ u.mem = s.mem ∧
      u.launches = (s.updL r fun l => { l with icinvs := l.icinvs.map fun x => if x.n = n then { x with bytes := some bs } else x }).launches ∧
      (∀ f ∈ u.fibres, ∃ g ∈ s.fibres, f = { g with bregs := f.bregs }) ∧
      ∀ g k b, s.fibre? g.ref = some g → s.inContext l.part l.ctx g = true → g.bregs[k]? = some b → b.st = .prepared →
        v.lo ≤ (b.target.signExtend 64).toNat → (b.target.signExtend 64).toNat < v.hi → (g.ref.wref.launch = r → keyLt (g.bkey k) v.key = true) →
        ∃ f, u.fibre? g.ref = some f ∧ f.bregs[k]? = some ⟨.stale, b.target⟩) ∧
  (∀ (s : State) (w : WRef) (n : Nat) (g : Workgroup) (l : Launch) (c : MCmd), s.wg? w = some g → s.launch? w.launch = some l →
    g.mcmds.find? (fun c => c.n = n) = some c → g.core ≠ none → s.matReady l g c = true → s.matrixOk l w c.key c.uid = true →
    ∃ u g', Does s (.matrixCommandEffect w n) u ∧ ((∀ p, s.part? l.part = some p → (p.ring 4).room = false) → u.mem = s.mem) ∧
      u.fibres = s.fibres ∧ u.wg? w = some g' ∧
      (∀ x ∈ g'.mcmds, x.n = n → x.done = true) ∧ (∀ t, t ≠ c.tile → g'.tile t = g.tile t) ∧
      (c.tile < g.tiles.length → g'.tile c.tile = s.matTile l w.wg c (g.tile c.tile)) ∧
      ((∀ d a i, c.i ≠ .mst d a i) → u.launches = s.launches)) ∧
  (∀ (s : State) (l : Launch) (w : Nat) (c : MCmd) (t : Tile), (∀ d g, c.i = .mzero d g → s.matTile l w c t = ⟨[], 0⟩) ∧
    (∀ d a i, c.i = .mst d a i → s.matTile l w c t = t) ∧
    (∀ d a g, c.i = .mscale d a g → t.elems.Pairwise (fun y z => y.1 < z.1) → (s.matTile l w c t).status = t.status ∧
      ∀ k, k < 16384 → elemGet (s.matTile l w c t).elems k =
        BitVec.ofNat 32 (fp32.mulF rneRnd (fp32.value (elemGet t.elems k).toNat) (fp32.value c.o0.toNat)).bits) ∧
    (∀ tile da db mode id p0 p1 org kd, c.i = .mmf tile da db mode id p0 p1 org kd → mode % 2 = 0 → t.elems.Pairwise (fun y z => y.1 < z.1) →
      ∀ k, (∀ i j, i < c.da.box 1 → j < c.db.box 1 → k ≠ 128 * i + j) → elemGet (s.matTile l w c t).elems k = elemGet t.elems k))

/-! ## Control, waiting and stops (R148, R149, R209 to R226, R289 to R300) -/

/-- The words that only move the fibre on or set a branch target: `nop`, `clk` with weight 1 + n, `prep`, `prepr`, `jmp`, `call` and `ret`
(R35, R44, R213 to R217, R227). `fork` checks its target and register and waits for its lane to be decided; `halt` publishes the fibre's
stores, ends it, and with the workgroup's last fibre records the exit key (R133, R150, R218 to R220). Where the spec does not decide it,
the model's own choices hold: log entries 9 and 26. -/
def Obligations.ControlTransfers : Prop :=
  (∀ (s : State) (e : Env) (g : Nat), RunsOn s e g 1 → Leaves s e (.nop g) e.f) ∧
  (∀ (s : State) (e : Env) (i : Nat), RunsOn s e e.f.cg (1 + i) → exec (.clk i) s = .next (passed s e e.f 1 (1 + i))) ∧
  (∀ (s : State) (e : Env) (t x : Nat), x < 2 ^ 19 → RunsOn s e e.f.cg 1 →
    Leaves s e (.prep t x) (e.f.prepare t (e.f.pc + BitVec.ofInt 57 (4 * (BitVec.ofNat 19 x).toInt)) e.key)) ∧
  (∀ (s : State) (e : Env) (d a g : Nat), RunsOn s e g 1 → Held e.f [a, a + 1] → Here e.f [a, a + 1] →
    let x := e.f.val2 a
    let ok := x.toNat % 4 = 0 ∧ (x.toNat < 2 ^ 56 ∨ 2 ^ 64 - 2 ^ 56 ≤ x.toNat)
    (ok → Leaves s e (.prepr d a g) (e.f.prepare d (BitVec.ofNat 57 x.toNat) e.key)) ∧
    (¬ ok → Faults s e (.prepr d a g) 0x0B 0 x)) ∧
  (∀ (s : State) (e : Env) (t g f n : Nat), RunsOn s e g 1 →
    let b := e.f.bregs.getD t ⟨.unprepared, 0⟩
    let b7 := e.f.bregs.getD 7 ⟨.unprepared, 0⟩
    let ret := e.f.pc + BitVec.ofNat 57 (4 * (1 + e.f.hdr.toNat / 2 ^ 28))
    (b.st = .unprepared → Faults s e (.jmp t g) 0x0C 0 (BitVec.ofNat 64 t) ∧ Faults s e (.call t g f) 0x0C 0 (BitVec.ofNat 64 t)) ∧
    (b7.st = .unprepared → Faults s e (.ret g f) 0x0C 0 7) ∧
    (b.st ≠ .unprepared → Leaves s e (.jmp t g) { e.f.prepare t b.target e.key with npc := b.target }) ∧
    (b.st ≠ .unprepared → n = e.f.wbase + 8 * f →
      (n ≤ 248 → n + 2 ≤ e.f.regs.length → Leaves s e (.call t g f) (vset2
        { (e.f.prepare t b.target e.key).prepare 7 ret e.key with wbase := n, npc := b.target }
        0 (ret.signExtend 64))) ∧
      (248 < n ∨ e.f.regs.length < n + 2 → Faults s e (.call t g f) 0x09 0 (BitVec.ofNat 64 (n + 1)))) ∧
    (b7.st ≠ .unprepared →
      (8 * f ≤ e.f.wbase → Leaves s e (.ret g f)
        { e.f.prepare 7 b7.target e.key with wbase := e.f.wbase - 8 * f, npc := b7.target }) ∧
      (e.f.wbase < 8 * f → Faults s e (.ret g f) 0x09 0 0))) ∧
  (∀ (f : Fibre) (n : Nat) (x : BitVec 57) (k : Key), { f.prepare n x k with bkeys := f.bkeys } = { f with bregs := setAt f.bregs n ⟨.prepared, x⟩ } ∧
    (f.prepare n x k).bkey n = k ∧ ∀ m, m ≠ n → (f.prepare n x k).bkey m = f.bkey m) ∧
  (∀ (s : State) (e : Env) (t g a : Nat), RunsOn s e g 1 →
    let b := e.f.bregs.getD t ⟨.unprepared, 0⟩
    (b.st = .unprepared → Faults s e (.fork t g a) 0x0C 0 (BitVec.ofNat 64 t)) ∧
    (b.st ≠ .unprepared → Held e.f [a] → exec (.fork t g a) s = .next (s.setF { e.f with st := .fork t b.target a }).ticked)) ∧
  (∀ (s : State) (e : Env) (g : Nat), RunsOn s e g 1 → ∃ t l w, exec (.halt g) s = .next t ∧
    t.fibre? e.f.ref = none ∧ (∀ q, q ≠ e.f.ref → t.fibre? q = s.fibre? q) ∧ t.mem = s.mem ∧
    t.launch? e.l.ref = some l ∧ l.pubs = (e.l.publish { key := e.key, rank := 0, release := false, bytes := pendBytes e.f.pend, src := some (e.f.pc, e.f.widx) }).pubs ∧
    t.wg? e.w.ref = some w ∧ w.exitKey = (if keyLt e.w.exitKey e.key then e.key else e.w.exitKey) ∧
    (t.wgFibres e.w.ref = [] → (e.w.ref.wg, w.exitKey) ∈ l.exits) ∧ (t.wgFibres e.w.ref ≠ [] → l.exits = e.l.exits))

/-- The barrier words: an arrival is a turn at the fibre's clock, `bar` then waits excluded, `arv` leaves it outstanding, and `bwait`
waits for it; a set that the warp is not in, or a wrong order, faults (R148, R221, R222). `cede` turns at the next boundary and leaves
there; `waitne` passes when the word at its address differs from its operand, and otherwise turns at the next boundary and tests again
there (R132, R149, R225, R226). Where the spec does not decide it, the model's own choices hold: log entries 11, 13 and 16. -/
def Obligations.BarriersAndWaits : Prop :=
  (∀ (s : State) (e : Env) (i : Nat), RunsOn s e e.f.cg 1 →
     let n := e.f.arr.getD i 0
     let up := { e.f with arr := setAt e.f.arr i (n + 1) }
     (e.setIdx? i = none → ∀ w ∈ [Instr.bar i, .arv i, .bwait i], Faults s e w 0x0B 0 (BitVec.ofNat 64 i)) ∧
     (∀ t, e.setIdx? i = some t →
       (e.f.arrOut.getD i false = true →
         Faults s e (.bar i) 0x0E 0 (BitVec.ofNat 64 i) ∧ Faults s e (.arv i) 0x0E 0 (BitVec.ofNat 64 i) ∧
         exec (.bwait i) s = .next (s.setF { e.f with st := .bar i n e.f.clk }).ticked) ∧
       (e.f.arrOut.getD i false = false → Faults s e (.bwait i) 0x0E 0 (BitVec.ofNat 64 i) ∧
         exec (.bar i) s = .next ((((s.publishPend e.l e.f e.f.clk).updL e.l.ref fun l => l.arrive t (n + 1) e.f.clk).setF
           { up.published e.f.clk with st := .bar i (n + 1) e.f.clk }).count e.l.part 2 (if e.f.ownClk = e.f.clk ∧ e.f.clk ≠ 0 then 0 else 1)).ticked ∧
         exec (.arv i) s = .next ((s.updL e.l.ref fun l => l.arrive t (n + 1) e.f.clk).turnAt e.l { up with arrOut := setAt e.f.arrOut i true }
           e.f.clk (.leave (e.f.clk + 1))).ticked))) ∧
  (∀ (s : State) (e : Env) (g : Nat), RunsOn s e g 1 →
    let b := (e.f.clk / 2 ^ e.l.qlog + 1) * 2 ^ e.l.qlog
    (b < 2 ^ 56 → exec (.cede g) s = .next (s.turnAt e.l { e.f with clk := b } b (.leave b)).ticked) ∧
    (2 ^ 56 ≤ b → Faults s e (.cede g) 0x0A 0 0)) ∧
  (∀ (s : State) (e : Env) (a b g : Nat) (acc : Acc) (bs : List Byte) (y : Word), RunsOn s e g 1 → Held e.f [a, a + 1, b] → Here e.f [a, a + 1] →
    (e.f.wne = some y ∨ (e.f.wne = none ∧ Here e.f [b] ∧ y = e.f.val b)) →
    s.waitneAccess e (e.f.val2 a) = .ok acc → s.accBytes e acc = .ok bs →
    let c := (e.f.clk / 2 ^ e.l.qlog + 1) * 2 ^ e.l.qlog
    (BitVec.ofNat 32 (ofBytes bs) ≠ y → Leaves s e (.waitne a b g) e.f) ∧
    (BitVec.ofNat 32 (ofBytes bs) = y → c < 2 ^ 56 →
      exec (.waitne a b g) s = .next (s.turnAt e.l { e.f with clk := c, wne := some y, pass := false, peers := [] } c .resume).ticked))

/-- `trap n`, opcode 0x20F with `D` and `A` zero, raises a stop with code 0x18 and INFO n under the clause guard, without turning and with
no other effect; guarded off it passes with weight 1, and after Continue the fibre leaves the word at its clock plus 1 (R296). -/
def Obligations.TrapStops : Prop :=
  (∀ (s : State) (e : Env) (i : Nat), Runs s e → i < 1024 →
    (e.f.pred e.f.cg = true → exec (.trap i) s = .next (s.park e 0x18 0 (BitVec.ofNat 64 i))) ∧
    (e.f.pred e.f.cg = false → Room e 1 → exec (.trap i) s = .next (passed s e e.f 1 1))) ∧
  (∀ (s : State) (n tag : Nat) (e : Env) (q : FaultRec), (s.partFibres n).find? (fun f => stopTag f = some tag) = some e.f →
    s.env? e.f.ref = some e → e.f.st = .parked q (.tag tag) → q.code = 0x18 → Room e 1 →
    ∃ u g, Does s (.continueStop n tag) u ∧ u.fibre? e.f.ref = some g ∧ g.clk = e.f.clk + 1 ∧ g.widx = e.f.widx + 1) ∧
  encode (.trap 5) = [0x83C00005#32] ∧
  (∀ x, x < 2 ^ 12 → ∀ i, i < 1024 → (x = 0 → decode [BitVec.ofNat 32 (0x20F * 2 ^ 22 + x * 2 ^ 10 + i)] = .ok (.trap i) []) ∧
    (x ≠ 0 → ∃ y, decode [BitVec.ofNat 32 (0x20F * 2 ^ 22 + x * 2 ^ 10 + i)] = .bad y))

/-- `brk`, opcode 0x210 with every field but `G` zero, raises a stop with code 0x19 under its guard, and passes with weight 1 without it;
with a debugger attached the stop halts the workgroup, without one its record goes to the stop queue, and Continue completes the word
(R297). Where the spec does not decide it, the model's own choice holds: log entry 35. -/
def Obligations.BreakStops : Prop :=
  (∀ (s : State) (e : Env) (g : Nat), Runs s e →
    (e.f.pred g = true → exec (.brk g) s = .next (s.park e 0x19 0 0) ∧
      (s.debugged e.l.part = true → ∃ w, (s.park e 0x19 0 0).wg? e.w.ref = some w ∧ w.halt ≠ .none)) ∧
    (e.f.pred g = false → Room e 1 → exec (.brk g) s = .next (passed s e e.f 1 1))) ∧
  (∀ (s : State) (r : FRef) (e : Env) (p : Partition) (q : FaultRec) (n : Nat), s.env? r = some e → s.part? e.l.part = some p → p.replay = none →
    OnCore s r → e.f.st = .parked q .no → q.code = 0x19 → p.attached = false → (p.ring 1).room = true →
    freeTag ((s.partFibres p.id).filterMap stopTag ++ p.stopTags) = some n →
    ∃ u, Does s (.stopQueuePost r) u ∧ u.fibre? r = some { e.f with st := .parked q (.tag n) }) ∧
  (∀ (s : State) (n tag : Nat) (e : Env) (q : FaultRec), (s.partFibres n).find? (fun f => stopTag f = some tag) = some e.f →
    s.env? e.f.ref = some e → e.f.st = .parked q (.tag tag) → q.code = 0x19 → Room e 1 →
    ∃ u g, Does s (.continueStop n tag) u ∧ u.fibre? e.f.ref = some g ∧ g.clk = e.f.clk + 1 ∧ g.widx = e.f.widx + 1) ∧
  encode (.brk 0) = [0x84000000#32] ∧
  (∀ x, x < 2 ^ 18 → ∀ g, g < 16 → (x = 0 → decode [BitVec.ofNat 32 (0x210 * 2 ^ 22 + x * 2 ^ 4 + g)] = .ok (.brk g) []) ∧
    (x ≠ 0 → ∃ y, decode [BitVec.ofNat 32 (0x210 * 2 ^ 22 + x * 2 ^ 4 + g)] = .bad y))

/-- `dbgm` copies a to d and posts its message into the next slot of the debugger's ring, or counts it where no debugger is attached or
the ring is full; `icinv` of a range within one half of global memory records the rewrite in whole 128-byte lines, and `ph` zeroes dead
registers and publishes zeros over dead scratchpad, but for the stage barriers live at its key (R298 to R300). Where the spec does not
decide it, the model's own choices hold: log entries 18, 36 and 41. -/
def Obligations.MessagesAndPhases : Prop :=
  (∀ (s : State) (e : Env) (d a g : Nat), RunsOn s e g 1 → Held e.f [d, a] → Here e.f [a] →
    let goes := fun (t : State) => exec (.dbgm d a g) s = .next (passed t e (vset e.f d (e.f.val a)) 1 1)
    (∃ t, goes t ∧ t.mem = s.mem ∧ t.fibres = s.fibres ∧ t.wgs = s.wgs ∧ t.warps = s.warps ∧ t.launches = s.launches) ∧
    ∀ p, s.part? e.l.part = some p → p.told e.l.ref e.key = false →
      (p.attached = true → mboxFull p = false → goes (s.updP p.id fun q => (postEvent q ⟨2, 0, 0, warpId e.l e.f.ref, BitVec.ofNat 32 (2 ^ e.f.ref.lane),
        e.f.clk, e.f.pc, e.f.widx, (e.f.val a).setWidth 64⟩).tell e.l.ref e.key)) ∧
      (p.attached = false ∨ mboxFull p = true → goes (s.count p.id 16 1))) ∧
  (∀ (p : Partition) (x : Event), p.mbox.length = 64 → let h := p.mbox.getD 16 0
    (postEvent p x).mbox.getD 16 0 = h + 1 ∧
    ∀ k, k < 11 → (postEvent p x).mbox.getD (20 + 11 * (h.toNat % 4) + k) 0 = BitVec.ofNat 32 (eventBits x / 2 ^ (32 * k))) ∧
  (∀ (s : State) (e : Env) (a b g va : Nat), RunsOn s e g 1 → Held e.f [a, a + 1, b] → Here e.f [a, a + 1, b] →
    let x := (e.f.val2 a).toNat
    let n := (e.f.val b).toNat
    (n = 0 → Leaves s e (.icinv a b g) e.f) ∧
    (n ≠ 0 → regionOf (e.f.val2 a) = some (.glob va) → (x < 2 ^ 56 → x + n ≤ 2 ^ 56) → x + n ≤ 2 ^ 64 → exec (.icinv a b g) s =
      .next (passed (s.updL e.l.ref fun l =>
        { l with fresh := l.fresh + 1, icinvs := l.icinvs ++ [⟨l.fresh, e.key, e.w.ref, x / 128 * 128, (x + n + 127) / 128 * 128, e.rd, none⟩] }) e e.f 1 1)) ∧
    (n ≠ 0 → (∀ va, regionOf (e.f.val2 a) ≠ some (.glob va)) → Faults s e (.icinv a b g) 0x02 0 (BitVec.ofNat 64 (x / 128 * 128))) ∧
    (2 ^ 32 ≤ x → x < 2 ^ 56 → 2 ^ 56 < x + n → Faults s e (.icinv a b g) 0x02 0 (BitVec.ofNat 64 (2 ^ 56)))) ∧
  (∀ (s : State) (e : Env) (flags sp len : Nat) (lo hi : Word), RunsOn s e e.f.cg 4 →
    ∃ (f : Fibre) (live : List Bool), exec (.ph flags lo hi sp len) s = .next (((s.updL e.l.ref fun l => l.publish (phRelease e sp len)).moveClock e.l
        { f.past 4 with live := some live } (e.f.clk + 4)).count e.l.part 0 1).ticked ∧
      { f with regs := e.f.regs, outs := e.f.outs } = e.f ∧
      (∀ k, k < e.f.regs.length → live[k]? = some (if k < e.f.wbase then decide (flags % 2 = 0)
        else if k < e.f.wbase + 32 then lo.getLsbD (k - e.f.wbase) else if k < e.f.wbase + 64 then hi.getLsbD (k - e.f.wbase - 32)
        else decide (flags / 2 % 2 = 0))) ∧
      (∀ k, f.regs.getD k 0 = if live.getD k false then e.f.regs.getD k 0 else 0) ∧
      (∀ o, (∃ y ∈ (phRelease e sp len).bytes, y.loc = .spad e.w.ref.wg o ∧ y.val = 0) ↔ o < e.l.scratch * 256 ∧ ¬ (256 * sp ≤ o ∧ o < 256 * (sp + len)) ∧
        ∀ b ∈ e.w.sbars, keyLt b.made e.key = true → ¬ (b.addr ≤ o ∧ o < b.addr + 64)))

/-- A word that is guarded off does nothing but add its weight, or faults where its clock would overflow (R19, R41). A register outside
the allocation raises the window overflow with its physical index, D before A before B and a pair's lower register first; a register whose
result is outstanding makes the word wait; at a lane point only the fibres of such a register fault, and at a reduction, which reads all
its lanes, every contributing fibre, with the register of the lowest lane (R18, R42, R92, R288). The order of one word's registers is log
9's. A word whose weight would carry the clock to 2^56 has no effect and parks with the clock overflow (R19). Where the spec does not
decide it, the model's own choice holds: log entry 9. -/
def Obligations.GuardsAndOperands : Prop :=
  (∀ (s : State) (e : Env) (w : Instr), Runs s e → w.isWord = true → w.wellFormed = true → convFire w = none →
    let h := (encode w).headD 0
    let n := weightWith nativeTable h
    e.f.pred (guardWith nativeTable h e.f.cg) = false →
    (Room e n → exec w s = .next (passed s e e.f (encode w).length n)) ∧ (¬ Room e n → Faults s e w 0x0A 0 0)) ∧
  (∀ (s : State) (e : Env) (d a b g : Nat) (i : Instr), Runs s e → e.f.pred g = false → Room e 1 →
    i ∈ [Instr.add d a b g, .mad d a b g, .icmpLt d a b g, .div d a b g, .pand d a b g, .pput a g, .fadd d a b g, .ffma d a b g, .fdiv d a b g,
      .fcmpLt d a b g, .hfma2 d a b g, .cvtif d a g, .movs d a g, .nop g, .jmp d g, .halt g, .cede g, .waitne a b g, .brk g, .dbgm d a g,
      .icinv a b g, .mzero d g, .mcommit g, .mrd d a b g, .mwr d a b g, .ldwx d a b g, .stwx d a b g, .amoadd d a b g, .turn g, .pin a b g,
      .sbinit a b g, .sbarv a b g, .sbwait a b g, .sbtest d a b g, .wdset a g, .wdq a b g, .hopen a b g, .hpush d a b g, .hnext d a g] →
    Leaves s e i e.f) ∧
  (∀ (s : State) (e : Env) (d a i : Nat) (w : Instr), Runs s e → e.f.pred e.f.cg = false → Room e 1 →
    w ∈ [Instr.addi d a i, .movi d i, .icmpiEq d a i, .sel d a i 0, .rdsr d i, .wrsr a 12, .setrm i, .pset d i, .prep d i, .bar i, .arv i,
      .bwait i, .trap i, .mwait i, .mld d a i, .mst d a i, .ldw d a i, .stw d a i, .pf a i, .dset a i] → Leaves s e w e.f) ∧
  (∀ (s : State) (e : Env) (d g : Nat) (lit : Word), Runs s e → e.f.pred g = false → Room e 2 →
    exec (.li d g lit) s = .next (passed s e e.f 2 2)) ∧
  (∀ (s : State) (e : Env) (crb da mode g db sba aux flags : Nat) (i : Instr), Runs s e → e.f.pred g = false → Room e 2 →
    i ∈ [Instr.cpy crb da mode g db sba aux flags, .cpyr crb da mode g db sba aux flags, .gath crb da mode g db sba aux flags,
      .scat crb da mode g db sba aux flags] → exec i s = .next (passed s e e.f 2 2)) ∧
  (∀ (s : State) (e : Env) (w : Instr) (rs ws : List Nat) (d a b g i crb da db m sba aux fl : Nat) (lit : Word), Runs s e →
    let guarded : List (List Instr × List Nat × List Nat) := [
      ([Instr.add d a b g, .sub d a b g, .mul d a b g, .mulh d a b g, .mulhu d a b g, .and d a b g, .or d a b g, .xor d a b g, .shl d a b g,
        .shr d a b g, .sar d a b g, .min d a b g, .max d a b g, .minu d a b g, .maxu d a b g, .bfe d a b g, .adds d a b g, .subs d a b g,
        .div d a b g, .divu d a b g, .rem d a b g, .remu d a b g, .fadd d a b g, .fsub d a b g, .fmul d a b g, .fmin d a b g, .fmax d a b g,
        .fdiv d a b g, .fscl d a b g, .hadd2 d a b g, .hmul2 d a b g, .badd2 d a b g, .bmul2 d a b g, .cvth d a b g, .cvtb d a b g,
        .cvte4 d a b g, .cvte5 d a b g], [d, a, b], [a, b]),
      ([Instr.mad d a b g, .bfi d a b g, .dp4a d a b g, .ffma d a b g, .ffms d a b g, .hfma2 d a b g, .bfma2 d a b g, .dp2h d a b g,
        .dp2b d a b g], [d, a, b], [d, a, b]),
      ([Instr.abs d a g, .neg d a g, .clz d a g, .popc d a g, .brev d a g, .mov d a g, .fabs d a g, .fneg d a g, .fcls d a g, .frnd d a g,
        .cvtfi d a g, .cvtfu d a g, .cvtif d a g, .cvtuf d a g, .cvthl d a g, .cvthh d a g, .cvtbl d a g, .cvtbh d a g, .cvte4f d a g,
        .cvte5f d a g, .fsqrt d a g, .frcp d a g, .frsq d a g, .fex2 d a g, .flg2 d a g, .dbgm d a g], [d, a], [a]),
      ([Instr.icmpEq d a b g, .icmpNe d a b g, .icmpLt d a b g, .icmpLe d a b g, .icmpLtu d a b g, .icmpLeu d a b g, .fcmpEq d a b g,
        .fcmpLt d a b g, .fcmpLe d a b g, .fcmpUn d a b g, .sbinit a b g, .sbexp a b g, .sbarv a b g, .sbwait a b g, .sbtest d a b g,
        .wdq a b g], [a, b], [a, b]),
      ([Instr.addw d a b g, .subw d a b g], [d, d + 1, a, a + 1, b, b + 1], [a, a + 1, b, b + 1]),
      ([Instr.shlw d a b g], [d, d + 1, a, a + 1, b], [a, a + 1, b]), ([Instr.li d g lit, .pget d g, .movs d a g, .hnext d a g], [d], []),
      ([Instr.pput a g], [a], [a]), ([Instr.prepr d a g, .wdset a g], [a, a + 1], [a, a + 1]), ([Instr.hopen a b g], [b, b + 1], [b, b + 1]),
      ([Instr.hpush d a b g], [d, d + 1, d + 2, d + 3, b], [d, d + 1, d + 2, d + 3, b]), ([Instr.hdone a b g], [b], [b]),
      ([Instr.icinv a b g], [a, a + 1, b], [a, a + 1, b]), ([Instr.waitne a b g], [a, a + 1, b], [a, a + 1]),
      ([Instr.ldbx d a b g, .ldhx d a b g, .ldwx d a b g], [d, b], [b]), ([Instr.lddx d a b g], [d, d + 1, b], [b]),
      ([Instr.stbx d a b g, .sthx d a b g, .stwx d a b g], [d, b], [d, b]), ([Instr.stdx d a b g], [d, d + 1, b], [d, d + 1, b]),
      ([Instr.amoadd d a b g, .amomin d a b g, .amomax d a b g, .amominu d a b g, .amomaxu d a b g, .amoand d a b g, .amoor d a b g,
        .amoxor d a b g, .amoxchg d a b g, .amofadd d a b g, .amofmin d a b g, .amofmax d a b g], [d, a, a + 1, b], [a, a + 1, b]),
      ([Instr.amocas d a b g], [d, a, a + 1, b, b + 1], [a, a + 1, b, b + 1]),
      ([Instr.amoaddw d a b g], [d, d + 1, a, a + 1, b, b + 1], [a, a + 1, b, b + 1]),
      ([Instr.mrd d a b g], [d, b], []), ([Instr.mwr d a b g], [a, b], []),
      ([Instr.cpy crb da m g db sba aux fl, .cpyr crb da m g db sba aux fl], [crb, crb + 1, crb + 2, crb + 3, sba],
        [crb, crb + 1, crb + 2, crb + 3, sba]),
      ([Instr.gath crb da m g db sba aux fl, .scat crb da m g db sba aux fl], [crb, crb + 1, crb + 2, crb + 3, sba, aux],
        [crb, crb + 1, crb + 2, crb + 3, sba])]
    let clause : List (List Instr × List Nat × List Nat) := [
      ([Instr.addi d a i, .andi d a i, .ori d a i, .xori d a i, .shli d a i, .shri d a i, .sari d a i, .muli d a i], [d, a], [a]),
      ([Instr.addwi d a i], [d, d + 1, a, a + 1], [a, a + 1]), ([Instr.movi d i, .rdsr d i], [d], []), ([Instr.sel d a b i], [d, a, b], [a, b]),
      ([Instr.icmpiEq d a i, .icmpiNe d a i, .icmpiLt d a i, .icmpiLe d a i, .icmpiLtu d a i, .icmpiLeu d a i, .wrsr a i], [a], [a]),
      ([Instr.ldb d a i, .ldsb d a i, .ldh d a i, .ldsh d a i, .ldw d a i], [d, a, a + 1], [a, a + 1]),
      ([Instr.ldd d a i], [d, d + 1, a, a + 1], [a, a + 1]), ([Instr.ldq d a i], [d, d + 1, d + 2, d + 3, a, a + 1], [a, a + 1]),
      ([Instr.stb d a i, .sth d a i, .stw d a i], [d, a, a + 1], [d, a, a + 1]),
      ([Instr.std d a i], [d, d + 1, a, a + 1], [d, d + 1, a, a + 1]),
      ([Instr.stq d a i], [d, d + 1, d + 2, d + 3, a, a + 1], [d, d + 1, d + 2, d + 3, a, a + 1]),
      ([Instr.pf a i, .dset a i], [a, a + 1], [a, a + 1])]
    ((e.f.pred g = true ∧ ∃ x ∈ guarded, w ∈ x.1 ∧ rs = x.2.1 ∧ ws = x.2.2) ∨
      (e.f.pred e.f.cg = true ∧ ∃ x ∈ clause, w ∈ x.1 ∧ rs = x.2.1 ∧ ws = x.2.2)) →
    (∀ k, (rs.find? fun r => decide (e.f.regs.length ≤ e.f.wbase + r)) = some k → Faults s e w 0x09 0 (BitVec.ofNat 64 (e.f.wbase + k))) ∧
    (Held e.f rs → (∃ r ∈ ws, e.f.awaits (e.f.wbase + r) = true) → HeldFor s e w 6)) ∧
  (∀ (s : State) (e : Env) (a b g : Nat), Runs s e → e.f.pred g = true → Held e.f [a, a + 1, b] → e.f.wne = none →
    e.f.awaits (e.f.wbase + b) = true → HeldFor s e (.waitne a b g) 6) ∧
  (∀ (s : State) (e : Env) (t g a : Nat), Runs s e → e.f.pred g = true → (e.f.bregs.getD t ⟨.unprepared, 0⟩).st ≠ .unprepared →
    e.f.regs.length ≤ e.f.wbase + a → Faults s e (.fork t g a) 0x09 0 (BitVec.ofNat 64 (e.f.wbase + a))) ∧
  (∀ (s : State) (e : Env) (d a b g : Nat) (w : Instr) (rs : List Nat), LastAt s .warp e w →
    (w, rs) ∈ [(Instr.shfl d a b g, [d, b]), (.shflx d a b g, [d, b]), (.bcast d a b g, [d]), (.lid d g, [d])] →
    (∀ x ∈ meeting s .warp e w, Here x.f [a, b] ∧ UniHere x [b]) → ∃ u, exec w s = .next u ∧
      ∀ x ∈ meeting s .warp e w, x.f.pred g = true → ∀ k, (rs.find? fun r => decide (x.f.regs.length ≤ x.f.wbase + r)) = some k →
        ∃ r, u.fibre? x.f.ref = some { x.f with st := .parked r .no } ∧ r.code = 0x09 ∧ r.info = BitVec.ofNat 64 (x.f.wbase + k)) ∧
  (∀ (s : State) (e x : Env) (d a g : Nat) (w : Instr), w ∈ [Instr.redadd d a g, .redmin d a g, .redmax d a g, .scanadd d a g] →
    LastAt s .warp e w → e.uniHere → x ∈ lanesOn g (meeting s .warp e w) → x.f.regs.length ≤ x.f.wbase + a →
    (∀ y ∈ lanesOn g (meeting s .warp e w), y.f.regs.length ≤ y.f.wbase + a → x.f.ref.lane ≤ y.f.ref.lane) → ∃ u, exec w s = .next u ∧
      ∀ y ∈ lanesOn g (meeting s .warp e w), ∃ r, u.fibre? y.f.ref = some { y.f with st := .parked r .no } ∧ r.code = 0x09 ∧
        r.info = BitVec.ofNat 64 (x.f.wbase + a)) ∧
  (∀ (f : Fibre) (k : Nat), f.awaits k = true ↔ ∃ o ∈ f.outs, some k ∈ o.dst) ∧
  (∀ (s : State) (e : Env) (d a b g i : Nat), Runs s e → Held e.f [d, a, b] → Here e.f [d, a, b] →
     (2 ^ 56 ≤ e.f.clk + 1 → e.f.pred g = true → Faults s e (.add d a b g) 0x0A 0 0 ∧ Faults s e (.turn g) 0x0A 0 0 ∧ Faults s e (.halt g) 0x0A 0 0) ∧
     (2 ^ 56 ≤ e.f.clk + (1 + i) → e.f.pred e.f.cg = true → Faults s e (.clk i) 0x0A 0 0))

/-- Passing a word: the fibre stands behind it with its weight on the clock; a boundary of the quantum that lies on the way is one turn,
at the largest, which takes its pending stores. Memory, uniform registers and every other fibre are as they were (R45, R133, R134). Where
the spec does not decide it, the model's own choice holds: log entry 16. -/
def Obligations.PassingAWord : Prop :=
  ∀ (t : State) (e : Env) (f : Fibre) (len wt : Nat), f.ref = e.f.ref → f.clk = e.f.clk → t.fibre? f.ref ≠ none →
    let c := e.f.clk + wt
    let b := c / 2 ^ e.l.qlog * 2 ^ e.l.qlog
    let u := passed t e f len wt
    u.mem = t.mem ∧ u.wgs = t.wgs ∧ u.warps = t.warps ∧ (∀ q, q ≠ f.ref → u.fibre? q = t.fibre? q) ∧
    ∃ g, u.fibre? f.ref = some g ∧ g.clk = c ∧ g.widx = f.widx + len ∧ g.regs = f.regs ∧ g.preds = f.preds ∧ g.bregs = f.bregs ∧
      g.wbase = f.wbase ∧ g.fflags = f.fflags ∧ g.rmode = f.rmode ∧ g.seed = f.seed ∧ g.outs = f.outs ∧ g.npc = f.npc ∧
      (f.clk < b → g.st = .turn b .resume ∧ g.pend = [] ∧ g.ownClk = b) ∧
      (b ≤ f.clk → g.pend = f.pend ∧ u.launches = t.launches ∧ g.st = (if f.words.length ≤ f.widx + len then .enter else .run))

/-- Taking an exception: the fibre parks with a record of the code, cause, key, address, word and INFO, and everything else it holds, as
every other fibre and all of memory, is as it was before the word (R289, R291). Resuming runs the word again, but a barrier waiter that
the wait deadlock parked goes on waiting (R229, R293). Where the spec does not decide it, the model's own choice holds: log entry 13. -/
def Obligations.TakingAnException : Prop :=
  (∀ (s : State) (e : Env) (code cause : Nat) (info : BitVec 64), s.env? e.f.ref = some e →
    let t := s.park e code cause info
    ∃ r : FaultRec, t.fibre? e.f.ref = some { e.f with st := .parked r .no } ∧ r.code = code ∧ r.cause = cause ∧ r.info = info ∧
      r.warp = e.f.ref.wref.wg * e.l.warps + e.f.ref.warp ∧ r.lane = e.f.ref.lane ∧ r.clk = e.f.clk ∧ r.oaddr = e.f.pc ∧
      r.widx = e.f.widx ∧ r.word = e.f.words.getD e.f.widx 0 ∧ r.ctx = e.l.ctx ∧
      (∀ q, q ≠ e.f.ref → t.fibre? q = s.fibre? q) ∧ t.mem = s.mem ∧ t.launches = s.launches ∧ t.warps = s.warps ∧
      (code < 0x18 ∨ s.debugged e.l.part = false → t.wgs = s.wgs)) ∧
  (∀ (f : Fibre) (r : FaultRec), (r.code ≠ 0x0F → f.retry r = { f with st := if f.words.length ≤ f.widx then .enter else .run }) ∧
    (r.code = 0x0F → f.retry r = { f with st := .bar r.info.toNat (f.arr.getD r.info.toNat 0) f.clk }))

/-! ## Events of fibres (R15, R16, R26 to R31, R42, R46, R133 to R148, R208, R218, R219, R228, R229) -/

/-- A fibre enters a clause: the header and words are fetched whole, a malformed clause and a fetch that fails park the fibre, and
otherwise it stands at the first word with the header's extra weight on its clock, once the tokens that the header names are clear (R27 to
R31, R45, R46, R213). That a clock overflow here records the word 0 is the model's choice (log 9). A fibre leaves a barrier whose phase is
complete with a turn at the exit clock, the first boundary above the last arrival; a fork takes the lowest free lane, whose new fibre
starts at the target with the parent's registers, or answers 0xFFFFFFFF; accesses that wait for a peer or for the owner go on (R141, R147,
R148, R218, R219, R221, R222). Where the spec does not decide it, the model's own choices hold: log entries 9, 11, 18 and 26. -/
def Obligations.ClausesAndWaits : Prop :=
  (∀ (s : State) (r : FRef) (e0 e : Env), s.env? r = some e0 → e = { e0 with f := { e0.f.atHeader with held := none } } → e0.f.st = .enter →
     e0.free = true → e0.preStopped = false →
     let waits := fun (why : Nat) => (e0.f.held = some why → Waits s (.clauseEntry r)) ∧
       (e0.f.held ≠ some why → Does s (.clauseEntry r) (s.setF { e0.f with held := some why }))
     (∀ hdr ws, s.fetchClause e.l e.key e.f.pc = .clause hdr ws →
       let wt := hdr.toNat / 2 ^ 7 % 2 ^ 8
       let f := { e.f with hdr := hdr, words := ws, widx := 0, live := none, npc := e.f.pc + BitVec.ofNat 57 (4 * (1 + hdr.toNat / 2 ^ 28)),
                           form := e.l.nextForm e0.f e.f.pc }
       (clauseOk e.l.dtab.look hdr ws = true → Room e wt → tokensHeld e.f hdr.toNat = false →
         Does s (.clauseEntry r) ((s.moveClock e.l f (e.f.clk + wt)).count e.l.part 1 1)) ∧
       (clauseOk e.l.dtab.look hdr ws = true → Room e wt → tokensHeld e.f hdr.toNat = true → waits (tokenStall e.f hdr.toNat)) ∧
       (clauseOk e.l.dtab.look hdr ws = false →
         Does s (.clauseEntry r) (s.parkRec e { mkRec e 7 0 (e.f.pc.signExtend 64) with word := hdr })) ∧
       (clauseOk e.l.dtab.look hdr ws = true → ¬ Room e wt → Does s (.clauseEntry r) (s.parkRec e (mkRec e 0x0A 0 0)))) ∧
     (s.fetchClause e.l e.key e.f.pc = .wait → waits 8) ∧
     (∀ c k a, s.fetchClause e.l e.key e.f.pc = .fault c k a → Does s (.clauseEntry r) (s.parkRec e (mkRec e c k a)))) ∧
  (∀ (s : State) (r : FRef) (e : Env) (g k c t : Nat), s.env? r = some e → e.f.st = .bar g k c → e.setIdx? g = some t → e.moves = true →
    let x := (e.l.arrivalMax t k / 2 ^ e.l.qlog + 1) * 2 ^ e.l.qlog
    (s.phaseDone e.l t k = false → Waits s (.barrierExit r)) ∧
    (s.phaseDone e.l t k = true → x < 2 ^ 56 →
      Does s (.barrierExit r) (s.raiseTurn e.l { e.f with arrOut := setAt e.f.arrOut g false } (max x c) (.leave (c + 1)))) ∧
    (s.phaseDone e.l t k = true → 2 ^ 56 ≤ x → Does s (.barrierExit r) (s.park e 0x0A 0 0))) ∧
  (∀ (s : State) (r : FRef) (e : Env) (b a : Nat) (x : BitVec 57), s.env? r = some e → e.f.st = .fork b x a → e.moves = true →
    (∀ o ∈ e.f.outs, ∀ d ∈ o.dst, d = none) → s.forkBlocked e = false → s.turnOk e.l e.w.ref.wg e.f.clk = true →
    let f := e.f.forked b x e.key
    let s' := (s.publishPend e.l e.f e.f.clk).count e.l.part 2 (if e.f.ownClk = e.f.clk ∧ e.f.clk ≠ 0 then 0 else 1)
    ((∀ n, n < 32 → s.laneFree e e.key n = false) →
      Does s (.forkLaneDecision r) ((s'.moveClock e.l ((vset f a 0xFFFFFFFF#32).past 1) (e.f.clk + 1)).count e.l.part 0 1)) ∧
    (∀ n, n < 32 → s.laneFree e e.key n = true → (∀ m, m < n → s.laneFree e e.key m = false) →
      ∃ u p c, Does s (.forkLaneDecision r) u ∧ u.fibre? r = some p ∧ p.regs = (vset e.f a (BitVec.ofNat 32 n)).regs ∧ p.clk = e.f.clk + 1 ∧
        u.fibre? { r with lane := n } = some c ∧ c.pc = x ∧ c.npc = x ∧ c.preds = e.f.preds ∧ c.bregs = setAt e.f.bregs b ⟨.prepared, x⟩ ∧
        c.wbase = e.f.wbase ∧ c.regs = setAt e.f.regs (e.f.phys a) (BitVec.ofNat 32 (0x80000000 + r.lane)) ∧ c.clk = e.f.clk + 1 ∧
        c.fflags = e.f.fflags ∧ c.rmode = e.f.rmode ∧ c.seed = e.f.seed ∧ c.outs = [] ∧ c.arr = e.f.arr)) ∧
  (∀ (s : State) (r : FRef) (e : Env) (m : Nat), s.env? r = some e → e.f.st = .peer m → e.moves = true →
    let w := { e.w.ref with wg := e.w.ref.wg / 4 * 4 + m }
    ((∀ g ∈ s.wgFibres w, s.beyond e.l e.key g = true) →
      Does s (.peerWindowAccess r) (s.setF { e.f with st := .run, pass := true, peers := m :: e.f.peers })) ∧
    ((∃ g ∈ s.wgFibres w, s.beyond e.l e.key g = false) → Waits s (.peerWindowAccess r))) ∧
  (∀ (s : State) (r : FRef) (e : Env), s.env? r = some e → e.f.st = .excl → e.moves = true →
    (∀ g ∈ s.wgFibres e.w.ref, g.ref = r ∨ s.beyond e.l e.key g = true ∧ ∀ a, atomOf g = some a → a.direct = true → keyLt (keyAt e.l g.ref g.clk) e.key = false) →
    (∀ c ∈ e.l.ecmds, c.done = true ∨ c.wref ≠ e.w.ref ∨ keyLt c.key e.key = false) →
    (∀ v ∈ e.l.icinvs, v.bytes ≠ none ∨ v.wref ≠ e.w.ref ∨ keyLt v.key e.key = false) →
    Does s (.directExclusiveAccess r) (s.setF { e.f with st := .run, pass := true }))

/-- Turns, publications, atomics and outstanding results: a turn completes when the horizons allow it and gives the view its clock; a
publication that nobody can still need is written under its masks, and no other byte changes; an atomic publishes its new value and leaves
the old one outstanding; a result arrives in its registers. What the rings of the partition page take of these events is left out (R42,
R46, R136, R138 to R140, R146, R147, R168). Where the spec does not decide it, the model's own choices hold: log entries 10, 16, 19 and
46. -/
def Obligations.OrderedEvents : Prop :=
  (∀ (s : State) (r : FRef) (e : Env) (t : Nat) (k : AfterTurn), s.env? r = some e → e.f.st = .turn t k → e.moves = true →
    let c := fun (u : State) => u.count e.l.part 5 (Config.horizonCycles s.tick)
    let f := { e.f with view := t }
    (s.turnOk e.l e.w.ref.wg t = false → Waits s (.turnCompletion r)) ∧
    (s.turnOk e.l e.w.ref.wg t = true →
      (k = .resume → Does s (.turnCompletion r) (c (s.setF (e.f.resumed t)))) ∧
      (∀ n, k = .leave n → Does s (.turnCompletion r) (c ((s.moveClock e.l (f.past 1) (max t n)).count e.l.part 0 1))) ∧
      (∀ a, k = .atom a → Does s (.turnCompletion r) (c (s.setF { f with st := .atom a }))) ∧
      (∀ a b n p, k = .sbwait a b n p → Does s (.turnCompletion r) (c (s.setF { f with st := .sbwait a b n p }))) ∧
      (∀ h sl p n u x, k = .hstall h sl p n u x → Does s (.turnCompletion r) (c (s.setF { f with st := .hstall h sl p n u x }))) ∧
      (∀ h x n, k = .hsync h x n none → Does s (.turnCompletion r) (c (s.setF { f with st := .hsync h x n }))) ∧
      (∀ h x n u, k = .hsync h x n (some u) →
        (u ≤ t → Does s (.turnCompletion r) (c ((s.moveClock e.l (f.past 1) (max t (n + 1))).count e.l.part 0 1))) ∧
        (t < u → Does s (.turnCompletion r) (c (s.raiseTurn e.l f u (.leave (n + 1)))))))) ∧
  (∀ (s : State) (l : Launch) (n t : Nat),
    let allows := fun (f : Fibre) => ∀ c, s.reported? l f = some c → t ≤ c ∨ t ≤ f.view
    (s.turnOk l n t = true ↔ (∀ f ∈ s.launchFibres l.ref, f.ref.wref.wg ∈ l.gangOf n → allows f) ∧
      (l.order = true → (l.gx * l.gy * l.gz ≤ l.next ∨ t = 0) ∧ ∀ f ∈ s.launchFibres l.ref, allows f))) ∧
  (∀ (s : State) (r : LRef) (l : Launch) (n : Nat) (p : Pub), s.memOk = true → s.launch? r = some l → l.pubs[n]? = some p →
    let xs := p.bytes.map (·.loc)
    (l.pubs.take n).all (fun q => q.bytes.all fun b => !xs.contains b.loc) = true → xs.all (s.seenBeyond l p.key) = true →
    s.readerBelow l p.key.clk xs = false → s.pendingWrite l (fun k => keyLt k p.key) xs = false →
    s.intoImage r xs = false →
    let plain := fun (x : Loc) => p.src = none ∨ (∀ b ∈ p.bytes, ∃ a, b.loc = .phys a) ∨ ∀ a, x ≠ .phys a
    ∃ u l', Does s (.publicationApply r n) u ∧ u.launch? r = some l' ∧ l'.pubs = l.pubs.eraseIdx n ∧
      (xs.Nodup → ∀ b ∈ p.bytes, plain b.loc → (∀ w o, b.loc = .spad w o ∨ b.loc = .desc w o → s.wg? ⟨r, w⟩ ≠ none) →
        u.baseByte r b.loc = (s.baseByte r b.loc &&& ~~~b.mask) ||| (b.val &&& b.mask)) ∧
      ∀ q x, x ∉ xs → plain x → u.baseByte q x = s.baseByte q x) ∧
  (∀ (s : State) (r : FRef) (e : Env) (a : AtomReq), s.env? r = some e → e.f.st = .atom a → s.atomOk e a = true → e.f.outCount < 63 →
    e.w.core ≠ none → (∀ o ∈ e.f.outs, o.kind = .atomic → o.key.clk ≠ e.f.clk) →
    let old := a.locs.map fun x => if a.direct then s.baseByte e.l.ref x else s.valueAt e.l e.key 1 x
    let new := a.locs.zip (toBytes old.length (atomValue a.op (ofBytes old) a.b0 a.b1))
    let f := fun (g : Fibre) => g.awaiting
      { kind := .atomic, dst := a.dst.map some, token := e.f.setTok, key := e.key, addr := a.addr, size := old.length, sext := false,
        vals := some (loadWords old.length false old), rd := noRd, locs := a.locs }
    let leaves := fun (t : State) (g : Fibre) => Does s (.atomicPerform r) (((t.setF g).moveClock e.l (g.past 1) (e.f.clk + 1)).count e.l.part 0 1)
    (a.direct = false → leaves (s.updL e.l.ref fun l =>
      l.publish ⟨e.key, 1, false, new.map fun x => ⟨x.1, x.2, 0xFF⟩, some (e.f.pc, e.f.widx)⟩) (f { e.f with ownPub := new.foldl putOwn e.f.ownPub })) ∧
    (a.direct = true → s.intoImage e.l.ref a.locs = false → leaves ((new.foldl (fun t x => t.putByte e.l.ref x.1 x.2) s).countCache e.l.part) (f e.f))) ∧
  (∀ (s : State) (r : FRef) (e : Env) (n : Nat) (o : Outst) (ws : List Word), s.env? r = some e → e.f.outs[n]? = some o → s.outVals e.l o = some ws →
    e.w.core ≠ none → ∃ u regs, exec (.longLatencyResult r n) s = .next u ∧ u.tick ≠ s.tick ∧ (o.kind ≠ .load → u.mem = s.mem) ∧
      u.warp? r.wref r.warp = some (e.p.landed o ws) ∧
      u.fibre? r = some { e.f with regs := regs, outs := e.f.outs.eraseIdx n } ∧
      (∀ k, some k ∉ o.dst → regs.getD k 0 = e.f.regs.getD k 0) ∧
      ∀ j k, o.dst[j]? = some (some k) → (∀ j', j < j' → o.dst[j']? ≠ some (some k)) → k < e.f.regs.length → j < ws.length →
        regs.getD k 0 = ws.getD j 0) ∧
  (∀ (s : State) (l : Launch) (o : Outst), (∀ ws, o.vals = some ws → s.outVals l o = some ws) ∧
    (o.vals = none → s.landed l o.rd.view (o.locs.filter fun x => (o.rd.own.find? fun y => y.1 = x).isNone) = true →
      s.outVals l o = some (loadWords o.size o.sext (o.locs.map (s.readRd l o.rd)))))

/-- A convergence point whose operands came late executes as its last arrival would have; fibres that can never meet, that are stalled in
the Harp or that wait for ever park with codes 0x0D, 0x17 and 0x0F; in a launch that waits for what cannot happen all of the first kind
park in one act, and no barrier waiter does (R15, R16, R91, R208, R228, R229). Where the spec does not decide it, the model's own choices
hold: log entries 12, 13 and 17. -/
def Obligations.MeetingsAndDeadlocks : Prop :=
  (∀ (s : State) (r : FRef) (e : Env) (i : Instr) (x : Scope × Fire), s.env? r = some e → e.f.st = .conv i → convFire i = some x → e.moves = true →
    (∀ u, (∀ g ∈ s.scopeOf x.1 r, waitsAt e.f i g = true) → x.2 s ((s.scopeOf x.1 r).filterMap fun g => s.env? g.ref) = some u →
      Does s (.convergencePointExecute r) u) ∧
    ((∃ g ∈ s.scopeOf x.1 r, waitsAt e.f i g = false) → Waits s (.convergencePointExecute r))) ∧
  (∀ (s : State) (r : FRef) (e : Env) (fs : List Fibre), s.env? r = some e → e.l.preempt = none → s.convGroup? e.l false e.f = some fs →
    (∀ g ∈ fs, s.env? g.ref ≠ none) → ∃ u, Does s (.convergenceFault r) u ∧ AllParked s u (fs.filter s.atPoint) 0x0D (fun _ => 0)) ∧
  (∀ (s : State) (w : WRef) (l : Launch), s.launch? w.launch = some l → l.preempt = none →
    (∀ g ∈ s.wgFibres w, s.env? g.ref ≠ none ∧ ((∃ h sl p c t, g.st = .hstall h sl p c t false) ∨ (∃ h x c, g.st = .hsync h x c) ∨
      ∃ i k c t, g.st = .bar i k c ∧ (l.setsOf (warpId l g.ref))[i]? = some t ∧ s.barStuck l w t k = true)) →
    (∃ g ∈ s.wgFibres w, (∃ h sl p c t, g.st = .hstall h sl p c t false) ∨ ∃ h x c, g.st = .hsync h x c) →
    ∃ u, Does s (.harpStall w) u ∧ ∀ g ∈ s.wgFibres w, (∀ g' ∈ s.wgFibres w, g'.ref = g.ref → g' = g) →
      ∀ h, (∃ sl p c t, g.st = .hstall h sl p c t false) ∨ (∃ x c, g.st = .hsync h x c) →
      ∃ rc, u.fibre? g.ref = some { g with st := .parked rc .no } ∧ rc.code = 0x17 ∧ rc.info = BitVec.ofNat 64 h) ∧
  (∀ (s : State) (r : LRef) (l : Launch), s.launch? r = some l → (∃ f ∈ s.launchFibres r, barSet f ≠ none) → s.launchStuck l = true →
    (∀ dead, (∀ f ∈ s.launchFibres r, s.convGroup? l dead f = none) ∧ ∀ w ∈ s.wgs, w.ref.launch = r → s.harpStuck l dead w.ref = false) →
    ∃ u, Does s (.waitDeadlock r) u ∧ ∀ g ∈ s.launchFibres r, (∀ g' ∈ s.launchFibres r, g'.ref = g.ref → g' = g) → s.env? g.ref ≠ none →
      ∀ n k c, g.st = .bar n k c → ∃ rc, u.fibre? g.ref = some { g with st := .parked rc .no } ∧ rc.code = 0x0F ∧ rc.info = BitVec.ofNat 64 n) ∧
  (∀ (s : State) (r : FRef) (e : Env), s.env? r = some e → e.l.preempt = none → s.deadlocked e.l = true → s.convGroup? e.l true e.f ≠ none →
    (∀ g ∈ s.launchFibres e.l.ref, s.env? g.ref ≠ none) → (∀ g g' : Fibre, g ∈ s.fibres → g' ∈ s.fibres → g.ref = g'.ref → g = g') →
    ∃ u, Does s (.convergenceFault r) u ∧ Waits s (.waitDeadlock e.l.ref) ∧
      AllParked s u ((s.launchFibres e.l.ref).filter fun g => s.atPoint g && (s.convGroup? e.l true g).isSome) 0x0D (fun _ => 0))

/-! ## From packet to completion record (R11, R12, R145, R231 to R246, R253, R262 to R264) -/

/-- The dispatcher reads a declared packet at the queue's next slot and holds it; one that cannot be read is refused with status 7, one
with a field that fails check 2 with status 1 and the field's place as detail. A refusal moves the queue on and completes the packet with
its status (R231, R236 to R238). Where the spec does not decide it, the model's own choices hold: log entries 27 and 28. -/
def Obligations.PacketsAreRead : Prop :=
  (∀ (s : State) (n : Nat) (q : Queue) (p : Partition) (c : Context), s.queue? n = some q → q.part = some p.id → s.part? p.id = some p →
    p.ctx? q.ctx = some c → p.plain → q.en = true → q.packet = none → q.nextSeq ≠ q.tail →
    let r := dispRead s p c (noteOf p q) (q.ring.toNat + 128 * (q.nextSeq.toNat % 2 ^ q.rsize)) 128
    (r = none → Does s (.packetFetch n) (s.refuse p q c 7 0 none)) ∧
    (∀ bs x, r = some bs → x = BitVec.ofNat 1024 (ofBytes bs) →
      ((∀ y ∈ s.check2 q x, y.2 = false) → Does s (.packetFetch n) (s.updQ n fun y => { y with packet := some x })) ∧
      (∀ y, (s.check2 q x).find? (·.2) = some y →
        Does s (.packetFetch n) (s.refuse p q c 1 y.1 (some (x.toNat / 2 ^ 384 % 2 ^ 64)))))) ∧
  (∀ (s : State) (p : Partition) (q : Queue) (c : Context) (status detail : Nat) (a : Nat), memWf s.mem = true → s.queue? q.id = some q →
    s.part? p.id = some p → status ≠ 0 →
    let u := s.refuse p q c status detail (some a)
    Completed s u p c q q.nextSeq status detail a ∧ u.launches = s.launches ∧
    (∃ y, u.queue? q.id = some y ∧ y.nextSeq = q.nextSeq + 1 ∧ y.packet = none ∧ q.nextSeq ∈ y.fails) ∧
    ∃ p', u.part? p.id = some p' ∧ p'.accs = p.accs + 1 ∧ p'.records = p.records ++ [(q.id, q.nextSeq, recordBytes q.nextSeq status detail)]) ∧
  (∀ (q : Queue) (seq : Word) (st : Nat), q.done = [] →
    (seq = q.doneSeq + 1 → (q.complete seq st).doneSeq = seq ∧ (q.complete seq st).done = []) ∧
    (seq ≠ q.doneSeq + 1 → (q.complete seq st).doneSeq = q.doneSeq ∧ (q.complete seq st).done = [seq])) ∧
  (∀ (seq : Word) (st detail : Nat), st < 2 ^ 32 → detail < 2 ^ 64 → (recordBytes seq st detail).length = 16 ∧
    ofBytes (recordBytes seq st detail) = seq.toNat + st * 2 ^ 32 + detail * 2 ^ 64)

/-- A packet is accepted once its dependences are met: it becomes a launch with the packet's own shape, an empty grid completes at once
with status 0, a failed check refuses it with that check's status, a failed dependence with status 9, and an unmet one makes it wait
(R234, R236 to R241). Where the spec does not decide it, the model's own choices hold: log entries 28, 29 and 30. -/
def Obligations.PacketsAreAccepted : Prop :=
  (∀ (s : State) (n : Nat) (q : Queue) (p : Partition) (c : Context) (x : Packet), s.queue? n = some q → q.part = some p.id → s.part? p.id = some p →
    p.ctx? q.ctx = some c → p.plain → q.packet = some x → c.held = [] →
    let done := x.toNat / 2 ^ 384 % 2 ^ 64
    let i := Instr.acceptance n
    ((∃ d ∈ depsOf x, s.depFailed d = true) → Does s i (s.refuse p q c 9 0 (some done))) ∧
    ((∀ d ∈ depsOf x, s.depFailed d = false) → (∃ d ∈ depsOf x, s.depMet d = false) → Waits s i) ∧
    ((∀ d ∈ depsOf x, s.depFailed d = false ∧ s.depMet d = true) →
      (s.goesFirst p q = true → Waits s i) ∧ (x.toNat / 2 ^ 826 % 2 = 1 → s.countsOpen p q c x = true → Waits s i) ∧
      (s.goesFirst p q = false → (x.toNat / 2 ^ 826 % 2 = 0 ∨ s.countsOpen p q c x = false) →
      (∀ st dt, s.checkLaunch p q c x (noteOf p q) = .error (st, dt) → Does s i (s.refuse p q c st dt (some done))) ∧
      (∀ l, s.checkLaunch p q c x (noteOf p q) = .ok l →
        ∃ u y, Does s i u ∧ u.fibres = s.fibres ∧ u.queue? n = some y ∧ y.nextSeq = q.nextSeq + 1 ∧ y.packet = none ∧
          (l.wgCount ≠ 0 → u.mem = s.mem ∧ y.doneSeq = q.doneSeq ∧
            ∃ l', u.launches = s.launches ++ [l'] ∧ { l' with residual := l.residual } = l) ∧
          (l.wgCount = 0 → u.launches = s.launches ∧ y.doneSeq = (q.complete q.nextSeq 0).doneSeq))))) ∧
  (∀ (s : State) (p : Partition) (q : Queue) (c : Context) (x : Packet) (stamp : Nat) (l : Launch), s.checkLaunch p q c x stamp = .ok l →
    let f := fun (hi lo : Nat) => x.toNat / 2 ^ lo % 2 ^ (hi + 1 - lo)
    l.ref = ⟨q.id, q.nextSeq.toNat⟩ ∧ l.part = p.id ∧ l.ctx = c.id ∧ l.entry = BitVec.ofNat 57 (f 63 0) ∧ l.entryTop = BitVec.ofNat 7 (f 63 57) ∧ l.pgx = f 479 448 ∧ l.pgy = f 511 480 ∧
    l.pgz = f 543 512 ∧ l.lseed = BitVec.ofNat 32 (f 575 544) ∧ l.regs = 8 * f 773 768 ∧ l.tiles = f 780 776 ∧ l.warps = f 789 784 ∧
    l.fibres = f 797 792 ∧ l.qlog = f 804 800 ∧ l.scratch = f 820 808 ∧ l.next = 0 ∧ l.pubs = [] ∧
    (f 826 826 = 0 → l.gx = f 479 448 ∧ l.gy = f 511 480 ∧ l.gz = f 543 512) ∧
    l.pgx * l.pgy * l.pgz * l.warps ≤ 2 ^ 26 ∧ l.gx ≤ l.pgx ∧ l.gy ≤ l.pgy ∧ l.gz ≤ l.pgz)

/-- Placement puts the next workgroups in linear order on cores that hold them, every part at its reset value and every fibre at the
launch's entry with clock 0; a workgroup without fibres or work left ends, or only leaves its core while an access keyed below its exit
may still come; and with the last one the launch ends, its record with status 0, or 8 where the host ended it (R9, R11, R17, R150, R237,
R238, R242 to R244). Where the spec does not decide it, the model's own choices hold: log entries 30 and 32. -/
def Obligations.WorkgroupsComeAndGo : Prop :=
  (∀ (s : State) (r : LRef) (l : Launch) (p : Partition) (xs : List (Nat × Option Nat)), s.launch? r = some l → s.part? l.part = some p →
    l.next < l.wgCount → l.preempt = none → s.launchHeld p l = false → s.placesFirst p l = false → s.nextPlaces p l = some xs →
    (xs.map (·.1)).Nodup →
    ∃ u l', Does s (.workgroupPlacement r) u ∧ u.mem = s.mem ∧ u.launch? r = some l' ∧ l'.next = l.next + xs.length ∧
      (l.gang = false → ∃ k, xs = [(l.next, some k)] ∧ s.fits p l k 1 = true ∧ k ∈ s.allowedCores p l) ∧
      ∀ x ∈ xs, (s.wg? ⟨r, x.1⟩ = none → u.wg? ⟨r, x.1⟩ = some { l.newWg x.1 0 with core := x.2 }) ∧
        ∀ j k, j < l.warps → k < l.fibres → s.fibre? ⟨⟨r, x.1⟩, j, k⟩ = none →
          ∃ n, u.fibre? ⟨⟨r, x.1⟩, j, k⟩ = some (l.newFibre ⟨⟨r, x.1⟩, j, k⟩ n)) ∧
  (∀ (l : Launch) (r : FRef) (n : Nat), let f := l.newFibre r n
    f.pc = l.entry ∧ f.clk = 0 ∧ f.view = 0 ∧ f.preds = 1 ∧ f.wbase = 0 ∧ f.regs = List.replicate l.regs 0 ∧ f.seed = l.lseed ∧ f.fflags = 0 ∧
    f.rmode = .rne ∧ f.pend = [] ∧ f.outs = [] ∧ (∀ b ∈ f.bregs, b.st = .unprepared) ∧ f.arr = [0, 0, 0, 0]) ∧
  (∀ (s : State) (r : WRef) (w : Workgroup) (l : Launch) (k : Key), s.wg? r = some w → s.launch? r.launch = some l → l.exitOf r.wg = some k →
    s.wgFibres r = [] → (∀ c ∈ w.mcmds, c.done = true) → (∀ c ∈ l.ecmds, c.done = true ∨ c.wref ≠ r) → (∀ q ∈ l.wdqs, q.done = true ∨ q.wref ≠ r) →
    k.clk < s.quadHorizon l r.wg → s.padNeeded l r.wg = false → l.preempt = none →
    (s.excludedBelow l r.wg k.clk = false →
      ∃ u, Does s (.workgroupExit r) u ∧ u.wg? r = none ∧ (∀ v ∈ u.warps, v.wref ≠ r) ∧ (∀ x, x ≠ r → u.wg? x = s.wg? x) ∧ u.mem = s.mem ∧
        u.fibres = s.fibres ∧ u.launch? r.launch = some l) ∧
    (s.excludedBelow l r.wg k.clk = true →
      (w.core = none → Waits s (.workgroupExit r)) ∧
      (w.core ≠ none → Does s (.workgroupExit r) (s.updW r fun x => { x with core := none })))) ∧
  (∀ (s : State) (r : LRef) (l : Launch), s.launch? r = some l → l.wgCount ≤ l.next → l.pubs = [] → (∀ w ∈ s.wgs, w.ref.launch ≠ r) →
    (∀ c ∈ l.ecmds, c.done = true) →
    ∃ u, Does s (.completionRecordWrite r) u ∧ Ended s u l (if l.draining then 8 else 0))

/-- The rotation saves the lowest waiting workgroup whole when nothing else can go on, its context image with it, and puts it back with
every fibre as it was but for its tokens; a waiting warp leaves the active set where the pending set has room, and the first ready pending
one enters it where there is room, in place of a waiting one, or in place of one of higher clock; a built residual form hits the launch's
own key, and of the cache only entries not in use leave (R151, R223, R244, R246, R262 to R264, R308). Where the spec does not decide it,
the model's own choices hold: log entries 31, 33 and 59. -/
def Obligations.CoresShareTheWork : Prop :=
  (∀ (s : State) (r : WRef) (w : Workgroup) (l : Launch) (p : Partition), s.wg? r = some w → s.launch? r.launch = some l → s.part? l.part = some p →
    l.preempt = none → l.order = true → l.next < l.wgCount → s.nextPlaces p l = none → w.core ≠ none → s.wgFibres r ≠ [] → s.resultsIn r = true →
    (∀ x ∈ s.wgs, x.ref.launch = l.ref → x.core ≠ none → s.wgFibres x.ref ≠ [] →
      s.wgWaits l x = true ∧ s.barUnplaced l x = false ∧ r.wg ≤ x.ref.wg) →
    ∃ u, Does s (.rotationSave r) u ∧ u.mem = s.mem ∧ u.warps = s.warps ∧
      u.wg? r = some { w with core := none, saved := imageHeader l 1 ++ s.wgRecord l w } ∧
      ∀ q f, s.fibre? q = some f → u.fibre? q = some (if q.wref = r then { f with held := none } else f)) ∧
  (∀ (s : State) (r : WRef) (w : Workgroup) (l : Launch) (p : Partition) (k : Nat), s.wg? r = some w → s.launch? r.launch = some l →
    s.part? l.part = some p → s.returnCore p l w = some k → l.rotated w = true → (s.wouldAct l w k = true ∨ l.wgCount ≤ l.next) →
    (s.placesFirst p l = true → Waits s (.rotationRestore r)) ∧
    (s.placesFirst p l = false → (∀ f ∈ s.wgFibres r, f.performed = false) →
      ∃ u, Does s (.rotationRestore r) u ∧ u.wg? r = some { w with core := some k, image := none, saved := [] } ∧ u.mem = s.mem ∧
        ∀ q f, s.fibre? q = some f →
          u.fibre? q = some (if q.wref = r then { f with outs := f.outs.map fun o => { o with token := 0 }, form := none, held := none } else f))) ∧
  (∀ (s : State) (r : WRef) (j : Nat) (v : Warp) (w : Workgroup) (l : Launch) (k : Nat), s.warp? r j = some v → s.wg? r = some w →
    s.launch? r.launch = some l → w.core = some k →
    let act := s.activeWarps l.part k (v.slot % 4)
    let pend := s.pendingWarps l.part k (v.slot % 4)
    (v.active = true → s.warpWaits v = true → pend.length < 4 → Does s (.warpPromotion r j) (s.setActive v false)) ∧
    (v.active = true → s.warpWaits v = false ∨ 4 ≤ pend.length → Waits s (.warpPromotion r j)) ∧
    (v.active = false → s.warpWaits v = true ∨ (∃ y ∈ pend, s.warpWaits y = false ∧ s.warpFirst v y = false) → Waits s (.warpPromotion r j)) ∧
    (v.active = false → s.warpWaits v = false → (∀ y ∈ pend, s.warpWaits y = true ∨ s.warpFirst v y = true) →
      (act.length < 8 → Does s (.warpPromotion r j) (s.setActive v true)) ∧
      (8 ≤ act.length → ∀ y, act.find? s.warpWaits = some y → Does s (.warpPromotion r j) ((s.setActive y false).setActive v true)) ∧
      (8 ≤ act.length → (∀ z ∈ act, s.warpWaits z = false) → ∀ y, (∀ z ∈ act, s.warpClk z ≤ s.warpClk y) →
        act.find? (fun z => s.warpClk z = s.warpClk y) = some y →
        (s.warpClk v < s.warpClk y → Does s (.warpPromotion r j) ((s.setActive y false).setActive v true)) ∧
        (s.warpClk y ≤ s.warpClk v → Waits s (.warpPromotion r j))))) ∧
  (∀ (s : State) (r : LRef) (l : Launch) (p : Partition) (pas : List Nat), s.launch? r = some l → s.part? l.part = some p → l.noPress = false →
    l.residual = none → pressHit p l = none → codeAddr l.entry 0 = l.entry64 →
    let b := pressBuild (s.pressFetch l) l
    b.ok = true → b.words ≠ [] → b.words.mapM (s.codePhys l) = some pas → constantCode l (b.words.map (· % 2 ^ 57)) = true →
    let x : PressEntry := ⟨codeDigest s l.entry (l.regs / 8) pas, staticDigest l.args l.smap, tableId l.dtab, 1, b.residual, b.backMap, b.forms'⟩
    let xs := usedLast x (p.press.filter fun y => !y.keyed l x.code)
    pressSize xs ≤ 2 ^ 22 * p.quads.length →
    ∃ u p', Does s (.pressBuild r) u ∧ u.mem = s.mem ∧ u.fibres = s.fibres ∧ u.launches = s.launches ∧ u.part? l.part = some p' ∧ p'.press = xs ∧
      pressHit p' l = some x) ∧
  (∀ (used : PressEntry → Bool) (cap : Nat) (xs : List PressEntry), let ys := trimPress used cap xs.length xs
    (∀ x ∈ ys, x ∈ xs) ∧ (∀ x ∈ xs, used x = true → x ∈ ys) ∧ (pressSize ys ≤ cap ∨ ∀ x ∈ ys, used x = true))

/-! ## Service of stops, pre-emption (R277, R278, R291 to R294, R301 to R308, R350) -/

/-- A translation fault makes an entry of the host fault queue or joins the unanswered one of its context, page and cause, whose slot in
the ring then shows it, and its fibre is held; another stop is posted with the lowest free tag where the stop queue has room, its record
written whole at `HEAD`; in replay the journalled answer is taken instead (R277, R291, R292, R320, R349, R350). Where the spec does not
decide it, the model's own choices hold: log entries 35 and 41. -/
def Obligations.StopsArePosted : Prop :=
  (∀ (s : State) (x : FaultSrc) (y : Launch × Nat × Nat × Key) (p : Partition), s.faultOf x = some y → s.part? y.1.part = some p →
    let g := y.2.1 % 2 ^ 57 / 65536
    let ans := takeFaultAns y.1.ref y.1.ctx g y.2.2.1 p.answers
    let same := fun (z : FqEntry) => z.ctx = y.1.ctx ∧ z.page = g ∧ z.cause = y.2.2.1 ∧ z.own = ans.map fun _ => y.1.ref
    (ans = none → (∀ z ∈ p.faultQ, ¬ same z) → ∃ u p' z, Does s (.hostFaultQueueEntry x) u ∧ u.part? p.id = some p' ∧
      p'.faultQ.length = p.faultQ.length + 1 ∧ z ∈ p'.faultQ ∧ same z ∧ z.srcs = [x] ∧ z.count = 1 ∧ z.key = y.2.2.2) ∧
    (ans = none → ∀ z, p.faultQ.find? (fun z => decide (same z)) = some z → ∃ u p' z', Does s (.hostFaultQueueEntry x) u ∧ u.part? p.id = some p' ∧
      p'.faultQ.length = p.faultQ.length ∧ z' ∈ p'.faultQ ∧ same z' ∧ z'.tag = z.tag ∧ z'.srcs = z.srcs ++ [x] ∧
      z'.count = min 0x1FFFF (z.count + 1) ∧ z'.key = (if keyLt y.2.2.2 z.key then y.2.2.2 else z.key) ∧ (z.tag = none → u.mem = s.mem) ∧
      ∀ t a, memWf s.mem = true → z.tag = some t → (p.ring 0).en = true → 0 < ((p.ring 0).head - BitVec.ofNat 32 z.slot).toNat →
        ((p.ring 0).head - BitVec.ofNat 32 z.slot).toNat ≤ 2 ^ (p.ring 0).logn →
        windowAddr p ((p.ring 0).base.toNat + 32 * (z.slot % 2 ^ (p.ring 0).logn)) = some a → memBytes u.mem a 32 = toBytes 32 (fqBits z' t)) ∧
    (ans = none → ∀ r f q, x = .fibre r → s.fibre? r = some f → f.st = .parked q .no →
      ∃ u, Does s (.hostFaultQueueEntry x) u ∧ u.fibre? r = some { f with st := .parked q .held }) ∧
    (∀ n rest r f q, ans = some ((true, n), rest) → n ≤ 1 → (∀ z ∈ p.faultQ, ¬ same z) → x = .fibre r → OnCore s r → s.fibre? r = some f → f.st = .parked q .no →
      ∃ u p', Does s (.hostFaultQueueEntry x) u ∧ u.part? p.id = some p' ∧ p'.answers = rest ∧ p'.faultQ = p.faultQ ∧
        u.fibre? r = some (f.retry q) ∧ u.mem = s.mem)) ∧
  (∀ (s : State) (r : FRef) (e : Env) (p : Partition) (q : FaultRec), s.env? r = some e → s.part? e.l.part = some p →
    OnCore s r → e.f.st = .parked q .no → q.code ≠ 1 → (q.code < 0x18 ∨ p.attached = false) →
    (takeStopAns e.l.ref q p.answers = none →
      ((p.ring 1).room = false → Waits s (.stopQueuePost r)) ∧
      (∀ n, (p.ring 1).room = true → freeTag ((s.partFibres p.id).filterMap stopTag ++ p.stopTags) = some n →
        ∃ u p', Does s (.stopQueuePost r) u ∧ u.fibre? r = some { e.f with st := .parked q (.tag n) } ∧ u.part? p.id = some p' ∧
          (p.rings.length = 5 → (p'.ring 1).head = (p.ring 1).head + 1) ∧
          ∀ a, memWf s.mem = true → windowAddr p ((p.ring 1).base.toNat + 64 * ((p.ring 1).head.toNat % 2 ^ (p.ring 1).logn)) = some a →
            memBytes u.mem a 64 = toBytes 64 (recBits q n))) ∧
    (∀ rest, takeStopAns e.l.ref q p.answers = some (false, rest) → ∃ u p' l', Does s (.stopQueuePost r) u ∧ u.part? p.id = some p' ∧
      p'.answers = rest ∧ u.fibre? r = some { e.f with st := .parked q .held } ∧ u.launch? e.l.ref = some l' ∧ l'.draining = true ∧ u.mem = s.mem)) ∧
  (∀ (used : List Nat) (n : Nat), freeTag used = some n ↔ n < 256 ∧ n ∉ used ∧ ∀ m, m < n → m ∈ used)

/-- The host's answers: Resume lets every joined fibre run its word again and Abort ends their launches and lets their commands skip;
Continue completes a `trap` or `brk` and runs any other word again; End drains the launch and leaves the fibre parked. An answer that
names no posted entry is rejected and only sets the answer status, and one to an entry whose launch has gone frees its tag (R278, R293,
R294, R350; that such a tag is kept until then is log 35's). A drained launch ends with status 8 once each of its live fibres is parked
and reported, or blocked, also as if every saved workgroup stood on a core, and nothing of it can still go on; the host's abort ends a
draining launch at once, and only such a one (R294). Where the spec does not decide it, the model's own choices hold: log entries 25, 34
and 35. -/
def Obligations.AnswersAndDrains : Prop :=
  (∀ (s : State) (n tag : Nat) (p : Partition), s.part? n = some p →
    ((∀ z ∈ p.faultQ, z.tag ≠ some tag) →
      (tag ∉ p.faultTags → Does s (.resumeFault n tag) (s.badAnswer n) ∧ Does s (.abortFault n tag) (s.badAnswer n)) ∧
      (tag ∈ p.faultTags → ∀ i ∈ [Instr.resumeFault n tag, .abortFault n tag], ∃ u p', Does s i u ∧ u.part? n = some p' ∧ p'.ansBad = false ∧
        (∀ x, x ∈ p'.faultTags ↔ x ∈ p.faultTags ∧ x ≠ tag) ∧ u.fibres = s.fibres ∧ u.launches = s.launches)) ∧
    (∀ z, p.faultQ.find? (fun z => z.tag = some tag) = some z →
      (∃ u p', Does s (.resumeFault n tag) u ∧ u.part? n = some p' ∧ p'.ansBad = false ∧
        ((∀ r, .fibre r ∈ z.srcs → OnCore s r) → u.wgs = s.wgs) ∧
        (∀ r f q k, .fibre r ∈ z.srcs → OnCore s r → s.fibre? r = some f → f.st = .parked q k → u.fibre? r = some (f.retry q)) ∧
        ∀ l i y, .engine l i ∈ z.srcs → u.launch? l = some y → ∀ c ∈ y.ecmds, c.n = i → c.waiting = false) ∧
      (∃ u p', Does s (.abortFault n tag) u ∧ u.part? n = some p' ∧ p'.ansBad = false ∧ u.fibres = s.fibres ∧
        (∀ r y, .fibre r ∈ z.srcs → u.launch? r.wref.launch = some y → y.draining = true) ∧
        ∀ l i y, .engine l i ∈ z.srcs → u.launch? l = some y → ∀ c ∈ y.ecmds, c.n = i → c.waiting = false ∧ c.skip = true))) ∧
  (∀ (s : State) (n tag : Nat) (p : Partition), s.part? n = some p → (∀ f ∈ s.partFibres n, stopTag f ≠ some tag) →
    (tag ∉ p.stopTags → Does s (.continueStop n tag) (s.badAnswer n) ∧ Does s (.endStop n tag) (s.badAnswer n)) ∧
    (tag ∈ p.stopTags → ∀ i ∈ [Instr.continueStop n tag, .endStop n tag], ∃ u p', Does s i u ∧ u.part? n = some p' ∧ p'.ansBad = false ∧
      (∀ x, x ∈ p'.stopTags ↔ x ∈ p.stopTags ∧ x ≠ tag) ∧ u.fibres = s.fibres ∧ u.launches = s.launches)) ∧
  (∀ (s : State) (n tag : Nat) (e : Env) (q : FaultRec), (s.partFibres n).find? (fun f => stopTag f = some tag) = some e.f →
    s.env? e.f.ref = some e → OnCore s e.f.ref → e.f.st = .parked q (.tag tag) →
    (q.code ≠ 0x18 → q.code ≠ 0x19 → ∃ u, Does s (.continueStop n tag) u ∧ u.fibre? e.f.ref = some (e.f.retry q) ∧ u.mem = s.mem ∧
      u.launches = s.launches) ∧
    ((q.code = 0x18 ∨ q.code = 0x19) → Room e 1 → ∃ u g, Does s (.continueStop n tag) u ∧ u.fibre? e.f.ref = some g ∧ g.clk = e.f.clk + 1 ∧
      g.widx = e.f.widx + 1 ∧ g.regs = e.f.regs ∧ g.preds = e.f.preds ∧ u.mem = s.mem) ∧
    (∃ u y, Does s (.endStop n tag) u ∧ u.fibre? e.f.ref = some { e.f with st := .parked q .held } ∧ u.launch? e.l.ref = some y ∧
      y.draining = true ∧ u.mem = s.mem)) ∧
  (∀ (s : State) (n : Nat), (s.badAnswer n).mem = s.mem ∧ (s.badAnswer n).fibres = s.fibres ∧
    ∀ p, s.part? n = some p → (s.badAnswer n).part? n = some { p with ansBad := true }) ∧
  (∀ (s : State) (r : LRef) (l : Launch) (p : Partition), s.launch? r = some l → s.part? l.part = some p → l.draining = true →
    let t := s.allOnCores r
    s.launchFibres r ≠ [] → l.wgCount ≤ l.next → l.preempt = none → (∀ f ∈ s.launchFibres r, t.drained f = true) →
    (∀ x ∈ p.faultQ, ∀ y ∈ x.srcs, srcLaunch y ≠ r) →
    (∀ w ∈ t.wgs, w.ref.launch = r → (∀ c ∈ w.mcmds, c.done = true) ∧ t.barsStuck w = true ∧ t.canDo (execHarpStall w.ref) = false) →
    t.canDo (execWaitDeadlock r) = false → (∀ c ∈ l.ecmds, c.done = true) → (∀ q ∈ l.wdqs, q.done = true ∨ t.canDo (execWdqAnswer r q.n) = false) →
    (∀ v ∈ l.icinvs, v.bytes ≠ none ∨ t.canDo (execIcinvApply r v.n) = false) →
    (∀ n, n < l.pubs.length → t.canDo (execPublicationApply r n) = false) →
    ∃ u, Does s (.drainComplete r) u ∧ Ended s u l 8) ∧
  (∀ (s : State) (r : LRef) (l : Launch), s.launch? r = some l →
    (l.draining = true → (∃ u, Does s (.hostAbort r) u ∧ Ended s u l 8 ∧
      ∀ p, s.part? l.part = some p → ∃ p', u.part? l.part = some p' ∧ p'.journal = p.journal ++ [.abort r])) ∧
    (l.draining = false → Waits s (.hostAbort r) ∧ Waits s (.drainComplete r)))

/-- Pre-emption: the command marks the launch for its image area, and is refused when the area is too small; the budget's expiry stops
fibres at any word boundary; a stopped workgroup's record goes behind those before it and leaves its core with all that it holds; the
command answers with the numbers saved and ended; a restore waits for missing atomic replies and then writes the recorded state of every
fibre and warp back from the image (R301 to R308). Where the spec does not decide it, the model's own choices hold: log entries 36 and 37. -/
def Obligations.PreemptionKeepsFibres : Prop :=
  (∀ (s : State) (p : Partition) (l : Launch), Asked s .preEmpt p → s.launch? ⟨s.arg 1, s.arg 2⟩ = some l → l.part = p.id →
    inGranuleRange p (s.arg2 3) (s.arg2 5) = true →
    let n := (s.wgs.filter fun w => w.ref.launch = l.ref).length * l.imageMax
    (l.preempt = none → s.arg2 5 < n → Rejects s .preEmpt 2) ∧
    (l.preempt = none → n ≤ s.arg2 5 → ∃ u, Does s .preEmpt u ∧ u.mgmt = s.mgmt ∧ u.fibres = s.fibres ∧ u.wgs = s.wgs ∧
      u.launch? l.ref = some { l with preempt := some ⟨s.arg2 3, s.arg2 5, s.arg2 3 + 64, decide (s.arg 7 = 0), 0, 0⟩ } ∧
      (memWf s.mem = true → 64 ≤ s.arg2 5 → memBytes u.mem (s.arg2 3) 64 = imageHeader l 0)) ∧
    (∀ x, l.preempt = some x →
      (s.allSaved l.ref = false → Waits s .preEmpt) ∧
      (s.allSaved l.ref = true → ∃ u, Answers s u .preEmpt 0 [BitVec.ofNat 32 x.saved, BitVec.ofNat 32 (s.endedWgs l.ref x)] ∧ u.fibres = s.fibres))) ∧
  (∀ (s : State) (r : LRef) (l : Launch) (x : Preempt), s.launch? r = some l → l.preempt = some x →
    (x.expired = false → s.allSaved r = false →
      Does s (.preemptionBudgetExpiry r) (s.updL r fun y => { y with preempt := some { x with expired := true } })) ∧
    (x.expired = true ∨ s.allSaved r = true → Waits s (.preemptionBudgetExpiry r))) ∧
  (∀ (s : State) (r : WRef) (w : Workgroup) (l : Launch) (x : Preempt), s.wg? r = some w → s.launch? r.launch = some l → l.preempt = some x →
    memWf s.mem = true → w.image = none → s.wgFibres r ≠ [] → (w.core = none ∨ ∀ f ∈ s.wgFibres r, stoppedFor x f = true) → s.resultsIn r = true →
    (∀ v ∈ s.wgs, v.ref.launch = r.launch → v.ref.wg < r.wg → v.image ≠ none ∨ s.wgFibres v.ref = []) → x.base + 64 ≤ x.next →
    ∃ u y, Does s (.workgroupSave r) u ∧ u.fibres = s.fibres ∧ u.warps = s.warps ∧
      u.wg? r = some { w with core := none, image := some x.next, saved := s.objBytes l w } ∧
      memBytes u.mem x.base 64 = imageHeader l (x.saved + 1) ∧ memBytes u.mem x.next (s.wgRecord l w).length = s.wgRecord l w ∧
      u.launch? r.launch = some y ∧ y.preempt = some { x with next := x.next + (s.wgRecord l w).length, saved := x.saved + 1 }) ∧
  (∀ (s : State) (p : Partition) (l : Launch) (x : Preempt), Asked s .restoreLaunch p →
    let b := s.arg2 1
    let h := memNat s.mem b 64
    let mine := s.wgs.filter fun w => w.ref.launch = l.ref ∧ ¬ (s.wgFibres w.ref).isEmpty
    s.launch? ⟨h / 2 ^ 88 % 2 ^ 8, h / 2 ^ 96 % 2 ^ 32⟩ = some l → l.part = p.id → l.preempt = some x →
    inGranuleRange p b 64 = true → h / 2 ^ 16 % 2 ^ 16 = 1 → h / 2 ^ 84 % 2 ^ 4 = l.ctx → h / 2 ^ 32 % 2 ^ 32 = mine.length →
    (∀ w ∈ mine, ∃ n, w.image = some n ∧ inGranuleRange p (b + (n - x.base)) (s.recordLen (b + (n - x.base))) = true ∧
      s.objectsKept w (b + (n - x.base)) = true) →
    (s.repliesDue l = true → Waits s .restoreLaunch) ∧
    ((∀ f ∈ s.launchFibres l.ref, ∀ a, f.st ≠ .atom a) → (mine.map (·.ref)).Nodup →
      ∃ u, Answers s u .restoreLaunch 0 [] ∧ u.mem = s.mem ∧ u.launch? l.ref = some { l with preempt := none } ∧
        (∀ w ∈ u.wgs, w.ref.launch = l.ref → w.image = none) ∧
        (∀ w n j v i, w ∈ mine → w.image = some n → s.warp? w.ref j = some v → i < 64 → ∃ v', u.warp? w.ref j = some v' ∧
          v'.sregs.getD i 0 = BitVec.ofNat 32 (memNat s.mem (b + (n - x.base) + 64 + 320 * j + 4 * i) 4)) ∧
        ∀ w n r f, w ∈ mine → w.image = some n → r.wref = w.ref → r.warp < l.warps → r.lane < 32 → s.fibre? r = some f →
          let z := memNat s.mem (b + (n - x.base) + 64 + 320 * l.warps + 256 * (32 * r.warp + r.lane)) 256
          ∃ g, u.fibre? r = some g ∧ g.clk = z / 2 ^ 1480 % 2 ^ 56 ∧ g.view = z / 2 ^ 1424 % 2 ^ 56 ∧ g.wbase = z / 2 ^ 1355 % 2 ^ 8 ∧
            g.preds = BitVec.ofNat 16 (z / 2 ^ 1339 % 2 ^ 16) ∧ g.seed = BitVec.ofNat 32 (z / 2 ^ 1307 % 2 ^ 32) ∧
            g.fflags = BitVec.ofNat 6 (z / 2 ^ 1301 % 2 ^ 6) ∧ g.halted = decide (z / 2 ^ 1295 % 2 ^ 3 = 4) ∧ g.held = none ∧ g.live = none ∧
            (∀ o ∈ g.outs, o.token = 0) ∧ g.uid = f.uid)) ∧
  (∀ (m : Memory) (a n : Nat), let rs := readRegs m a n
    rs.1.length = n ∧ (∀ k, k < n → (memNat m a 32).testBit k = false → rs.1.getD k 0 = 0) ∧
    ((∀ k, k < n → (memNat m a 32).testBit k = true) → rs.2 = a + 32 + 4 * n ∧
      ∀ k, k < n → rs.1.getD k 0 = BitVec.ofNat 32 (memNat m (a + 32 + 4 * k) 4)))

/-! ## The host, the operator and the debugger (R49, R50, R75, R231, R265 to R287, R314 to R322, R330 to R358) -/

/-- Partitions: one is created of unused quads, its vaults zero and its key slot loaded, and gone once its launches and queues are, its
granules zero and its keys erased; granules, which replace retired ones first, queues, ports and limits are assigned to it; what is out of
range is refused with status 1, what is taken with 2 (R231, R265, R267, R270, R279, R317, R323, R347, R353, R357). Where the spec does not
decide it, the model's own choices hold: log entries 37, 42 and 60. -/
def Obligations.PartitionCommands : Prop :=
  (∀ (s : State), s.mgmt.busy = some .createPartition → memWf s.mem = true →
    let n := s.arg 0
    let qs := (s.xferBytes 0 (s.arg 1)).map (·.toNat)
    let ok := n ≤ 63 ∧ 0 < s.arg 1 ∧ s.arg 1 ≤ 64 ∧ ∀ q ∈ qs, q ≤ 63
    let free := s.boot.released = 6 ∧ s.part? n = none ∧ qs.Nodup ∧ ∀ x ∈ s.parts, ∀ q ∈ x.quads, q ∉ qs
    (¬ ok → Rejects s .createPartition 1) ∧ (ok → s.boot.released ≤ 6 → ¬ free → Rejects s .createPartition 2) ∧
    (ok → free → ∃ u, Answers s u .createPartition 0 [] ∧ u.parts = s.parts ++ [newPartition n qs] ∧ u.launches = s.launches ∧
      (∀ q ∈ qs, ∀ o, o < 2 ^ 28 → memGet u.mem (2 ^ 52 + q * 2 ^ 28 + o) = 0) ∧
      (∀ k, s.keySlots[n]? = some k → u.keySlots[n]? = some ⟨true, k.gen + 1, Config.keyPair n (k.gen + 1).toNat⟩) ∧
      ∀ a, (∀ q ∈ qs, a < 2 ^ 52 + q * 2 ^ 28 ∨ 2 ^ 52 + (q + 1) * 2 ^ 28 ≤ a) → memGet u.mem a = memGet s.mem a)) ∧
  (∀ (n : Nat) (qs : List Nat), let p := newPartition n qs
    p.id = n ∧ p.quads = qs ∧ p.granules = [] ∧ p.ctxs = [] ∧ (∀ c ∈ p.counters, c = 0) ∧ (∀ w ∈ p.mbox, w = 0) ∧ (∀ r ∈ p.rings, r.en = false) ∧
    p.attached = false ∧ p.ansBad = false) ∧
  (∀ (s : State) (p : Partition), Asked s .destroyPartition p →
    (((∃ l ∈ s.launches, l.part = p.id) ∨ ∃ q ∈ s.queues, q.part = some p.id ∧ q.en = true) → Waits s .destroyPartition) ∧
    ((∀ l ∈ s.launches, l.part ≠ p.id) → (∀ q ∈ s.queues, q.part = some p.id → q.en = false) → memWf s.mem = true →
      ∃ u, Answers s u .destroyPartition 0 [] ∧ u.part? p.id = none ∧ (∀ q ∈ u.queues, q.part ≠ some p.id) ∧ (∀ x ∈ u.ports, x.part ≠ some p.id) ∧
        (∀ k, s.keySlots[p.id]? = some k → u.keySlots[p.id]? = some ⟨false, k.gen, 0⟩) ∧
        (∀ g ∈ p.granules ++ p.slots, ∀ o, o < 2 ^ 30 → memGet u.mem (g * 2 ^ 30 + o) = 0) ∧
        ∀ q ∈ p.quads, ∀ o, o < 2 ^ 28 → memGet u.mem (2 ^ 52 + q * 2 ^ 28 + o) = 0)) ∧
  (∀ (s : State) (p : Partition), Asked s .grantGranule p → let g := s.arg 1
    (767 < g → Rejects s .grantGranule 1) ∧ (g ≤ 767 → (s.granuleTaken g = true ∨ g ∈ s.retired) → Rejects s .grantGranule 2) ∧
    (g ≤ 767 → s.granuleTaken g = false → g ∉ s.retired →
      (p.owed = [] → Changes s .grantGranule p { p with granules := p.granules ++ [g] } []) ∧
      ∀ r rest, p.owed = r :: rest → let put := fun (xs : List Nat) => xs.map fun x => if x = r then g else x
        Changes s .grantGranule p { p with granules := put p.granules, slots := put p.slots, owed := rest, replaced := p.replaced ++ if r ∈ p.granules then [(r, g)] else [] } [])) ∧
  (∀ (s : State) (p : Partition) (q : Queue), Asked s .assignQueue p → s.queue? (s.arg 1) = some q →
    (q.part = none → ∃ u, Answers s u .assignQueue 0 [] ∧ u.queue? (s.arg 1) = some { q with part := some p.id } ∧ u.parts = s.parts) ∧
    (q.part = some p.id → ∃ u, Answers s u .assignQueue 0 [] ∧ u.queues = s.queues ∧ u.parts = s.parts) ∧
    (∀ n, q.part = some n → n ≠ p.id → Rejects s .assignQueue 2)) ∧
  (∀ (s : State), s.mgmt.busy = some .bindPort →
    ((13 < s.arg 0 ∨ (s.arg 1 ≠ 0xFF ∧ s.part? (s.arg 1) = none)) → Rejects s .bindPort 1) ∧
    (s.arg 0 ≤ 13 → (s.arg 1 = 0xFF ∨ s.part? (s.arg 1) ≠ none) → ∃ u, Answers s u .bindPort 0 [] ∧ u.parts = s.parts ∧ u.mem = s.mem ∧
      (∀ x ∈ u.ports, x.link = s.arg 0 → x.part = if s.arg 1 = 0xFF then none else some (s.arg 1)))) ∧
  (∀ (s : State) (p : Partition),
    (Asked s .setPowerLimit p → Changes s .setPowerLimit p { p with powerLimit := s.arg 1 } []) ∧
    (Asked s .stepPolicy p → s.arg 3 ≤ 1 → p.order = [] → p.replay = none →
      Changes s .stepPolicy p { p with timerMs := s.arg 1, stepCount := s.arg 2, dualRun := decide (s.arg 3 = 1), dualNext := none } []) ∧
    (Asked s .stepPolicy p → s.arg 3 ≤ 1 → (p.order ≠ [] ∨ p.replay ≠ none) →
      Changes s .stepPolicy p { p with timerMs := s.arg 1, stepCount := s.arg 2, dualNext := some (decide (s.arg 3 = 1)) } []) ∧
    (Asked s .stepPolicy p → 1 < s.arg 3 → Rejects s .stepPolicy 1))

/-- Contexts and their tables: created at a root in the partition's granules, destroyed when nothing uses them, their extents zero; new
decode tables and descriptors wait for the next launch boundary, freed extents and restricting updates for the end of the context's
launches, and additions and moves to free frames, which what running launches hold of a page follows, take effect at once; a smaller cache
or quota demotes pins; all go into the journal (R49, R50, R75, R270, R276, R283, R284, R318, R347). Where the spec does not decide it, the
model's own choices hold: log entries 37, 38 and 41. -/
def Obligations.ContextCommands : Prop :=
  (∀ (s : State) (p : Partition), Asked s .createContext p →
    let bad := 15 < s.arg 1 ∨ s.arg2 2 % 4096 ≠ 0 ∨ 2 ^ 52 ≤ s.arg2 2
    (bad → Rejects s .createContext 1) ∧
    (¬ bad → (p.ctx? (s.arg 1) ≠ none ∨ inGranules p (s.arg2 2) = false) → Rejects s .createContext 2) ∧
    (¬ bad → p.ctx? (s.arg 1) = none → inGranules p (s.arg2 2) = true →
      Changes s .createContext p { p with ctxs := p.ctxs ++ [⟨s.arg 1, s.arg2 2, s.arg 4, .native, [], [], [], none, none, []⟩] } [])) ∧
  (∀ (s : State) (p : Partition) (c : Context), AskedCtx s .destroyContext p c →
    let used := s.ctxRuns p.id c.id = true ∨ ∃ q ∈ s.queues, q.part = some p.id ∧ q.ctx = c.id ∧ q.en = true
    (used → Rejects s .destroyContext 2) ∧
    (¬ used → memWf s.mem = true → ∃ u p', Answers s u .destroyContext 0 [] ∧ u.part? p.id = some p' ∧ p'.ctx? c.id = none ∧
      p'.journal = p.journal ++ (if c.extentNos = [] then [] else [.extents (p.accs + 1) c.id [] c.extentNos]) ∧
      ∀ x ∈ c.extents, ∀ k, k < x.2 → ∀ o, o < 2 ^ 21 → memGet u.mem (vaultAddr p ((x.1 + k) * 2 ^ 21) + o) = 0)) ∧
  (∀ (s : State) (p : Partition) (c : Context), AskedCtx s .loadDecodeTable p c →
    let ws := wordsOfBytes (s.xferBytes 0 4096)
    ((∀ x ∈ (List.range 1024).zip ws, dtabEntryOk x.1 x.2 = true) →
      Changes s .loadDecodeTable p (p.updC c.id fun y => { y with newDtab := some (.loaded ws) }) []) ∧
    ((∃ x ∈ (List.range 1024).zip ws, dtabEntryOk x.1 x.2 = false) → Rejects s .loadDecodeTable 2)) ∧
  (∀ (s : State) (p : Partition) (c : Context), AskedCtx s .loadDescriptors p c →
    let bad := 255 < s.arg 2 ∨ s.arg 3 = 0 ∨ 256 < s.arg 2 + s.arg 3
    (bad → Rejects s .loadDescriptors 1) ∧
    (¬ bad → Changes s .loadDescriptors p (p.updC c.id fun y =>
      { y with newDescs := some (memPut (y.newDescs.getD y.descs) (64 * s.arg 2) (s.xferBytes 0 (64 * s.arg 3))) }) [])) ∧
  (∀ (s : State) (p : Partition) (c : Context), AskedCtx s .allocateExtents p c →
    let first := 128 * s.arg 2 + s.arg 3
    let bad := p.quads.length ≤ s.arg 2 ∨ 115 < s.arg 3 ∨ s.arg 4 = 0
    let new := (List.range (s.arg 4)).map fun k => first + k
    let taken := 116 < s.arg 3 + s.arg 4 ∨ ∃ k ∈ new, (∃ y ∈ p.ctxs, inExtents y (k * 2 ^ 21) = true) ∨ ∃ x ∈ p.extentsDue, x.2 = k
    (bad → Rejects s .allocateExtents 1) ∧ (¬ bad → taken → Rejects s .allocateExtents 2) ∧
    (¬ bad → ¬ taken → ∃ p', Changes s .allocateExtents p p' [] ∧
      ((s.updP p.id fun _ => { p.updC c.id (fun y => { y with extents := y.extents ++ new.map fun k => (k, 1) }) with
        journal := p.journal ++ [.extents (s.recAcc p c.id) c.id new []] }).refitPins p.id).part? p.id = some p')) ∧
  (∀ (s : State) (p : Partition), s.part? p.id = some p → (p.ctxs.map (·.id)).Nodup → let bare := fun (c : Context) => { c with pins := [] }
    ∃ q, (s.refitPins p.id).part? p.id = some q ∧ { q with ctxs := p.ctxs, counters := p.counters } = p ∧ q.ctxs.map bare = p.ctxs.map bare ∧
      ∀ c ∈ q.ctxs, (c.pins.map (·.block)).eraseDups.length ≤ c.quota ∧
        ∀ x ∈ c.pins, s.isFenced 1 (cacheBank p x.phys) = false ∧ ∃ y ∈ p.ctxs, y.id = c.id ∧ x ∈ y.pins) ∧
  (∀ (s : State) (p : Partition) (c : Context), AskedCtx s .freeExtents p c →
    let first := 128 * s.arg 2 + s.arg 3
    let bad := p.quads.length ≤ s.arg 2 ∨ 115 < s.arg 3 ∨ s.arg 4 = 0 ∨ 116 < s.arg 3 + s.arg 4
    let held := ∀ k, k < s.arg 4 → (inExtents c ((first + k) * 2 ^ 21) = true ∨ (c.id, first + k) ∈ p.extentsDue) ∧ first + k ∉ c.freeing
    (bad → Rejects s .freeExtents 1) ∧ (¬ bad → ¬ held → Rejects s .freeExtents 2) ∧
    (¬ bad → held → Changes s .freeExtents p (p.updC c.id fun y => { y with held := y.held ++ [⟨[], [(first, s.arg 4)]⟩] }) [])) ∧
  (∀ (s : State) (p : Partition) (c : Context), AskedCtx s .setResidencyQuota p c →
    ∃ p', Changes s .setResidencyQuota p p' [] ∧
      ((s.updP p.id fun _ => p.updC c.id fun y => { y with quota := s.arg 2 }).refitPins p.id).part? p.id = some p') ∧
  (∀ (s : State) (p : Partition) (c : Context), let es := s.ptPairs (s.arg 6)
    let ok := ptArgsOk s.arg = true ∧ ∀ e ∈ es, s.ptEntry p c s.arg es e ≠ none
    let journalled := fun (e : Nat × BitVec 64) (m : Option (Nat × Nat × Nat)) => JRec.table (s.recAcc p c.id) c.id [e] m false
    (∀ i ∈ [Instr.pageTableAdd, .pageTableMove, .pageTableRestrict], AskedCtx s i p c → ¬ ok → Rejects s i 1) ∧
    (AskedCtx s .pageTableAdd p c → ok → (∃ e ∈ es, memNat s.mem e.1 8 % 2 = 1 ∨ e.2.getLsbD 0 = false) → Rejects s .pageTableAdd 2) ∧
    (AskedCtx s .pageTableAdd p c → ok → (∀ e ∈ es, memNat s.mem e.1 8 % 2 = 0 ∧ e.2.getLsbD 0 = true) → (es.map (·.1)).Nodup → memWf s.mem = true →
      ∃ u, Answers s u .pageTableAdd 0 [] ∧ u.launches = s.launches ∧ u.fibres = s.fibres ∧ (∀ e ∈ es, memNat u.mem e.1 8 = e.2.toNat) ∧
        (∀ x, (∀ e ∈ es, x < e.1 ∨ e.1 + 8 ≤ x) → memGet u.mem x = memGet s.mem x) ∧
        u.part? p.id = some (p.tablesChanged c.id [.table (s.recAcc p c.id) c.id es none false])) ∧
    (AskedCtx s .pageTableRestrict p c → ok → Changes s .pageTableRestrict p (p.updC c.id fun y => { y with held := y.held ++ [⟨es, []⟩] }) []) ∧
    (∀ e x, AskedCtx s .pageTableMove p c → ok → es = [e] → s.ptEntry p c s.arg es e = some x →
      (s.moveOf p c s.arg x e = none → Rejects s .pageTableMove 2) ∧
      (∀ m, s.moveOf p c s.arg x e = some m → s.framesFree p [m] = false → Rejects s .pageTableMove 2) ∧
      (∀ m, s.moveOf p c s.arg x e = some m → s.framesFree p [m] = true → memWf s.mem = true → ∃ u, Answers s u .pageTableMove 0 [] ∧
        u.part? p.id = some ((p.updC c.id fun z => { z with pins := z.pins.map fun q => { q with phys := m.addr (q.phys * 512) / 512 } }).tablesChanged c.id
          [journalled e (some (m.src, m.dst, m.len))]) ∧
        memNat u.mem e.1 8 = e.2.toNat ∧
        (∀ o, o < m.len → m.dst + o < e.1 ∨ e.1 + 8 ≤ m.dst + o → memGet u.mem (m.dst + o) = memGet s.mem (m.src + o)) ∧
        ∀ r f l, s.fibre? r = some f → s.launch? r.wref.launch = some l →
          (l.part = p.id → l.ctx = c.id → u.launch? l.ref = some (m.launch l) ∧ u.fibre? r = some (m.fibre f)) ∧
          ((∀ y ∈ s.launches, y.ref = l.ref → y.part ≠ p.id ∨ y.ctx ≠ c.id) → u.launch? l.ref = some l ∧ u.fibre? r = some f)))) ∧
  (∀ (s : State) (p : Partition) (c : Context) (a : Nat → Nat) (x : Nat × Nat) (e : Nat × BitVec 64) (m : FrameMove), s.moveOf p c a x e = some m →
    let old := memNat s.mem e.1 8
    old % 4 = 3 ∧ m = ⟨frameOf p old, frameOf p e.2.toNat, 2 ^ (16 + 9 * x.1)⟩ ∧
      e.2.toNat = old - old / 2 ^ 12 % 2 ^ 40 * 2 ^ 12 + (arg64 a 7 + (x.2 - arg64 a 3 % 2 ^ 57)) ∧ (m.dst + m.len ≤ m.src ∨ m.src + m.len ≤ m.dst)) ∧
  (∀ (s : State) (n i : Nat) (p : Partition) (c : Context) (h : Restrict), s.part? n = some p → p.ctx? i = some c → c.held.head? = some h →
    (s.ctxRuns n i = true → Waits s (.restrictTakesEffect n i)) ∧
    (s.ctxRuns n i = false → p.stopped = false → p.replaying = false → memWf s.mem = true →
      (h.frees = [] → h.entries ≠ [] → (h.entries.map (·.1)).Nodup → (∀ e ∈ h.entries, e.1 % 8 = 0) →
        ∃ u p', Does s (.restrictTakesEffect n i) u ∧ u.part? n = some p' ∧ p'.ctx? i = some { c with held := c.held.tail } ∧
          p'.journal = p.journal ++ [.table (p.accs + 1) i h.entries none true] ∧ ∀ e ∈ h.entries, memNat u.mem e.1 8 = e.2.toNat) ∧
      (∀ a k, h.entries = [] → h.frees = [(a, k)] → 0 < k → ∃ u p' c', Does s (.restrictTakesEffect n i) u ∧ u.part? n = some p' ∧
        p'.ctx? i = some c' ∧ c'.held = c.held.tail ∧ p'.journal = p.journal ++ [.extents (p.accs + 1) i [] ((List.range k).map fun j => a + j)] ∧
        (∀ x, x ∈ c'.extents ↔ x ∈ c.extents ∧ ¬ (a ≤ x.1 ∧ x.1 < a + k)) ∧
        ∀ j o, j < k → o < 2 ^ 21 → memGet u.mem (vaultAddr p ((a + j) * 2 ^ 21) + o) = 0)))

/-- Steps and snapshots by command: a mark carries the next step number and, when due, holds its queues; slots take free granules; the
newest complete snapshot is exported as encrypted shards with its manifest; an empty partition takes the largest whole step of its shape,
or hears which steps were found (R279, R280, R314, R315, R321, R322). Steps: an expired timer makes the next mark due; at a due mark a
quiescent partition's memory, tables and queue numbers are held in a new snapshot, which is complete, with its manifest, once its pages
are copied, and the journal before it goes; a dual-run step is run again until two digests agree, a mismatch being a recovery event (R312,
R314 to R316, R318, R321, R323 to R326). Where the spec does not decide it, the model's own choices hold: log entries 37, 39, 40, 41, 42,
43 and 44. -/
def Obligations.StepsAndSnapshots : Prop :=
  (∀ (s : State) (p : Partition), Asked s .stepMark p →
    (xferLen < 8 * s.arg 3 → Rejects s .stepMark 3) ∧
    (8 * s.arg 3 ≤ xferLen → s.markList p.id (s.arg 3) = none → Rejects s .stepMark 1) ∧
    (∀ xs, 8 * s.arg 3 ≤ xferLen → s.markList p.id (s.arg 3) = some xs →
      (s.arg2 1 ≠ p.nextStep → Rejects s .stepMark 2) ∧
      (s.arg2 1 = p.nextStep →
        let due := p.timerDue = true ∨ (p.stepCount ≠ 0 ∧ p.stepCount ≤ p.marks + 1)
        let q := { p with nextStep := p.nextStep + 1, marks := p.marks + 1 }
        (due → s.slotsFit p = true → p.mark = none → Changes s .stepMark p { q with mark := some (p.nextStep, xs) } []) ∧
        (due → s.slotsFit p = true → p.mark ≠ none → Changes s .stepMark p { q with nextMarks := p.nextMarks ++ [(p.nextStep, xs)] } []) ∧
        (¬ due ∨ s.slotsFit p = false → Changes s .stepMark p q [])))) ∧
  (∀ (s : State) (p : Partition), s.slotsFit p = true ↔ p.slots ≠ [] ∧ p.slotNeed ≤ p.slots.length / 2 ∧ ∀ g ∈ p.slots, g ∉ s.retired) ∧
  (∀ (s : State) (p : Partition), Asked s .snapshotSlots p → 2 * s.arg 1 ≤ xferLen →
    let gs := (List.range (s.arg 1)).map fun k => ofBytes (s.xferBytes (2 * k) 2)
    ((∃ g ∈ gs, 767 < g) → Rejects s .snapshotSlots 1) ∧
    ((∀ g ∈ gs, g ≤ 767) → (∃ g ∈ gs, (s.granuleTaken g = true ∧ g ∉ p.slots) ∨ g ∈ s.retired) ∨ ¬ gs.Nodup → Rejects s .snapshotSlots 2) ∧
    ((∀ g ∈ gs, g ≤ 767 ∧ (s.granuleTaken g = true → g ∈ p.slots) ∧ g ∉ s.retired) → gs.Nodup →
      ((∃ x ∈ p.snaps, x.complete = false) → Waits s .snapshotSlots) ∧
      ((∀ x ∈ p.snaps, x.complete = true) → ∃ p', Changes s .snapshotSlots p p' [] ∧ { p' with snaps := p.snaps, snapLost := p.snapLost } = { p with slots := gs } ∧
        (∀ x, x ∈ p'.snaps ↔ x ∈ p.snaps ∧ (x.slot < 2 → p'.slot x.slot = p.slot x.slot)) ∧
        (p'.snapLost = false ↔ p.snapLost = false ∧ ∀ x, p.newest = some x → x ∈ p'.snaps)))) ∧
  (∀ (p : Partition) (x : Snapshot), p.newest = some x →
    x ∈ p.snaps ∧ x.complete = true ∧ ∀ y ∈ p.snaps, y.complete = true → y.step ≤ x.step) ∧
  (∀ (s : State) (p : Partition), Asked s .exportSnapshot p → s.arg 1 ≤ 2 →
    (p.newest = none → Rejects s .exportSnapshot 2) ∧
    (∀ x, p.newest = some x → ∃ u, Answers s u .exportSnapshot 0 (words64 x.step) ∧ u.parts = s.parts ∧ u.mem = s.mem ∧
      u.exported = s.exported ++ ((if x.manifest = [] then manifestOf s p x else x.manifest) :: shardsOf s p x).map fun b => (s.arg 1, s.arg2 2, b))) ∧
  (∀ (s : State) (p : Partition) (x : Snapshot) (i : Nat) (y : Nat × List Byte), (shardBodies p x)[i]? = some y → ∃ b, (shardsOf s p x)[i]? = some b ∧
    b.drop 64 = xtsLines false (s.slotPair p.id) y.1 y.2 ∧ bits (ofBytes (b.take 64)) 63 0 = x.step % 2 ^ 64) ∧
  (∀ (s : State) (p : Partition), Asked s .restoreSnapshot p → s.arg 1 ≤ 2 →
    let ms := (List.range (s.arg 4)).map fun i => Config.manifest s.tick (s.arg 1) (s.arg2 2) i
    let whole := ms.filter (stepWhole (s.xferBytes 0 xferLen) (Config.shards s.tick (s.arg 1) (s.arg2 2)))
    ((p.ctxs ≠ [] ∨ ∃ l ∈ s.launches, l.part = p.id) → Rejects s .restoreSnapshot 2) ∧
    (p.ctxs = [] → (∀ l ∈ s.launches, l.part ≠ p.id) →
      let refused := ∃ u, Answers s u .restoreSnapshot 2 [] ∧ u.mem = s.mem ∧ u.parts = s.parts ∧ u.queues = s.queues
      (whole = [] → refused) ∧
      (∀ m, largestStep whole = some m → p.shardsFit m = false → refused) ∧
      (∀ m, largestStep whole = some m → p.shardsFit m = true → ∃ u p', Answers s u .restoreSnapshot 0 (words64 (manifestStep m)) ∧
        u.part? p.id = some p' ∧ p'.nextStep = manifestStep m + 1 ∧ p'.newest.map (·.step) = some (manifestStep m) ∧ u.launches = s.launches))) ∧
  (∀ (ms : List (List Byte)) (m : List Byte), largestStep ms = some m → m ∈ ms ∧ ∀ x ∈ ms, manifestStep x ≤ manifestStep m) ∧
  (∀ (s : State) (n : Nat) (p : Partition), s.part? n = some p →
    (p.timerMs = 0 → Waits s (.stepTimerExpiry n)) ∧
    (p.timerMs ≠ 0 → ∃ u, Does s (.stepTimerExpiry n) u ∧ u.part? n = some { p with timerDue := true } ∧ u.launches = s.launches)) ∧
  (∀ (s : State) (n : Nat) (p : Partition) (m : Nat × List (Nat × Word)), s.part? n = some p → p.mark = some m → p.stopped = false → p.dead = false →
    p.replay = none → (∀ x ∈ p.snaps, x.complete = true) → (p.dualRun = false ∨ p.stands = true ∨ p.snapLost = true) →
    (s.slotsFit p = false → Waits s (.snapshotStart n)) ∧ (s.slotsFit p = true → (∀ x ∈ s.mgmt.toFence, x.utype = 1 → bankHolds p x.unit = false) →
    (s.quiescent p m = false → Waits s (.snapshotStart n)) ∧
    (s.quiescent p m = true → ∃ u y x, Does s (.snapshotStart n) u ∧ u.mem = s.mem ∧ u.part? n = some y ∧ y.mark = p.nextMarks.head? ∧
      y.nextMarks = p.nextMarks.tail ∧ y.dualRun = p.dualNext.getD p.dualRun ∧ x.granules = p.granules ∧ y.timerDue = false ∧ x ∈ y.snaps ∧ x.complete = false ∧ x.step = m.1 ∧ x.ctxs = p.ctxs ∧ (∀ z, p.newest = some z → z ∈ y.snaps ∧ x.slot = 1 - z.slot) ∧
      (memWf s.mem = true → ∀ a, memGet x.mem a = if ownsAddr p a then memGet s.mem a else 0) ∧
      ∀ q ∈ s.queues, q.part = some n → (q.id, q.nextSeq, q.doneSeq) ∈ x.queues))) ∧
  (∀ (s : State) (n : Nat) (p : Partition) (x : Snapshot), s.part? n = some p → p.snaps.find? (fun x => !x.complete) = some x →
    ((p.stopped = true ∨ p.dead = true) → Waits s (.snapshotComplete n) ∧ ∀ g, Waits s (.snapshotPageCopy n g)) ∧
    (p.stopped = false → p.dead = false → ∀ g, g ∈ x.todo → ∃ u y x', Does s (.snapshotPageCopy n g) u ∧ u.mem = s.mem ∧ u.part? n = some y ∧
      y.snaps.find? (fun x => !x.complete) = some x' ∧ x' = { x with todo := x.todo.filter (· ≠ g) }) ∧
    (x.todo ≠ [] → Waits s (.snapshotComplete n)) ∧
    (x.todo = [] → p.stopped = false → p.dead = false → ∃ u y, Does s (.snapshotComplete n) u ∧ u.mem = s.mem ∧ u.part? n = some y ∧ y.snapLost = false ∧
      { x with complete := true, manifest := manifestOf s p x } ∈ y.snaps ∧
      (∀ z ∈ y.snaps, z.complete = true) ∧ y.journal = p.journal.drop x.recs)) ∧
  (∀ (s : State) (n : Nat) (p : Partition) (m : Nat × List (Nat × Word)), s.part? n = some p → p.mark = some m → p.stopped = false → p.dead = false →
    p.replay = none → p.dualRun = true → p.stands = false → p.snapLost = false → s.quiescent p m = true → (∀ x ∈ p.snaps, x.complete = true) →
    let d := (stepDigest s p, p.ran)
    (p.digests = [] → ∃ u y, Does s (.dualRunDigestCompare n) u ∧ u.part? n = some y ∧ y.digests = [d] ∧ y.replay ≠ none ∧ y.stopped = false) ∧
    ((∃ x ∈ p.digests, x.1 = d.1) → ∃ u y, Does s (.dualRunDigestCompare n) u ∧ u.mem = s.mem ∧ u.part? n = some y ∧ y.digests = d :: p.digests) ∧
    (p.digests ≠ [] → (∀ x ∈ p.digests, x.1 ≠ d.1) → p.digests.length < 4 → ∃ u y x, Does s (.dualRunDigestCompare n) u ∧ Decides s u x ∧
      x.rollbacks = [n] ∧ x.deads = [] ∧ x.record.event = 7 ∧ u.part? n = some y ∧ y.digests = d :: p.digests) ∧
    ((∀ x ∈ p.digests, x.1 ≠ d.1) → 4 ≤ p.digests.length → ∃ u x, Does s (.dualRunDigestCompare n) u ∧ Decides s u x ∧ x.deads = [n] ∧
      x.record.event = 8))

/-- Power states and identity: a die takes the state commanded, but not idle or retention with work on it nor off under a partition;
leaving off, it repeats its part of the boot sequence, its vaults zero; a nonce is answered by the report that holds it, and the
certificate with its length (R286, R287, R355). Boot releases the images in order up to the first that fails its check, whose number and
cause it keeps; an SPDM exchange activates the link's protection; and a power window above the limit throttles the next in proportion
(R286, R342, R357 to R359). Where the spec does not decide it, the model's own choices hold: log entries 7, 37, 45, 47 and 61. -/
def Obligations.PowerBootAndIdentity : Prop :=
  (∀ (s : State) (d : Die), s.dies[s.arg 0]? = some d → let st := s.arg 1
    let takes := fun (i : Instr) => ∃ u d', Answers s u i 0 [] ∧ u.dies[s.arg 0]? = some d' ∧ d'.state = st ∧ d'.warning = d.warning ∧
      u.parts = s.parts ∧ (d.state ≠ 10 → u.mem = s.mem ∧ u.boot = s.boot) ∧ (∀ k, k ≠ s.arg 0 → u.dies[k]? = s.dies[k]?) ∧
      (d.state = 10 → st ≠ 10 → memWf s.mem = true → u.boot.restarts = (4 + s.arg 0) :: s.boot.restarts ∧
        ∀ q o, q / 16 = s.arg 0 → o < 2 ^ 28 → memGet u.mem (2 ^ 52 + q * 2 ^ 28 + o) = 0)
    let fails := fun (c : Config.ImageFault) => d.state = 10 ∧ Config.dieCheck s.tick (s.arg 0) = some c
    let wakes := fun (i : Instr) => ((∀ c, ¬ fails c) → takes i) ∧ ∀ c, fails c → ∃ u, Answers s u i 2 [] ∧ u.dies = s.dies ∧ u.parts = s.parts ∧
      u.mem = s.mem ∧ u.boot = { s.boot with failOrder := 5, failCause := imageCause c }
    (s.mgmt.busy = some .setPowerStateRunLevel → (st ≤ 7 → wakes .setPowerStateRunLevel) ∧ (7 < st → Rejects s .setPowerStateRunLevel 1)) ∧
    (s.mgmt.busy = some .setPowerStateIdle → st = 8 →
      (s.dieBusy (s.arg 0) = true → Rejects s .setPowerStateIdle 2) ∧ (s.dieBusy (s.arg 0) = false → wakes .setPowerStateIdle)) ∧
    (s.mgmt.busy = some .setPowerStateRetention → st = 9 →
      (s.dieBusy (s.arg 0) = true → Rejects s .setPowerStateRetention 2) ∧ (s.dieBusy (s.arg 0) = false → wakes .setPowerStateRetention)) ∧
    (s.mgmt.busy = some .setPowerStateOff → st = 10 →
      ((∃ p ∈ s.parts, ∃ q ∈ p.quads, q / 16 = s.arg 0) → Rejects s .setPowerStateOff 2) ∧
      ((∀ p ∈ s.parts, ∀ q ∈ p.quads, q / 16 ≠ s.arg 0) → takes .setPowerStateOff))) ∧
  (∀ (s : State), s.mgmt.busy = some .attest → memWf s.mgmt.xfer = true →
    (s.part? (s.arg 0) = none → Rejects s .attest 2) ∧
    (∀ p, s.part? (s.arg 0) = some p → ∃ u, Answers s u .attest 0 [] ∧ u.parts = s.parts ∧ u.mem = s.mem ∧
      memBytes u.mgmt.xfer 0 256 = reportBody s p (s.xferBytes 0 32) ∧ memBytes u.mgmt.xfer 224 32 = s.xferBytes 0 32)) ∧
  (∀ (s : State), s.mgmt.busy = some .readCertificate → memWf s.mgmt.xfer = true → let n := Config.certificate.length
    (xferLen < n → Rejects s .readCertificate 3) ∧
    (n ≤ xferLen → ∃ u, Answers s u .readCertificate 0 [BitVec.ofNat 32 n] ∧ memBytes u.mgmt.xfer 0 n = Config.certificate ∧ u.mem = s.mem)) ∧
  (∀ (s : State), (s.boot.released ≠ 0 ∨ s.boot.failOrder ≠ 0 → Waits s .boot) ∧
    (s.boot.released = 0 → s.boot.failOrder = 0 → let n := s.boot.boots.toNat + 1
      ∃ u, Does s .boot u ∧ u.boot.boots = s.boot.boots + 1 ∧ u.boot.deviceId = devId ∧ u.parts = s.parts ∧
        ((∀ k, 1 ≤ k → k ≤ 6 → Config.imageCheck n k = none) → u.boot.released = 6 ∧ u.boot.failOrder = 0) ∧
        ∀ k c, 1 ≤ k → k ≤ 6 → Config.imageCheck n k = some c → (∀ j, 1 ≤ j → j < k → Config.imageCheck n j = none) →
          u.boot.released = k - 1 ∧ u.boot.failOrder = k ∧ u.boot.failCause = match c with
            | .signature => 1
            | .version => 2
            | .length => 3)) ∧
  (∀ (s : State), ∃ u, Does s .spdmRequest u ∧ u.boot = { s.boot with ide := true } ∧ u.parts = s.parts ∧ u.mem = s.mem) ∧
  (∀ (s : State) (n energy : Nat) (p : Partition), s.part? n = some p → ∃ u y, Does s (.powerMeterWindow n energy) u ∧ u.part? n = some y ∧
    (p.powerLimit = 0 ∨ energy ≤ p.powerLimit → y = { p with throttle := 0 }) ∧
    (p.powerLimit ≠ 0 → p.powerLimit < energy → y = { p with throttle := y.throttle } ∧
      2 ^ 20 * (energy - p.powerLimit) ≤ y.throttle * energy ∧ (y.throttle - 1) * energy < 2 ^ 20 * (energy - p.powerLimit)))

/-- Queues, rings and the mailbox: a notify write moves the tail within the ring and never back; a write of `CTL` configures a queue and
resets its numbers or is refused; a ring is enabled only within the partition's granules; consumed entries make room (R333, R349, R351,
R352). Nothing lands before IDE is active (R281). Where the spec does not decide it, the model's own choices hold: log entries 47, 48 and
50. -/
def Obligations.QueueAndRingWrites : Prop :=
  (∀ (s : State) (p n : Nat) (t : Word) (x : Partition) (q : Queue), s.part? p = some x → x.replay = none → s.queue? n = some q → q.part = some p →
    (s.boot.ide = false → Does s (.notifyWrite p n t) s) ∧
    (s.boot.ide = true → ∃ u y z, Does s (.notifyWrite p n t) u ∧ u.queue? n = some y ∧ u.part? p = some z ∧ z.notifies = x.notifies + 1 ∧ u.mem = s.mem ∧
      let ahead := (t - q.nextSeq).toNat
      (ahead ≤ 2 ^ q.rsize → (q.tail - q.nextSeq).toNat < ahead → y = { q with tail := t, nots := q.nots ++ [(t, x.notifies + 1)] }) ∧
      (2 ^ q.rsize < ahead ∨ ahead ≤ (q.tail - q.nextSeq).toNat → y = q))) ∧
  (∀ (s : State) (p n : Nat) (ctl : BitVec 64) (x : Partition) (q : Queue), s.part? p = some x → x.replay = none → s.boot.ide = true →
    s.queue? n = some q → q.part = some p → let c := ctl.toNat
    let refused := (∃ l ∈ s.launches, l.ref.queue = q.id ∧ l.part = x.id) ∨ c / 2 ^ 4 % 2 ^ 4 < 4 ∨ c / 2 ^ 20 ≠ 0 ∨ c / 2 ^ 11 % 2 ^ 5 ≠ 0 ∨
      c / 2 % 2 ^ 3 ≠ 0 ∨ x.ctx? (c / 2 ^ 16 % 2 ^ 4) = none ∨ 2 ^ (4 * x.quads.length) ≤ q.mask.toNat
    (refused → Does s (.queueConfigure p n ctl) (s.updQ n fun y => { y with refused := true })) ∧
    (¬ refused → ∃ u y, Does s (.queueConfigure p n ctl) u ∧ u.queue? n = some y ∧ y.en = decide (c % 2 = 1) ∧ y.rsize = c / 2 ^ 4 % 2 ^ 4 ∧
      y.prio = c / 2 ^ 8 % 2 ^ 3 ∧ y.ctx = c / 2 ^ 16 % 2 ^ 4 ∧ y.refused = false ∧ y.nextSeq = 0 ∧ y.doneSeq = 0xFFFFFFFF#32 ∧ y.tail = 0 ∧
      y.ring = q.ring ∧ y.mask = q.mask ∧ y.part = q.part ∧ y.packet = none ∧ y.shownDone = 0xFFFFFFFF#32 ∧ u.parts = s.parts)) ∧
  (∀ (s : State) (p r : Nat) (v : BitVec 64) (x : Partition), s.part? p = some x → s.boot.ide = true → r < 5 → x.rings.length = 5 →
    (v.getLsbD 48 = true → ringBad x r (x.ring r).base v.toNat = true → Does s (.ringEnable p r v) s) ∧
    (v.getLsbD 48 = true → ringBad x r (x.ring r).base v.toNat = false → (x.ring r).en = false →
      ∃ u y, Does s (.ringEnable p r v) u ∧ u.part? p = some y ∧ (y.ring r).en = true ∧ (y.ring r).logn = v.toNat / 2 ^ 40 % 2 ^ 8 ∧
        (y.ring r).drop = 0 ∧ (y.ring r).tail = 0 ∧ (r ≠ 0 → (y.ring r).head = 0 ∧ u.mem = s.mem)) ∧
    (v.getLsbD 48 = false → ∃ u y, Does s (.ringEnable p r v) u ∧ u.part? p = some y ∧ (y.ring r).en = false ∧ u.mem = s.mem)) ∧
  (∀ (s : State) (p r : Nat) (v : Word) (x : Partition), p ≠ mgmtPage → s.part? p = some x → s.boot.ide = true → r < 5 → x.rings.length = 5 →
    ∃ u y, Does s (.ringTailWrite p r v) u ∧ u.part? p = some y ∧ (y.ring r).tail = v ∧ (∀ k, k ≠ r → k ≠ 0 → y.ring k = x.ring k) ∧
      u.launches = s.launches) ∧
  (∀ (s : State) (v : Word), 3 ≤ s.boot.released → Does s (.ringTailWrite mgmtPage 5 v) { s with mgmt := { s.mgmt with tail := v } }) ∧
  (∀ (s : State) (p : Nat) (v : Word) (x : Partition), s.part? p = some x → s.boot.ide = true → x.mbox.length = 64 →
    ∃ u y, Does s (.evtailWrite p v) u ∧ u.part? p = some y ∧ y.mbox.getD 17 0 = v ∧ (y.events = [] ∨ mboxFull y = true) ∧
      ∃ sent, sent ++ y.events = x.events ∧ y.mbox.getD 16 0 = x.mbox.getD 16 0 + BitVec.ofNat 32 sent.length)

/-- Register writes: command words of the management page and its doorbell, which starts a listed command when none is under way; the
transfer areas; the mailbox, whose word 0 starts a debug command; counters; the queue's ring address; a reserved answer word (R330, R341,
R345 to R351). Where the spec does not decide it, the model's own choices hold: log entries 47 and 50. -/
def Obligations.RegisterWrites : Prop :=
  (∀ (s : State) (p off : Nat) (v : Word), ∃ u, Does s (.registerWrite p off v) u ∧ u.mem = s.mem ∧ u.launches = s.launches ∧ u.fibres = s.fibres ∧
    u.wgs = s.wgs) ∧
  (∀ (s : State) (off : Nat) (v : Word), let i := Instr.registerWrite mgmtPage off v
    (s.boot.released < 3 → Does s i s) ∧
    (3 ≤ s.boot.released → off % 4 = 0 →
      (off < 0x3C → Does s i { s with mgmt := { s.mgmt with cmd := setAt s.mgmt.cmd (off / 4) v } }) ∧
      (0xA000 ≤ off → off < 0xE000 → memWf s.mgmt.xfer = true → ∃ u, Does s i u ∧ memNat u.mgmt.xfer (off - 0xA000) 4 = v.toNat ∧
        u.mgmt.busy = s.mgmt.busy ∧ ∀ k, (k < off - 0xA000 ∨ off - 0xA000 + 4 ≤ k) → memGet u.mgmt.xfer k = memGet s.mgmt.xfer k) ∧
      (off = 0x3C → ∃ u, Does s i u ∧ u.mgmt.cmd = setAt s.mgmt.cmd 15 v ∧
        let w := (u.mgmt.cmd.getD 0 0).toNat
        let op := mgmtCommand (w / 2 ^ 24 % 2 ^ 8) (u.mgmt.cmd.getD 3 0).toNat (u.mgmt.cmd.getD 2 0).toNat
        (∀ j, s.mgmt.busy = some j → u.mgmt.busy = some j ∧ u.mgmt.block = s.mgmt.block ∧ u.mgmt.reply = s.mgmt.reply) ∧
        (s.mgmt.busy = none → w % 2 ^ 16 = 0 → ∀ j, op = some j → u.mgmt.busy = some j ∧ u.mgmt.block = u.mgmt.cmd) ∧
        (s.mgmt.busy = none → (w % 2 ^ 16 ≠ 0 ∨ op = none) → u.mgmt.busy = none ∧ u.mgmt.reply = replyBlock u.mgmt.cmd 1 [])))) ∧
  (∀ (s : State) (p : Nat) (v : Word) (x : Partition), p ≠ mgmtPage → s.part? p = some x → s.boot.ide = true →
    x.mbox.length = 64 → x.counters.length = 32 →
    let lands := fun (off : Nat) (ok : Partition → Prop) => ∃ u y, Does s (.registerWrite p off v) u ∧ u.part? p = some y ∧ ok y ∧ u.mem = s.mem ∧
      u.launches = s.launches ∧ u.fibres = s.fibres
    (∀ k, 1 ≤ k → k < 8 → lands (0x5000 + 4 * k) fun y => y = { x with mbox := setAt x.mbox k v }) ∧
    (∀ k, 8 ≤ k → k < 64 → k ≠ 17 → lands (0x5000 + 4 * k) fun y => y = x) ∧
    (lands 0x5044 fun y => y.mbox.getD 17 0 = v ∧ (y.events = [] ∨ mboxFull y = true) ∧
      ∃ sent, sent ++ y.events = x.events ∧ y.mbox.getD 16 0 = x.mbox.getD 16 0 + BitVec.ofNat 32 sent.length) ∧
    (x.dbgBusy ≠ none → lands 0x5000 fun y => y = x) ∧
    (x.dbgBusy = none → v.toNat % 2 ^ 16 = 0 → 1 ≤ v.toNat / 2 ^ 24 → v.toNat / 2 ^ 24 ≤ 0x0B → lands 0x5000 fun y =>
      y.dbgBusy = some (v.toNat / 2 ^ 24) ∧ y.dbgBegun = false ∧ y.dbgCmd = v :: (x.mbox.take 8).drop 1) ∧
    (∀ i, i < 24 → lands (0x5100 + 8 * i) (fun y => (y.counters.getD i 0).toNat =
        (x.counters.getD i 0).toNat / 2 ^ 32 * 2 ^ 32 + v.toNat ∧ ∀ j, j ≠ i → y.counters.getD j 0 = x.counters.getD j 0) ∧
      lands (0x5104 + 8 * i) fun y => (y.counters.getD i 0).toNat = v.toNat * 2 ^ 32 + (x.counters.getD i 0).toNat % 2 ^ 32) ∧
    (∀ k, k < 1024 → lands (0x6000 + 4 * k) fun y => y.xferWord k = v ∧ ∀ j, j ≠ k → y.xferWord j = x.xferWord j) ∧
    (answerOk v = false → lands 0x5300 fun y => y = { x with ansBad := true }) ∧
    (∀ n q, n < 256 → s.queue? n = some q → q.part = some p → ∃ u y, Does s (.registerWrite p (0x1000 + 64 * n + 8) v) u ∧ u.queue? n = some y ∧
      y.ring.toNat = q.ring.toNat / 2 ^ 32 * 2 ^ 32 + v.toNat / 4096 * 4096 ∧ u.parts = s.parts))

/-- The window and the ports: a host write waits for its boundary and then reaches memory and the journal; a host read returns stored or
earlier values, ones beyond the granules, and the words of the partition page, where what is reserved reads 0; in replay the traffic of
memory is held, a frame too; a frame for another device or out of order is discarded and counted, another one lands in its queue's ring
with a notify write; a residency report holds the partition's own numbers (R6, R138, R281, R285, R318, R320, R343, R344, R353, R354). That
a write-only word reads 0 is the model's choice. Where the spec does not decide it, the model's own choices hold: log entries 47, 48, 49
and 55. -/
def Obligations.WindowAndPorts : Prop :=
  (∀ (s : State) (p off : Nat) (bs : List Byte) (x : Partition) (g : Nat), s.part? p = some x → s.boot.ide = true →
    (∀ r, x.replay = some r → off < pageAt → off + bs.length ≤ pageAt → ∃ u y r', Does s (.hostWindowWrite p off bs) u ∧ u.part? p = some y ∧ y.replay = some r' ∧
      r'.held = r.held ++ [.write p off bs] ∧ u.mem = s.mem ∧ y.writes = x.writes) ∧
    (∀ k v, k < 2 ^ 13 → bs = toBytes 8 v → off = pageAt + 8 * k →
      Does s (.hostWindowWrite p off bs) { s with inbox := .page64 p (8 * k) (BitVec.ofNat 64 v) :: s.inbox }) ∧
    (∀ k v, k < 2 ^ 14 → bs = toBytes 4 v → off = pageAt + 4 * k →
      Does s (.hostWindowWrite p off bs) { s with inbox := .page p (4 * k) (BitVec.ofNat 32 v) :: s.inbox }) ∧
    (x.replay = none → x.granules[off / 2 ^ 30]? = some g → off < pageAt → off + bs.length ≤ pageAt → bs ≠ [] → off % 2 ^ 30 + bs.length ≤ 2 ^ 30 →
      ∃ u y, Does s (.hostWindowWrite p off bs) u ∧ u.part? p = some y ∧ u.mem = s.mem ∧
        y.writes = x.writes ++ [{ addr := g * 2 ^ 30 + off % 2 ^ 30, bytes := bs, stamp := x.notifies, boundary := none }])) ∧
  (∀ (s : State) (n : Nat) (p : Partition) (w : HostWrite), s.part? n = some p → p.writes.head? = some w → memWf s.mem = true →
    (s.writeReady p w = false → Waits s (.hostWriteTakesEffect n)) ∧
    (s.writeReady p w = true → p.stopped = false → p.journalFull (JRec.write w).size = false →
      ∃ u y, Does s (.hostWriteTakesEffect n) u ∧ u.part? n = some y ∧ y.writes = p.writes.tail ∧ y.journal = p.journal ++ [.write w] ∧
        memBytes u.mem w.addr w.bytes.length = w.bytes ∧
        ∀ a, (a < w.addr ∨ w.addr + w.bytes.length ≤ a) → memGet u.mem a = memGet s.mem a)) ∧
  (∀ (s : State) (p off len : Nat) (x : Partition), p ≠ mgmtPage → s.part? p = some x → s.boot.ide = true →
    (∀ r, x.replay = some r → off < pageAt → ∃ u y, Does s (.hostWindowRead p off len) u ∧ u.hostRead = s.hostRead ∧ u.part? p = some y ∧
      y.replay = some { r with held := r.held ++ [.read p off len] }) ∧
    (x.replay = none ∨ pageAt ≤ off → ∃ u, Does s (.hostWindowRead p off len) u ∧ u.mem = s.mem ∧ u.parts = s.parts ∧ u.hostRead.length = len ∧
      ∀ i, i < len → (pageAt ≤ off + i → off + i < 2 ^ 40 → u.hostRead[i]? = some (s.pageByte x (off + i - pageAt))) ∧
        (windowAddr x (off + i) = none → off + i < pageAt ∨ 2 ^ 40 ≤ off + i → u.hostRead[i]? = some 0xFF) ∧
        ∀ a, windowAddr x (off + i) = some a → ∃ b, u.hostRead[i]? = some b ∧
          (b = memGet s.mem a ∨ ∃ l ∈ s.launches, l.part = x.id ∧ (a, b) ∈ l.old))) ∧
  (∀ (s : State) (p : Partition) (o : Nat),
    ((0x51C0 ≤ o ∧ o < 0x5200) ∨ (0x52A0 ≤ o ∧ o < 0x5304) ∨ (0x5305 ≤ o ∧ o < 0x6000) ∨ 0x7000 ≤ o → s.pageByte p o = 0) ∧
    (∀ n k, n < 256 → k < 64 → o = 0x1000 + 64 * n + k →
      (∀ q, s.queue? n = some q → q.part = some p.id → s.pageByte p o = byteOf q.bits k) ∧
      ((∀ q, s.queue? n = some q → q.part ≠ some p.id) → s.pageByte p o = 0)) ∧
    (∀ n k, n < 24 → k < 8 → o = 0x5100 + 8 * n + k → s.pageByte p o = byteOf (p.counters.getD n 0).toNat k)) ∧
  (∀ (s : State) (off len : Nat), ∃ u, Does s (.hostWindowRead mgmtPage off len) u ∧ { u with hostRead := s.hostRead } = s ∧ u.hostRead.length = len ∧
    ∀ i, i < len → u.hostRead[i]? = some (s.mgmtByte (off + i))) ∧
  (∀ (s : State) (link : Nat) (frame : List Byte) (x : Port) (n : Nat) (p : Partition), s.ports.find? (fun x => x.link = link) = some x →
    x.part = some n → s.part? n = some p → let h := ofBytes (frame.take 64)
    (∀ r, p.replay = some r → ∃ u y, Does s (.forwardFrame link frame) u ∧ u.mem = s.mem ∧ u.ports = s.ports ∧ u.queues = s.queues ∧
      u.part? n = some y ∧ y.replay = some { r with held := r.held ++ [.frame link frame] } ∧ y.notifies = p.notifies) ∧
    (p.replay = none → s.frameBad x h frame = true → Does s (.forwardFrame link frame) (s.count n 20 1)) ∧
    (p.replay = none → s.frameBad x h frame = false → ∃ u y, Does s (.forwardFrame link frame) u ∧ u.mem = s.mem ∧
      u.ports.find? (fun x => x.link = link) = some { x with fseq := (x.fseq + 1) % 2 ^ 48 } ∧ u.part? n = some y ∧ y.notifies = p.notifies + 1)) ∧
  (∀ (s : State) (link n : Nat) (x : Port) (p : Partition), s.ports.find? (fun x => x.link = link) = some x → x.part = some n → s.part? n = some p →
    (s.residency p).length = 64 ∧ ∃ u, Does s (.residencyReport link) u ∧ u.parts = s.parts ∧ u.mem = s.mem ∧
      u.ports.find? (fun x => x.link = link) = some { x with report := false, out := x.out ++ [s.residency p] })

/-- Attach, halt, resume and detach: a named workgroup's running fibres stop where they stand, and run on unchecked from a debug stop;
detaching clears every breakpoint and lets every workgroup run; without a debugger a command answers 4, and to a workgroup that is not
halted a resume answers 2. A halt is complete when every fibre has stopped (R331, R334, R335, R365). Where the spec does not decide it,
the model's own choices hold: log entries 51, 52 and 54. -/
def Obligations.DebuggerHalts : Prop :=
  (∀ (s : State) (p : Partition), DbgAsked s 0x01 p → ∃ u y, DbgAnswers s u (.dbgAttach p.id) p 0 ∧ u.part? p.id = some y ∧ y.attached = true ∧
    u.fibres = s.fibres ∧ u.mem = s.mem) ∧
  (∀ (s : State) (p : Partition), DbgAsked s 0x02 p →
    (p.attached = false → DbgRejects s (.dbgDetach p.id) p 4) ∧
    (p.attached = true → ∃ u y, DbgAnswers s u (.dbgDetach p.id) p 0 ∧ u.part? p.id = some y ∧ y.attached = false ∧ y.brks = [] ∧ y.watches = [] ∧
      u.mem = s.mem ∧ ∀ x ∈ s.partWgs p.id, ∀ w ∈ u.wgs, w.ref = x.ref → (∀ v ∈ s.wgs, v.ref = x.ref → v = x) → w.halt = .none)) ∧
  (∀ (s : State) (p : Partition) (l : Launch) (w : Workgroup), DbgAsked s 0x03 p → DbgNames s p l w →
    (p.attached = false → DbgRejects s (.dbgHalt p.id) p 4) ∧
    (p.attached = true → w.halt = .none → ∃ u, DbgAnswers s u (.dbgHalt p.id) p 0 ∧ u.wg? w.ref = some { w with halt := .halting none } ∧
      u.mem = s.mem ∧ ∀ r f, s.fibre? r = some f →
        u.fibre? r = some (if f.ref.wref = w.ref ∧ f.running = true then { f with halted := true } else f)) ∧
    (p.attached = true → w.halt ≠ .none → DbgRejects s (.dbgHalt p.id) p 0)) ∧
  (∀ (s : State) (p : Partition) (l : Launch) (w : Workgroup), DbgAsked s 0x04 p → DbgNames s p l w →
    (p.attached = false → DbgRejects s (.dbgResume p.id) p 4) ∧
    (p.attached = true → w.halt ≠ .halted → DbgRejects s (.dbgResume p.id) p 2) ∧
    (p.attached = true → w.halt = .halted → ∃ u, DbgAnswers s u (.dbgResume p.id) p 0 ∧ u.wg? w.ref = some { w with halt := .none } ∧ u.mem = s.mem ∧
      ∀ r e, s.env? r = some e → r.wref = w.ref →
        ((∀ q k, e.f.st ≠ .parked q k) → u.fibre? r = some { e.f with halted := false }) ∧
        ∀ q k, e.f.st = .parked q k →
          (q.code < 0x18 → u.fibre? r = some { e.f with halted := false }) ∧
          (0x1A ≤ q.code → ∃ st, u.fibre? r = some { e.f with halted := false, suppress := true, st := st } ∧
            st = if e.f.words.length ≤ e.f.widx then .enter else .run))) ∧
  (∀ (s : State) (r : WRef) (w : Workgroup) (l : Launch) (c : Option Nat), s.wg? r = some w → s.launch? r.launch = some l → w.halt = .halting c →
    ((∃ f ∈ s.wgFibres r, s.stoppedAt c f = false) → Waits s (.workgroupHaltComplete r)) ∧
    ((∀ f ∈ s.wgFibres r, s.stoppedAt c f = true) → ∃ u, Does s (.workgroupHaltComplete r) u ∧ u.wg? r = some { w with halt := .halted } ∧
      u.mem = s.mem ∧ ∀ q f, s.fibre? q = some f → (f.unreported = false ∨ q.wref ≠ r → u.fibre? q = some f) ∧
        ∀ rc, q.wref = r → f.unreported = true → f.st = .parked rc .no → u.fibre? q = some { f with st := .parked rc .event }))

/-- Single steps, breakpoints, watchpoints and a fibre's registers: a step runs one instruction of a halted fibre unchecked, is answered 5
where the instruction waits, and the fibre then stops with code 0x1C, or 0x1A at a breakpoint; a step and a breakpoint make the
partition's fibres leave residual code; a fibre's record and registers are read out and written back whole; the stall sampler takes the
next occupied slot (R258, R307, R331, R336 to R340, R348). Where the spec does not decide it, the model's own choices hold: log entries
46, 51, 53, 56 and 57. -/
def Obligations.DebuggerSteps : Prop :=
  (∀ (s : State) (p : Partition) (e : Env), DbgAsked s 0x05 p → p.attached = true → DbgNamesFibre s p e →
    (e.w.halt ≠ .halted → DbgRejects s (.dbgStep p.id) p 2) ∧
    (e.w.halt = .halted → (∀ q k, e.f.st ≠ .parked q k) → ∃ u y, exec (.dbgStep p.id) s = .next u ∧ u.part? p.id = some y ∧ y.dbgBusy = some 0x05 ∧
      y.dbgBegun = true ∧ u.mem = s.mem ∧ u.fibre? e.f.ref = some { e.f with
        halted := false, suppress := true, stepping := .armed, held := none, leaving := e.f.form.isSome } ∧
      ∀ r f l, s.fibre? r = some f → s.launch? r.wref.launch = some l → l.part = p.id → f.form ≠ none → ∃ g, u.fibre? r = some g ∧ g.leaving = true)) ∧
  (∀ (s : State) (p : Partition) (l : Launch) (f : Fibre), s.part? p.id = some p → p.dbgBusy = some 0x05 → p.dbgBegun = true →
    s.launch? ⟨p.dbgArg 0 % 256, p.dbgArg 1⟩ = some l → s.fibre? ⟨⟨l.ref, p.dbgArg 2⟩, p.dbgArg 3 % l.warps, p.dbgArg 4⟩ = some f →
    (f.stepping = .off → DbgRejects s (.dbgStep p.id) p 0) ∧
    (∀ q k, f.stepping ≠ .off → f.st = .parked q k → q.code = 1 → DbgRejects s (.dbgStep p.id) p 5) ∧
    (f.stepping ≠ .off → (∀ q k, f.st ≠ .parked q k) →
      (s.fibreCanAct f = true → Waits s (.dbgStep p.id)) ∧ (s.fibreCanAct f = false → DbgRejects s (.dbgStep p.id) p 5))) ∧
  (∀ (s : State) (r : FRef) (e : Env), s.env? r = some e → e.f.stepping = .moving → e.f.st = .run →
    ∃ u rc k, Does s (.dbgStepComplete r) u ∧ u.fibre? r = some { e.f with stepping := .off, suppress := false, st := .parked rc k } ∧ u.mem = s.mem ∧
      (s.brkAt e.l e.f = none → rc.code = 0x1C) ∧ ∀ n, s.brkAt e.l e.f = some n → rc.code = 0x1A ∧ rc.info = BitVec.ofNat 64 n) ∧
  (∀ (s : State) (p : Partition), DbgAsked s 0x06 p → let a := p.dbgArg 3 + p.dbgArg 4 * 2 ^ 32
    (a % 4 ≠ 0 ∨ 2 ^ 57 ≤ a → DbgRejects s (.dbgSetBreakpoint p.id) p 1) ∧
    (a % 4 = 0 → a < 2 ^ 57 → p.attached = true → ∃ u y, DbgAnswers s u (.dbgSetBreakpoint p.id) p 0 ∧ u.part? p.id = some y ∧
      (∀ b, b ∈ y.brks ↔ (b = ⟨p.dbgArg 2 % 8, a, BitVec.ofNat 32 (p.dbgArg 5)⟩ ∨ (b ∈ p.brks ∧ b.n ≠ p.dbgArg 2 % 8))) ∧ u.launches = s.launches ∧
      ∀ r f, s.fibre? r = some f → ∃ g, u.fibre? r = some g ∧ { g with leaving := f.leaving } = f ∧
        ∀ l, s.launch? r.wref.launch = some l → l.part = p.id → f.form ≠ none → g.leaving = true)) ∧
  (∀ (s : State) (p : Partition), DbgAsked s 0x07 p → p.attached = true → ∃ u y, DbgAnswers s u (.dbgClearBreakpoint p.id) p 0 ∧
    u.part? p.id = some y ∧ (∀ b, b ∈ y.brks ↔ (b ∈ p.brks ∧ b.n ≠ p.dbgArg 2 % 8)) ∧ u.fibres = s.fibres) ∧
  (∀ (s : State) (p : Partition), DbgAsked s 0x08 p → let k := p.dbgArg 2 / 2 ^ 4 % 2 ^ 2
    (k = 0 ∨ p.dbgArg 4 = 0 ∨ 2 ^ 20 < p.dbgArg 4 → DbgRejects s (.dbgSetWatchpoint p.id) p 1) ∧
    (k ≠ 0 → p.dbgArg 4 ≠ 0 → p.dbgArg 4 ≤ 2 ^ 20 → p.attached = true → ∃ u y, DbgAnswers s u (.dbgSetWatchpoint p.id) p 0 ∧ u.part? p.id = some y ∧
      (∀ b, b ∈ y.watches ↔ (b = ⟨p.dbgArg 2 % 4, decide (k % 2 = 1), decide (2 ≤ k), p.dbgArg 3, p.dbgArg 4, BitVec.ofNat 32 (p.dbgArg 5),
        if p.dbgArg 6 = 0xFFFFFFFF then none else some (p.dbgArg 6)⟩ ∨ (b ∈ p.watches ∧ b.n ≠ p.dbgArg 2 % 4))) ∧ u.fibres = s.fibres)) ∧
  (∀ (s : State) (p : Partition), DbgAsked s 0x09 p → p.attached = true → ∃ u y, DbgAnswers s u (.dbgClearWatchpoint p.id) p 0 ∧
    u.part? p.id = some y ∧ (∀ b, b ∈ y.watches ↔ (b ∈ p.watches ∧ b.n ≠ p.dbgArg 2 % 4)) ∧ u.fibres = s.fibres) ∧
  (∀ (s : State) (p : Partition) (e : Env), DbgAsked s 0x0A p → p.attached = true → DbgNamesFibre s p e → p.dbgArg 5 = 0 → p.dbgArg 6 = 0 →
    (e.w.halt ≠ .halted → DbgRejects s (.dbgReadFibre p.id) p 2) ∧
    (e.w.halt = .halted → ∃ u y, DbgAnswers s u (.dbgReadFibre p.id) p 0 ∧ u.part? p.id = some y ∧ u.fibres = s.fibres ∧
      (∀ k, k < 64 → y.xferWord k = BitVec.ofNat 32 (fibreBits e.l e.f / 2 ^ (32 * k))) ∧
      ∀ k, k < e.f.regs.length → y.xferWord (64 + k) = e.f.regs.getD k 0)) ∧
  (∀ (s : State) (p : Partition) (e : Env), DbgAsked s 0x0B p → p.attached = true → DbgNamesFibre s p e → p.dbgArg 5 = 0 → p.dbgArg 6 = 0 →
    (recordBad p.xferRecord = true → DbgRejects s (.dbgWriteFibre p.id) p 1) ∧
    (recordBad p.xferRecord = false → e.w.halt = .halted → ∃ u f, DbgAnswers s u (.dbgWriteFibre p.id) p 0 ∧ u.fibre? e.f.ref = some f ∧ u.mem = s.mem ∧
      let n := p.xferRecord
      f.wbase = n / 2 ^ 1355 % 2 ^ 8 ∧ f.seed = BitVec.ofNat 32 (n / 2 ^ 1307) ∧ f.fflags = BitVec.ofNat 6 (n / 2 ^ 1301) ∧
      (∀ k, k < e.f.regs.length → f.regs.getD k 0 = p.xferWord (64 + k)) ∧ f.preds.getLsbD 0 = true ∧ f.preds.getLsbD 1 = false ∧
      (∀ i, 2 ≤ i → i < 16 → f.preds.getLsbD i = (n / 2 ^ (1339 + i) % 2 == 1)) ∧
      (∀ i, i < 8 → ∃ b, f.bregs[i]? = some b ∧ b.target = BitVec.ofNat 57 (n / 2 ^ (1536 + 64 * i))) ∧
      f.clk = e.f.clk ∧ f.view = e.f.view ∧ f.pc = e.f.pc ∧ f.widx = e.f.widx ∧ f.st = e.f.st ∧ f.pend = e.f.pend)) ∧
  (∀ (s : State) (n k slot : Nat) (p : Partition), s.part? n = some p →
    nextSlot ((s.onCore n k).flatMap fun x => (s.warps.filter fun v => v.wref = x.2.ref ∧ (s.warpFibres v.wref v.j) ≠ []).map (·.slot))
      (((p.rot.find? fun x => x.1 = k).map (·.2)).getD 47) = some slot →
    ∃ u y, Does s (.stallSample n k) u ∧ u.part? n = some y ∧ y.rot.find? (fun x => x.1 = k) = some (k, slot) ∧ u.fibres = s.fibres ∧
      u.launches = s.launches) ∧
  (∀ (used : List Nat) (last n : Nat), last < 48 → nextSlot used last = some n → n ∈ used ∧ n < 48 ∧
    ∀ m ∈ used, m < 48 → (n + 47 - last) % 48 ≤ (m + 47 - last) % 48)

/-! ## Errors and recovery (R249, R309 to R313, R317 to R320, R327 to R329) -/

/-- Errors are counted by window; the fourth corrected error of one is lasting and fences without rollback; the first uncorrectable error
rolls the affected partitions back, the second fences besides; lost permits, which are reset, a failed firmware processor, which is
restarted, a hot die and the root-of-trust core, which checks every released image, roll back too, and the last ends them all at its
second fault (R249, R309 to R313, R327 to R329). Where the spec does not decide it, the model's own choices hold: log entries 7 and 42. -/
def Obligations.ErrorsAreJudged : Prop :=
  (∀ (s : State) (x : UnitId), ∃ u, Does s (.errorWindowStart x) u ∧ u.errOf x = ⟨x, (s.errOf x).window + 1, 0, 0⟩ ∧ u.mgmt = s.mgmt ∧
    u.parts = s.parts ∧ ∀ y, y ≠ x → u.errOf y = s.errOf y) ∧
  (∀ (s : State) (x : UnitId), ∃ u, Does s (.correctedError x) u ∧
    u.errOf x = { s.errOf x with corr := (s.errOf x).corr + 1 } ∧ u.launches = s.launches ∧ u.parts = s.parts ∧
    ((s.errOf x).corr ≠ 3 → u.mgmt = s.mgmt) ∧
    ((s.errOf x).corr = 3 → ∃ d, Decides s u d ∧ d.record.event = 1 ∧ d.record.corr = 4 ∧ d.fences = (if x.utype ≤ 5 then [x] else []) ∧
      d.rollbacks = [] ∧ d.deads = [])) ∧
  (∀ (s : State) (x : UnitId), x.utype ≠ 6 → ∃ u d, Does s (.uncorrectableError x) u ∧ Decides s u d ∧ d.rollbacks = s.affected x ∧
    d.deads = [] ∧ u.errOf x = { s.errOf x with unc := (s.errOf x).unc + 1 } ∧
    ((s.errOf x).unc = 0 → d.fences = [] ∧ d.record.event = 2) ∧
    ((s.errOf x).unc ≠ 0 → d.fences = (if x.utype ≤ 5 then [x] else []) ∧ d.record.event = 3)) ∧
  (∀ (s : State) (i : Instr), (i = .rootOfTrustFault ∨ ∃ k n, i = .uncorrectableError ⟨6, k, n⟩) → ∃ u d, Does s i u ∧ Decides s u d ∧ d.fences = [] ∧
    (∀ k, k ∈ u.boot.restarts ↔ k ∈ s.boot.restarts ∨
      (k < 9 ∧ imageOf k < s.boot.digests.length ∧ toBytes 32 (Config.measured s.tick k).toNat ≠ s.boot.digests.getD (imageOf k) [])) ∧
    ((s.errOf ⟨6, 0, 0⟩).unc = 0 → d.rollbacks = s.parts.map (·.id) ∧ d.deads = [] ∧ u.rotDead = s.rotDead) ∧
    ((s.errOf ⟨6, 0, 0⟩).unc ≠ 0 → d.rollbacks = [] ∧ d.deads = s.parts.map (·.id) ∧ u.rotDead = true)) ∧
  (∀ k, (k ≤ 3 → imageOf k = k) ∧ (4 ≤ k → k ≤ 7 → imageOf k = 4) ∧ (k = 8 → imageOf k = 5)) ∧
  (∀ (s : State) (n : Nat), ∃ u d, Does s (.watchdogFailure n) u ∧ Decides s u d ∧ d.rollbacks = s.affected ⟨5, n, 0⟩ ∧ d.fences = [] ∧
    d.record.event = 6 ∧ u.boot.restarts = n :: s.boot.restarts) ∧
  (∀ (s : State) (link a b c : Nat),
    (a + b + c = Config.permitTotal link → Does s (.permitAudit link a b c) (s.setPermits link a)) ∧
    (a + b + c ≠ Config.permitTotal link → ∃ u d, Does s (.permitAudit link a b c) u ∧ Decides s u d ∧ d.rollbacks = s.affected ⟨3, link, 0⟩ ∧
      d.fences = [] ∧ d.record.event = 4 ∧ u.permits.find? (fun x => x.1 = link) = some (link, Config.permitTotal link))) ∧
  (∀ (s : State) (n : Nat) (d : Die), s.dies[n]? = some d →
    (∃ u x, Does s (.criticalThermalLimit n) u ∧ Decides s u x ∧ u.dies[n]? = some { d with critical := true, waiting := true } ∧ x.fences = [] ∧
      (∀ p ∈ s.parts, (∃ q ∈ p.quads, q / 16 = n) → p.id ∈ x.rollbacks)) ∧
    ∃ u, Does s (.thermalWarning n) u ∧ u.dies[n]? = some { d with warning := true } ∧ u.parts = s.parts ∧ u.launches = s.launches ∧ u.mgmt = s.mgmt)

/-- A decision takes effect once its record is posted at `HEAD` of the health ring; a fence then takes its unit out of service when
nothing addressed in it still runs, and a rollback, its fences made and no die waiting, puts the partition back to its newest snapshot and
replays; replay ends when every queue has reached its high-water point and the last tables stand (R284, R312, R317, R319, R320, R327,
R346). Where the spec does not decide it, the model's own choices hold: log entries 39, 41, 42, 43 and 48. -/
def Obligations.DecisionsTakeEffect : Prop :=
  (∀ (s : State) (d : Decision), s.mgmt.held.head? = some d →
    (1024 ≤ (s.mgmt.head - s.mgmt.tail).toNat → Waits s .healthRecordPost) ∧
    ((s.mgmt.head - s.mgmt.tail).toNat < 1024 → ∃ u, Does s .healthRecordPost u ∧ u.mgmt.held = s.mgmt.held.tail ∧ u.mgmt.head = s.mgmt.head + 1 ∧
      u.mgmt.health.find? (fun x => x.1 = s.mgmt.head.toNat % 1024) = some (s.mgmt.head.toNat % 1024, d.record) ∧
      u.mgmt.toFence = s.mgmt.toFence ++ d.fences ∧ u.mgmt.toRoll = s.mgmt.toRoll ++ d.rollbacks ∧
      ∀ n ∈ d.deads, ∀ y, u.part? n = some y → y.dead = true)) ∧
  (∀ (s : State) (x : UnitId), x ∈ s.mgmt.toFence →
    (s.fenceWaits x = true → Waits s (.fence x)) ∧
    (s.fenceWaits x = false → ∃ u, Does s (.fence x) u ∧ x ∉ u.mgmt.toFence ∧ u.mem = s.mem ∧
      (x.utype ≠ 5 → u.fenced = x :: s.fenced) ∧
      (x.utype = 5 → u.fenced = s.fenced ∧ u.parts = s.parts ∧ u.boot = { s.boot with restarts := x.unit :: s.boot.restarts }) ∧
      (x.utype = 2 → 2 * x.unit ∈ u.retired ∧ 2 * x.unit + 1 ∈ u.retired ∧ ∀ n p, s.part? n = some p → let gs := [2 * x.unit, 2 * x.unit + 1]
        ∃ y, u.part? n = some y ∧ y.granules = p.granules ∧ y.slots = p.slots ∧
          (p.stopped = false → y.owed = p.owed ∧ y.snaps = p.snaps) ∧
          (p.stopped = true → y.owed = p.owed ++ (p.granules ++ p.slots).filter gs.contains ∧
            ∀ z ∈ y.snaps, z ∈ p.snaps ∧ (z.slot < 2 → ∀ k ∈ p.slot z.slot, k ∉ gs))))) ∧
  (∀ (s : State) (n : Nat) (p : Partition), s.part? n = some p →
    (n ∉ s.mgmt.toRoll ∨ p.stopped = false ∨ p.dead = true ∨ p.snapLost = true ∨ s.ruling n = true → Waits s (.rollback n)) ∧
    (n ∈ s.mgmt.toRoll → p.stopped = true → p.dead = false → p.snapLost = false → s.ruling n = false → (∀ x ∈ s.mgmt.toFence, n ∉ s.affected x) → s.dieWaits p = false →
      p.owed = [] →
      ∃ u y, Does s (.rollback n) u ∧ n ∉ u.mgmt.toRoll ∧ u.part? n = some y ∧ y.stopped = false ∧ y.replay ≠ none ∧ y.order = [] ∧
        y.replaced = [] ∧ y.accs = p.accs - p.order.length ∧
        ∀ x, p.replaced = [] → p.newest = some x → memWf s.mem = true → memWf x.mem = true → (∀ c ∈ x.mem, ownsAddr p c.1 = true) →
          (∀ a, memGet u.mem a = if ownsAddr p a then memGet x.mem a else memGet s.mem a) ∧
          ∀ i q v w, x.queues.find? (fun y => y.1 = i) = some (i, v, w) → s.queue? i = some q → q.part = some p.id →
            ∃ z, u.queue? i = some z ∧ z.nextSeq = v ∧ z.doneSeq = w ∧ z.packet = none ∧ z.shown = some q.shownDone)) ∧
  (∀ (s : State) (n : Nat) (p : Partition) (r : Replay), s.part? n = some p → p.replay = some r →
    ((∃ h ∈ r.high, ∃ q, s.queue? h.1 = some q ∧ 2 ^ 31 ≤ (q.nextSeq - h.2).toNat) → Waits s (.replayComplete n)) ∧
    (s.tablesWait p = true → Waits s (.replayComplete n)) ∧
    ((∀ h ∈ r.high, ∃ q, s.queue? h.1 = some q ∧ (q.nextSeq - h.2).toNat < 2 ^ 31) → (∀ c ∈ r.gone, s.ctxRuns n c = false) → s.tablesWait p = false →
      (∀ t, (s.replayTables p).part? n = some t → ∃ u, Does s (.replayComplete n) u ∧ u.inbox = r.held ++ s.inbox ∧ u.mem = (s.replayTables p).mem ∧
        u.part? n = some { t with replay := none, ctxs := t.ctxs.filter fun c => !r.gone.contains c.id }) ∧
      ((∀ x ∈ r.recs, x.isTableOf (p.accs + 1) = false) → ∃ u, Does s (.replayComplete n) u ∧ u.inbox = r.held ++ s.inbox ∧ u.mem = s.mem ∧
        u.part? n = some { p with replay := none, ctxs := p.ctxs.filter fun c => !r.gone.contains c.id })))

/-! ## Frames: what a word leaves as it was -/

/-- Words of a fibre's own registers change nothing else when they go on, wait or park: no memory, scratchpad, uniform register or other
fibre, of the vector registers only the destination, of the predicates only the word's own, of the flags only those that the word may set,
and of the rounding mode and the seed only what the word writes (R17, R65, R83 to R91, R99 to R101, R289, R298). Where the spec does not
decide it, the model's own choices hold: log entries 9 and 12. -/
def Obligations.FrameOfRegisterWords : Prop :=
  ∀ (s t : State) (e : Env) (d a b g i : Nat) (lit : Word) (w : Instr), s.env? s.cur = some e → exec w s = .next t →
    (w ∈ [Instr.add d a b g, .sub d a b g, .mul d a b g, .mulh d a b g, .mulhu d a b g, .mad d a b g, .and d a b g, .or d a b g, .xor d a b g,
        .shl d a b g, .shr d a b g, .sar d a b g, .min d a b g, .max d a b g, .minu d a b g, .maxu d a b g, .abs d a g, .neg d a g, .clz d a g,
        .popc d a g, .brev d a g, .bfe d a b g, .bfi d a b g, .sel d a b i, .mov d a g, .dp4a d a b g, .addi d a i, .andi d a i, .ori d a i,
        .xori d a i, .shli d a i, .shri d a i, .sari d a i, .muli d a i, .movi d i, .li d g lit, .pget d g,
        .rdsr d i, .movs d a g, .dbgm d a g] →
      OnlyFibre s t e fun f => e.f.keeps f [d] ∧ f.preds = e.f.preds ∧ f.fflags = e.f.fflags) ∧
    (w ∈ [Instr.addw d a b g, .subw d a b g, .shlw d a b g, .addwi d a i] →
      OnlyFibre s t e fun f => e.f.keeps f [d, d + 1] ∧ f.preds = e.f.preds ∧ f.fflags = e.f.fflags) ∧
    (w ∈ [Instr.adds d a b g, .subs d a b g, .fadd d a b g, .fsub d a b g, .fmul d a b g, .ffma d a b g, .ffms d a b g, .fmin d a b g,
        .fmax d a b g, .fabs d a g, .fneg d a g, .frnd d a g, .fcls d a g, .fscl d a b g, .hadd2 d a b g, .hmul2 d a b g, .hfma2 d a b g,
        .badd2 d a b g, .bmul2 d a b g, .bfma2 d a b g, .dp2h d a b g, .dp2b d a b g, .cvtfi d a g, .cvtfu d a g, .cvtif d a g, .cvtuf d a g,
        .cvth d a b g, .cvthl d a g, .cvthh d a g, .cvtb d a b g, .cvtbl d a g, .cvtbh d a g, .cvte4 d a b g, .cvte4f d a g, .cvte5 d a b g,
        .cvte5f d a g] →
      OnlyFibre s t e fun f => e.f.keeps f [d] ∧ f.preds = e.f.preds ∧ f.fflags &&& e.f.fflags = e.f.fflags) ∧
    (w ∈ [Instr.div d a b g, .divu d a b g, .rem d a b g, .remu d a b g, .fdiv d a b g, .fsqrt d a g, .frcp d a g, .frsq d a g, .fex2 d a g,
        .flg2 d a g] → OnlyFibre s t e fun f => e.f.keeps f [] ∧ f.preds = e.f.preds ∧ f.fflags &&& e.f.fflags = e.f.fflags) ∧
    (w ∈ [Instr.icmpEq d a b g, .icmpNe d a b g, .icmpLt d a b g, .icmpLe d a b g, .icmpLtu d a b g, .icmpLeu d a b g, .icmpiEq d a i, .icmpiNe d a i,
        .icmpiLt d a i, .icmpiLe d a i, .icmpiLtu d a i, .icmpiLeu d a i, .fcmpEq d a b g, .fcmpLt d a b g, .fcmpLe d a b g, .fcmpUn d a b g] →
      OnlyFibre s t e fun f => e.f.keeps f [] ∧ (∀ k, k ≠ d → k ≠ d + 1 → f.preds.getLsbD k = e.f.preds.getLsbD k) ∧
        f.fflags &&& e.f.fflags = e.f.fflags) ∧
    (w ∈ [Instr.pand d a b g, .por d a b g, .pxor d a b g, .pandn d a b g] →
      OnlyFibre s t e fun f => e.f.keeps f [] ∧ (∀ k, k ≠ d → f.preds.getLsbD k = e.f.preds.getLsbD k) ∧ f.fflags = e.f.fflags) ∧
    (w = .pset d i → OnlyFibre s t e fun f => e.f.keeps f [] ∧ (∀ k, k ≠ d → f.preds.getLsbD k = e.f.preds.getLsbD k) ∧ f.fflags = e.f.fflags) ∧
    (w = .pput a g → OnlyFibre s t e fun f => e.f.keeps f [] ∧ f.fflags = e.f.fflags) ∧
    (w = .setrm i → OnlyFibre s t e fun f => e.f.keeps { f with rmode := e.f.rmode } [] ∧ f.preds = e.f.preds ∧ f.fflags = e.f.fflags) ∧
    (w = .wrsr a i → OnlyFibre s t e fun f => e.f.keeps { f with rmode := e.f.rmode, seed := e.f.seed } [] ∧ f.preds = e.f.preds ∧
      (i ≠ 12 → f.fflags = e.f.fflags) ∧ (i ≠ 13 → f.rmode = e.f.rmode) ∧ (i = 12 ∨ i = 13 → f.seed = e.f.seed))

/-- Loads and stores: a load changes no byte of memory and no register when it issues; a store changes no register of any fibre, and of
memory, scratchpads and descriptor tables only the bytes at the locations of its address, which is the pair plus the immediate, or the
uniform pair plus the scaled index (R137, R141, R157, R161 to R163, R289). Where the spec does not decide it, the model's own choices
hold: log entries 9 and 16. -/
def Obligations.FrameOfMemoryWords : Prop :=
  (∀ (s t : State) (e : Env) (d a b g i : Nat) (w : Instr), s.env? s.cur = some e → exec w s = .next t →
    w ∈ [Instr.ldb d a i, .ldsb d a i, .ldh d a i, .ldsh d a i, .ldw d a i, .ldd d a i, .ldq d a i, .ldbx d a b g, .ldhx d a b g, .ldwx d a b g,
      .lddx d a b g, .pf a i] →
    RegistersStay s t ∧ t.warps = s.warps ∧ t.mem = s.mem ∧ ∀ l x, t.baseByte l x = s.baseByte l x) ∧
  (∀ (s t : State) (e : Env) (d a b g i n : Nat) (w : Instr) (ea : BitVec 64), s.env? s.cur = some e → s.memOk = true → i < 1024 →
    exec w s = .next t →
    (((w, n) ∈ [(Instr.stb d a i, 1), (.sth d a i, 2), (.stw d a i, 4), (.std d a i, 8), (.stq d a i, 16)] ∧
        ea = BitVec.ofInt 64 ((e.f.val2 a).toNat + (BitVec.ofNat 10 i).toInt)) ∨
      ((w, n) ∈ [(Instr.stbx d a b g, 1), (.sthx d a b g, 2), (.stwx d a b g, 4), (.stdx d a b g, 8)] ∧
        ea = BitVec.ofNat 64 ((sget2 e.p a).toNat + (e.f.val b).toNat * n))) →
    RegistersStay s t ∧ t.warps = s.warps ∧
    (∀ acc, s.access e ea n n .store = .ok acc → ∀ l x, x ∉ acc.locs → t.baseByte l x = s.baseByte l x) ∧
    ((∀ acc, s.access e ea n n .store ≠ .ok acc) → t.mem = s.mem ∧ ∀ l x, t.baseByte l x = s.baseByte l x))

/-- Words that command another unit, wait or arrive change no vector, predicate, branch-target or uniform register and no byte of memory
themselves; a control word changes only its branch targets, its window and its next clause, a lane word only its destination in the fibres
of its scope, `ph` only dead registers, `halt` only its own fibre, and a uniform word only its destination among the uniform registers of
one warp (R92 to R97, R112, R128, R171, R182, R189, R193, R201, R213 to R220, R222, R300). Where the spec does not decide it, the model's
own choices hold: log entries 15 and 18. -/
def Obligations.FrameOfCommandWords : Prop :=
  (∀ (s t : State) (w : Instr) (d a b g i m n db sba aux : Nat), exec w s = .next t →
    w ∈ [Instr.nop g, .clk i, .bar i, .arv i, .bwait i, .cede g, .turn g, .waitne a b g, .mmf d a db m i n sba aux b, .mmt d a db m i n sba aux b,
      .mzero d g, .mld d a i, .mst d a i, .mcommit g, .mwait i, .mscale d a g, .pf a i, .pin a b g, .unpin a b g, .amoadd d a b g, .amocas d a b g,
      .amofadd d a b g, .amoaddw d a b g, .amomin d a b g, .amomax d a b g, .amominu d a b g, .amomaxu d a b g, .amoand d a b g, .amoor d a b g,
      .amoxor d a b g, .amoxchg d a b g, .amofmin d a b g, .amofmax d a b g, .mrd d a b g, .mwr d a b g, .fork d g a, .wsync g, .cpy a b m g db sba aux n, .cpyr a b m g db sba aux n, .gath a b m g db sba aux n,
      .scat a b m g db sba aux n, .sbinit a b g, .sbexp a b g, .sbarv a b g, .sbwait a b g, .dset a i, .wdset a g, .wdq a b g, .hopen a b g,
      .hpush d a b g, .hclose a g, .hnext d a g, .hdone a b g, .hsync a g, .icinv a b g, .trap i, .brk g] →
    RegistersStay s t ∧ t.warps = s.warps ∧ t.mem = s.mem) ∧
  (∀ (s t : State) (w : Instr) (d a b g i : Nat) (lit : Word), exec w s = .next t →
    w ∈ [Instr.uadd d a b g, .usub d a b g, .umul d a b g, .uand d a b g, .uor d a b g, .uxor d a b g, .ushl d a b g, .ushr d a b g, .umov d a g,
      .uget d a b g, .uaddi d a i, .uli d g lit, .uldw d a i, .ballot d a g, .redadd d a g, .redmin d a g, .redmax d a g] →
    RegistersStay s t ∧ t.mem = s.mem ∧ t.wgs = s.wgs ∧
    ∀ r j v, s.warp? r j = some v → ∃ v', t.warp? r j = some v' ∧ (∀ k, k ≠ d → v'.sregs.getD k 0 = v.sregs.getD k 0) ∧
      (r ≠ s.cur.wref ∨ j ≠ s.cur.warp → v' = v)) ∧
  (∀ (s t : State) (w : Instr) (d a b g i : Nat), exec w s = .next t → w ∈ [Instr.uaddw d a b g, .uldd d a i] →
    RegistersStay s t ∧ t.mem = s.mem ∧ t.wgs = s.wgs ∧
    ∀ r j v, s.warp? r j = some v → ∃ v', t.warp? r j = some v' ∧ (∀ k, k ≠ d → k ≠ d + 1 → v'.sregs.getD k 0 = v.sregs.getD k 0) ∧
      (r ≠ s.cur.wref ∨ j ≠ s.cur.warp → v' = v)) ∧
  (∀ (s t : State) (w : Instr) (d a b g : Nat), exec w s = .next t →
    w ∈ [Instr.shfl d a b g, .shflx d a b g, .bcast d a b g, .lid d g, .scanadd d a g, .voteany d a g, .voteall d a g, .electw d g, .elect d g] →
    t.mem = s.mem ∧ t.wgs = s.wgs ∧ t.warps = s.warps ∧
    ∀ q f, s.fibre? q = some f → ∃ f', t.fibre? q = some f' ∧ f'.fflags = f.fflags ∧
      (q.wref ≠ s.cur.wref ∨ (q.warp ≠ s.cur.warp ∧ w ≠ .elect d g) → f' = f) ∧
      (w ∈ [Instr.shfl d a b g, .shflx d a b g, .bcast d a b g, .lid d g, .scanadd d a g] → f.keeps f' [d] ∧ f'.preds = f.preds) ∧
      (w ∈ [Instr.voteany d a g, .voteall d a g, .electw d g, .elect d g] →
        f.keeps f' [] ∧ ∀ k, k ≠ d → k ≠ d + 1 → f'.preds.getLsbD k = f.preds.getLsbD k)) ∧
  (∀ (s t : State) (e : Env) (w : Instr) (d a b g n x : Nat), s.env? s.cur = some e → exec w s = .next t →
    let was := fun (i : Nat) => e.f.bregs.getD i ⟨.unprepared, 0⟩
    let own := fun (f : Fibre) => { f with bregs := e.f.bregs, npc := e.f.npc, wbase := e.f.wbase }
    (w ∈ [Instr.prep d x, .prepr d a g] → OnlyFibre s t e fun f => e.f.keeps { f with bregs := e.f.bregs } [] ∧ f.preds = e.f.preds ∧
      f.fflags = e.f.fflags ∧ ∀ k, k ≠ d → f.bregs.getD k ⟨.unprepared, 0⟩ = was k) ∧
    (w = .jmp d g → OnlyFibre s t e fun f => e.f.keeps (own f) [] ∧ f.wbase = e.f.wbase ∧ f.preds = e.f.preds ∧ f.fflags = e.f.fflags ∧
      ∀ k, k ≠ d → f.bregs.getD k ⟨.unprepared, 0⟩ = was k) ∧
    (w = .call d g n → OnlyFibre s t e fun f => e.f.keeps (own f) [8 * n, 8 * n + 1] ∧ f.preds = e.f.preds ∧ f.fflags = e.f.fflags ∧
      ∀ k, k ≠ d → k ≠ 7 → f.bregs.getD k ⟨.unprepared, 0⟩ = was k) ∧
    (w = .ret g n → OnlyFibre s t e fun f => e.f.keeps (own f) [] ∧ f.preds = e.f.preds ∧ f.fflags = e.f.fflags ∧
      ∀ k, k ≠ 7 → f.bregs.getD k ⟨.unprepared, 0⟩ = was k) ∧
    (w = .sbtest d a b g → OnlyFibre s t e fun f => e.f.keeps f [] ∧ (∀ k, k ≠ d → k ≠ d + 1 → f.preds.getLsbD k = e.f.preds.getLsbD k) ∧
      f.fflags = e.f.fflags) ∧
    (∀ lo hi sp len, w = .ph n lo hi sp len → OnlyFibre s t e fun f => e.f.keeps { f with regs := e.f.regs } [] ∧ f.preds = e.f.preds ∧
      f.fflags = e.f.fflags ∧ ∀ k, f.regs.getD k 0 = e.f.regs.getD k 0 ∨ f.regs.getD k 0 = 0) ∧
    (w = .halt g → t.mem = s.mem ∧ (∀ q, q ≠ e.f.ref → t.fibre? q = s.fibre? q) ∧
      (∀ r v, s.wg? r = some v → ∃ v', t.wg? r = some v' ∧ { v' with exitKey := v.exitKey } = v) ∧
      ∀ r j v, s.warp? r j = some v → r ≠ s.cur.wref ∨ j ≠ s.cur.warp → t.warp? r j = some v))
end

