-- ==== Sys2Proof/Laws/State.lean ====
section
/-! SUPPORT. What each update of the state leaves as it was, field by field: one lemma per field and update, so that no proof
unfolds a record update. -/

namespace Sys2Proof.Machine

/-! ## `updL` -/

@[simp] theorem State.updL_tick (s : State) (r : LRef) (g : Launch → Launch) : (s.updL r g).tick = s.tick := rfl
@[simp] theorem State.updL_sched (s : State) (r : LRef) (g : Launch → Launch) : (s.updL r g).sched = s.sched := rfl
@[simp] theorem State.updL_inbox (s : State) (r : LRef) (g : Launch → Launch) : (s.updL r g).inbox = s.inbox := rfl
@[simp] theorem State.updL_cur (s : State) (r : LRef) (g : Launch → Launch) : (s.updL r g).cur = s.cur := rfl
@[simp] theorem State.updL_mem (s : State) (r : LRef) (g : Launch → Launch) : (s.updL r g).mem = s.mem := rfl
@[simp] theorem State.updL_boot (s : State) (r : LRef) (g : Launch → Launch) : (s.updL r g).boot = s.boot := rfl
@[simp] theorem State.updL_dies (s : State) (r : LRef) (g : Launch → Launch) : (s.updL r g).dies = s.dies := rfl
@[simp] theorem State.updL_keySlots (s : State) (r : LRef) (g : Launch → Launch) : (s.updL r g).keySlots = s.keySlots := rfl
@[simp] theorem State.updL_parts (s : State) (r : LRef) (g : Launch → Launch) : (s.updL r g).parts = s.parts := rfl
@[simp] theorem State.updL_queues (s : State) (r : LRef) (g : Launch → Launch) : (s.updL r g).queues = s.queues := rfl
@[simp] theorem State.updL_wgs (s : State) (r : LRef) (g : Launch → Launch) : (s.updL r g).wgs = s.wgs := rfl
@[simp] theorem State.updL_warps (s : State) (r : LRef) (g : Launch → Launch) : (s.updL r g).warps = s.warps := rfl
@[simp] theorem State.updL_fibres (s : State) (r : LRef) (g : Launch → Launch) : (s.updL r g).fibres = s.fibres := rfl
@[simp] theorem State.updL_mgmt (s : State) (r : LRef) (g : Launch → Launch) : (s.updL r g).mgmt = s.mgmt := rfl
@[simp] theorem State.updL_errs (s : State) (r : LRef) (g : Launch → Launch) : (s.updL r g).errs = s.errs := rfl
@[simp] theorem State.updL_fenced (s : State) (r : LRef) (g : Launch → Launch) : (s.updL r g).fenced = s.fenced := rfl
@[simp] theorem State.updL_retired (s : State) (r : LRef) (g : Launch → Launch) : (s.updL r g).retired = s.retired := rfl
@[simp] theorem State.updL_ports (s : State) (r : LRef) (g : Launch → Launch) : (s.updL r g).ports = s.ports := rfl
@[simp] theorem State.updL_hostRead (s : State) (r : LRef) (g : Launch → Launch) : (s.updL r g).hostRead = s.hostRead := rfl
@[simp] theorem State.updL_exported (s : State) (r : LRef) (g : Launch → Launch) : (s.updL r g).exported = s.exported := rfl
@[simp] theorem State.updL_rotDead (s : State) (r : LRef) (g : Launch → Launch) : (s.updL r g).rotDead = s.rotDead := rfl
@[simp] theorem State.updL_permits (s : State) (r : LRef) (g : Launch → Launch) : (s.updL r g).permits = s.permits := rfl

/-! ## `updW` -/

@[simp] theorem State.updW_tick (s : State) (r : WRef) (g : Workgroup → Workgroup) : (s.updW r g).tick = s.tick := rfl
@[simp] theorem State.updW_sched (s : State) (r : WRef) (g : Workgroup → Workgroup) : (s.updW r g).sched = s.sched := rfl
@[simp] theorem State.updW_inbox (s : State) (r : WRef) (g : Workgroup → Workgroup) : (s.updW r g).inbox = s.inbox := rfl
@[simp] theorem State.updW_cur (s : State) (r : WRef) (g : Workgroup → Workgroup) : (s.updW r g).cur = s.cur := rfl
@[simp] theorem State.updW_mem (s : State) (r : WRef) (g : Workgroup → Workgroup) : (s.updW r g).mem = s.mem := rfl
@[simp] theorem State.updW_boot (s : State) (r : WRef) (g : Workgroup → Workgroup) : (s.updW r g).boot = s.boot := rfl
@[simp] theorem State.updW_dies (s : State) (r : WRef) (g : Workgroup → Workgroup) : (s.updW r g).dies = s.dies := rfl
@[simp] theorem State.updW_keySlots (s : State) (r : WRef) (g : Workgroup → Workgroup) : (s.updW r g).keySlots = s.keySlots := rfl
@[simp] theorem State.updW_parts (s : State) (r : WRef) (g : Workgroup → Workgroup) : (s.updW r g).parts = s.parts := rfl
@[simp] theorem State.updW_queues (s : State) (r : WRef) (g : Workgroup → Workgroup) : (s.updW r g).queues = s.queues := rfl
@[simp] theorem State.updW_launches (s : State) (r : WRef) (g : Workgroup → Workgroup) : (s.updW r g).launches = s.launches := rfl
@[simp] theorem State.updW_warps (s : State) (r : WRef) (g : Workgroup → Workgroup) : (s.updW r g).warps = s.warps := rfl
@[simp] theorem State.updW_fibres (s : State) (r : WRef) (g : Workgroup → Workgroup) : (s.updW r g).fibres = s.fibres := rfl
@[simp] theorem State.updW_mgmt (s : State) (r : WRef) (g : Workgroup → Workgroup) : (s.updW r g).mgmt = s.mgmt := rfl
@[simp] theorem State.updW_errs (s : State) (r : WRef) (g : Workgroup → Workgroup) : (s.updW r g).errs = s.errs := rfl
@[simp] theorem State.updW_fenced (s : State) (r : WRef) (g : Workgroup → Workgroup) : (s.updW r g).fenced = s.fenced := rfl
@[simp] theorem State.updW_retired (s : State) (r : WRef) (g : Workgroup → Workgroup) : (s.updW r g).retired = s.retired := rfl
@[simp] theorem State.updW_ports (s : State) (r : WRef) (g : Workgroup → Workgroup) : (s.updW r g).ports = s.ports := rfl
@[simp] theorem State.updW_hostRead (s : State) (r : WRef) (g : Workgroup → Workgroup) : (s.updW r g).hostRead = s.hostRead := rfl
@[simp] theorem State.updW_exported (s : State) (r : WRef) (g : Workgroup → Workgroup) : (s.updW r g).exported = s.exported := rfl
@[simp] theorem State.updW_rotDead (s : State) (r : WRef) (g : Workgroup → Workgroup) : (s.updW r g).rotDead = s.rotDead := rfl
@[simp] theorem State.updW_permits (s : State) (r : WRef) (g : Workgroup → Workgroup) : (s.updW r g).permits = s.permits := rfl

/-! ## `updWarp` -/

@[simp] theorem State.updWarp_tick (s : State) (r : WRef) (j : Nat) (g : Warp → Warp) : (s.updWarp r j g).tick = s.tick := rfl
@[simp] theorem State.updWarp_sched (s : State) (r : WRef) (j : Nat) (g : Warp → Warp) : (s.updWarp r j g).sched = s.sched := rfl
@[simp] theorem State.updWarp_inbox (s : State) (r : WRef) (j : Nat) (g : Warp → Warp) : (s.updWarp r j g).inbox = s.inbox := rfl
@[simp] theorem State.updWarp_cur (s : State) (r : WRef) (j : Nat) (g : Warp → Warp) : (s.updWarp r j g).cur = s.cur := rfl
@[simp] theorem State.updWarp_mem (s : State) (r : WRef) (j : Nat) (g : Warp → Warp) : (s.updWarp r j g).mem = s.mem := rfl
@[simp] theorem State.updWarp_boot (s : State) (r : WRef) (j : Nat) (g : Warp → Warp) : (s.updWarp r j g).boot = s.boot := rfl
@[simp] theorem State.updWarp_dies (s : State) (r : WRef) (j : Nat) (g : Warp → Warp) : (s.updWarp r j g).dies = s.dies := rfl
@[simp] theorem State.updWarp_keySlots (s : State) (r : WRef) (j : Nat) (g : Warp → Warp) : (s.updWarp r j g).keySlots = s.keySlots := rfl
@[simp] theorem State.updWarp_parts (s : State) (r : WRef) (j : Nat) (g : Warp → Warp) : (s.updWarp r j g).parts = s.parts := rfl
@[simp] theorem State.updWarp_queues (s : State) (r : WRef) (j : Nat) (g : Warp → Warp) : (s.updWarp r j g).queues = s.queues := rfl
@[simp] theorem State.updWarp_launches (s : State) (r : WRef) (j : Nat) (g : Warp → Warp) : (s.updWarp r j g).launches = s.launches := rfl
@[simp] theorem State.updWarp_wgs (s : State) (r : WRef) (j : Nat) (g : Warp → Warp) : (s.updWarp r j g).wgs = s.wgs := rfl
@[simp] theorem State.updWarp_fibres (s : State) (r : WRef) (j : Nat) (g : Warp → Warp) : (s.updWarp r j g).fibres = s.fibres := rfl
@[simp] theorem State.updWarp_mgmt (s : State) (r : WRef) (j : Nat) (g : Warp → Warp) : (s.updWarp r j g).mgmt = s.mgmt := rfl
@[simp] theorem State.updWarp_errs (s : State) (r : WRef) (j : Nat) (g : Warp → Warp) : (s.updWarp r j g).errs = s.errs := rfl
@[simp] theorem State.updWarp_fenced (s : State) (r : WRef) (j : Nat) (g : Warp → Warp) : (s.updWarp r j g).fenced = s.fenced := rfl
@[simp] theorem State.updWarp_retired (s : State) (r : WRef) (j : Nat) (g : Warp → Warp) : (s.updWarp r j g).retired = s.retired := rfl
@[simp] theorem State.updWarp_ports (s : State) (r : WRef) (j : Nat) (g : Warp → Warp) : (s.updWarp r j g).ports = s.ports := rfl
@[simp] theorem State.updWarp_hostRead (s : State) (r : WRef) (j : Nat) (g : Warp → Warp) : (s.updWarp r j g).hostRead = s.hostRead := rfl
@[simp] theorem State.updWarp_exported (s : State) (r : WRef) (j : Nat) (g : Warp → Warp) : (s.updWarp r j g).exported = s.exported := rfl
@[simp] theorem State.updWarp_rotDead (s : State) (r : WRef) (j : Nat) (g : Warp → Warp) : (s.updWarp r j g).rotDead = s.rotDead := rfl
@[simp] theorem State.updWarp_permits (s : State) (r : WRef) (j : Nat) (g : Warp → Warp) : (s.updWarp r j g).permits = s.permits := rfl

/-! ## `setF` -/

@[simp] theorem State.setF_tick (s : State) (f : Fibre) : (s.setF f).tick = s.tick := rfl
@[simp] theorem State.setF_sched (s : State) (f : Fibre) : (s.setF f).sched = s.sched := rfl
@[simp] theorem State.setF_inbox (s : State) (f : Fibre) : (s.setF f).inbox = s.inbox := rfl
@[simp] theorem State.setF_cur (s : State) (f : Fibre) : (s.setF f).cur = s.cur := rfl
@[simp] theorem State.setF_mem (s : State) (f : Fibre) : (s.setF f).mem = s.mem := rfl
@[simp] theorem State.setF_boot (s : State) (f : Fibre) : (s.setF f).boot = s.boot := rfl
@[simp] theorem State.setF_dies (s : State) (f : Fibre) : (s.setF f).dies = s.dies := rfl
@[simp] theorem State.setF_keySlots (s : State) (f : Fibre) : (s.setF f).keySlots = s.keySlots := rfl
@[simp] theorem State.setF_parts (s : State) (f : Fibre) : (s.setF f).parts = s.parts := rfl
@[simp] theorem State.setF_queues (s : State) (f : Fibre) : (s.setF f).queues = s.queues := rfl
@[simp] theorem State.setF_launches (s : State) (f : Fibre) : (s.setF f).launches = s.launches := rfl
@[simp] theorem State.setF_wgs (s : State) (f : Fibre) : (s.setF f).wgs = s.wgs := rfl
@[simp] theorem State.setF_warps (s : State) (f : Fibre) : (s.setF f).warps = s.warps := rfl
@[simp] theorem State.setF_mgmt (s : State) (f : Fibre) : (s.setF f).mgmt = s.mgmt := rfl
@[simp] theorem State.setF_errs (s : State) (f : Fibre) : (s.setF f).errs = s.errs := rfl
@[simp] theorem State.setF_fenced (s : State) (f : Fibre) : (s.setF f).fenced = s.fenced := rfl
@[simp] theorem State.setF_retired (s : State) (f : Fibre) : (s.setF f).retired = s.retired := rfl
@[simp] theorem State.setF_ports (s : State) (f : Fibre) : (s.setF f).ports = s.ports := rfl
@[simp] theorem State.setF_hostRead (s : State) (f : Fibre) : (s.setF f).hostRead = s.hostRead := rfl
@[simp] theorem State.setF_exported (s : State) (f : Fibre) : (s.setF f).exported = s.exported := rfl
@[simp] theorem State.setF_rotDead (s : State) (f : Fibre) : (s.setF f).rotDead = s.rotDead := rfl
@[simp] theorem State.setF_permits (s : State) (f : Fibre) : (s.setF f).permits = s.permits := rfl

/-! ## `updP` -/

@[simp] theorem State.updP_tick (s : State) (p : Nat) (g : Partition → Partition) : (s.updP p g).tick = s.tick := rfl
@[simp] theorem State.updP_sched (s : State) (p : Nat) (g : Partition → Partition) : (s.updP p g).sched = s.sched := rfl
@[simp] theorem State.updP_inbox (s : State) (p : Nat) (g : Partition → Partition) : (s.updP p g).inbox = s.inbox := rfl
@[simp] theorem State.updP_cur (s : State) (p : Nat) (g : Partition → Partition) : (s.updP p g).cur = s.cur := rfl
@[simp] theorem State.updP_mem (s : State) (p : Nat) (g : Partition → Partition) : (s.updP p g).mem = s.mem := rfl
@[simp] theorem State.updP_boot (s : State) (p : Nat) (g : Partition → Partition) : (s.updP p g).boot = s.boot := rfl
@[simp] theorem State.updP_dies (s : State) (p : Nat) (g : Partition → Partition) : (s.updP p g).dies = s.dies := rfl
@[simp] theorem State.updP_keySlots (s : State) (p : Nat) (g : Partition → Partition) : (s.updP p g).keySlots = s.keySlots := rfl
@[simp] theorem State.updP_queues (s : State) (p : Nat) (g : Partition → Partition) : (s.updP p g).queues = s.queues := rfl
@[simp] theorem State.updP_launches (s : State) (p : Nat) (g : Partition → Partition) : (s.updP p g).launches = s.launches := rfl
@[simp] theorem State.updP_wgs (s : State) (p : Nat) (g : Partition → Partition) : (s.updP p g).wgs = s.wgs := rfl
@[simp] theorem State.updP_warps (s : State) (p : Nat) (g : Partition → Partition) : (s.updP p g).warps = s.warps := rfl
@[simp] theorem State.updP_fibres (s : State) (p : Nat) (g : Partition → Partition) : (s.updP p g).fibres = s.fibres := rfl
@[simp] theorem State.updP_mgmt (s : State) (p : Nat) (g : Partition → Partition) : (s.updP p g).mgmt = s.mgmt := rfl
@[simp] theorem State.updP_errs (s : State) (p : Nat) (g : Partition → Partition) : (s.updP p g).errs = s.errs := rfl
@[simp] theorem State.updP_fenced (s : State) (p : Nat) (g : Partition → Partition) : (s.updP p g).fenced = s.fenced := rfl
@[simp] theorem State.updP_retired (s : State) (p : Nat) (g : Partition → Partition) : (s.updP p g).retired = s.retired := rfl
@[simp] theorem State.updP_ports (s : State) (p : Nat) (g : Partition → Partition) : (s.updP p g).ports = s.ports := rfl
@[simp] theorem State.updP_hostRead (s : State) (p : Nat) (g : Partition → Partition) : (s.updP p g).hostRead = s.hostRead := rfl
@[simp] theorem State.updP_exported (s : State) (p : Nat) (g : Partition → Partition) : (s.updP p g).exported = s.exported := rfl
@[simp] theorem State.updP_rotDead (s : State) (p : Nat) (g : Partition → Partition) : (s.updP p g).rotDead = s.rotDead := rfl
@[simp] theorem State.updP_permits (s : State) (p : Nat) (g : Partition → Partition) : (s.updP p g).permits = s.permits := rfl

/-! ## `updQ` -/

@[simp] theorem State.updQ_tick (s : State) (q : Nat) (g : Queue → Queue) : (s.updQ q g).tick = s.tick := rfl
@[simp] theorem State.updQ_sched (s : State) (q : Nat) (g : Queue → Queue) : (s.updQ q g).sched = s.sched := rfl
@[simp] theorem State.updQ_inbox (s : State) (q : Nat) (g : Queue → Queue) : (s.updQ q g).inbox = s.inbox := rfl
@[simp] theorem State.updQ_cur (s : State) (q : Nat) (g : Queue → Queue) : (s.updQ q g).cur = s.cur := rfl
@[simp] theorem State.updQ_mem (s : State) (q : Nat) (g : Queue → Queue) : (s.updQ q g).mem = s.mem := rfl
@[simp] theorem State.updQ_boot (s : State) (q : Nat) (g : Queue → Queue) : (s.updQ q g).boot = s.boot := rfl
@[simp] theorem State.updQ_dies (s : State) (q : Nat) (g : Queue → Queue) : (s.updQ q g).dies = s.dies := rfl
@[simp] theorem State.updQ_keySlots (s : State) (q : Nat) (g : Queue → Queue) : (s.updQ q g).keySlots = s.keySlots := rfl
@[simp] theorem State.updQ_parts (s : State) (q : Nat) (g : Queue → Queue) : (s.updQ q g).parts = s.parts := rfl
@[simp] theorem State.updQ_launches (s : State) (q : Nat) (g : Queue → Queue) : (s.updQ q g).launches = s.launches := rfl
@[simp] theorem State.updQ_wgs (s : State) (q : Nat) (g : Queue → Queue) : (s.updQ q g).wgs = s.wgs := rfl
@[simp] theorem State.updQ_warps (s : State) (q : Nat) (g : Queue → Queue) : (s.updQ q g).warps = s.warps := rfl
@[simp] theorem State.updQ_fibres (s : State) (q : Nat) (g : Queue → Queue) : (s.updQ q g).fibres = s.fibres := rfl
@[simp] theorem State.updQ_mgmt (s : State) (q : Nat) (g : Queue → Queue) : (s.updQ q g).mgmt = s.mgmt := rfl
@[simp] theorem State.updQ_errs (s : State) (q : Nat) (g : Queue → Queue) : (s.updQ q g).errs = s.errs := rfl
@[simp] theorem State.updQ_fenced (s : State) (q : Nat) (g : Queue → Queue) : (s.updQ q g).fenced = s.fenced := rfl
@[simp] theorem State.updQ_retired (s : State) (q : Nat) (g : Queue → Queue) : (s.updQ q g).retired = s.retired := rfl
@[simp] theorem State.updQ_ports (s : State) (q : Nat) (g : Queue → Queue) : (s.updQ q g).ports = s.ports := rfl
@[simp] theorem State.updQ_hostRead (s : State) (q : Nat) (g : Queue → Queue) : (s.updQ q g).hostRead = s.hostRead := rfl
@[simp] theorem State.updQ_exported (s : State) (q : Nat) (g : Queue → Queue) : (s.updQ q g).exported = s.exported := rfl
@[simp] theorem State.updQ_rotDead (s : State) (q : Nat) (g : Queue → Queue) : (s.updQ q g).rotDead = s.rotDead := rfl
@[simp] theorem State.updQ_permits (s : State) (q : Nat) (g : Queue → Queue) : (s.updQ q g).permits = s.permits := rfl

/-! ## `ticked` -/

@[simp] theorem State.ticked_sched (s : State) : (s.ticked).sched = s.sched := rfl
@[simp] theorem State.ticked_inbox (s : State) : (s.ticked).inbox = s.inbox := rfl
@[simp] theorem State.ticked_cur (s : State) : (s.ticked).cur = s.cur := rfl
@[simp] theorem State.ticked_mem (s : State) : (s.ticked).mem = s.mem := rfl
@[simp] theorem State.ticked_boot (s : State) : (s.ticked).boot = s.boot := rfl
@[simp] theorem State.ticked_dies (s : State) : (s.ticked).dies = s.dies := rfl
@[simp] theorem State.ticked_keySlots (s : State) : (s.ticked).keySlots = s.keySlots := rfl
@[simp] theorem State.ticked_parts (s : State) : (s.ticked).parts = s.parts := rfl
@[simp] theorem State.ticked_queues (s : State) : (s.ticked).queues = s.queues := rfl
@[simp] theorem State.ticked_launches (s : State) : (s.ticked).launches = s.launches := rfl
@[simp] theorem State.ticked_wgs (s : State) : (s.ticked).wgs = s.wgs := rfl
@[simp] theorem State.ticked_warps (s : State) : (s.ticked).warps = s.warps := rfl
@[simp] theorem State.ticked_fibres (s : State) : (s.ticked).fibres = s.fibres := rfl
@[simp] theorem State.ticked_mgmt (s : State) : (s.ticked).mgmt = s.mgmt := rfl
@[simp] theorem State.ticked_errs (s : State) : (s.ticked).errs = s.errs := rfl
@[simp] theorem State.ticked_fenced (s : State) : (s.ticked).fenced = s.fenced := rfl
@[simp] theorem State.ticked_retired (s : State) : (s.ticked).retired = s.retired := rfl
@[simp] theorem State.ticked_ports (s : State) : (s.ticked).ports = s.ports := rfl
@[simp] theorem State.ticked_hostRead (s : State) : (s.ticked).hostRead = s.hostRead := rfl
@[simp] theorem State.ticked_exported (s : State) : (s.ticked).exported = s.exported := rfl
@[simp] theorem State.ticked_rotDead (s : State) : (s.ticked).rotDead = s.rotDead := rfl
@[simp] theorem State.ticked_permits (s : State) : (s.ticked).permits = s.permits := rfl

/-! ## `count` -/

@[simp] theorem State.count_tick (s : State) (p i n : Nat) : (s.count p i n).tick = s.tick := rfl
@[simp] theorem State.count_sched (s : State) (p i n : Nat) : (s.count p i n).sched = s.sched := rfl
@[simp] theorem State.count_inbox (s : State) (p i n : Nat) : (s.count p i n).inbox = s.inbox := rfl
@[simp] theorem State.count_cur (s : State) (p i n : Nat) : (s.count p i n).cur = s.cur := rfl
@[simp] theorem State.count_mem (s : State) (p i n : Nat) : (s.count p i n).mem = s.mem := rfl
@[simp] theorem State.count_boot (s : State) (p i n : Nat) : (s.count p i n).boot = s.boot := rfl
@[simp] theorem State.count_dies (s : State) (p i n : Nat) : (s.count p i n).dies = s.dies := rfl
@[simp] theorem State.count_keySlots (s : State) (p i n : Nat) : (s.count p i n).keySlots = s.keySlots := rfl
@[simp] theorem State.count_queues (s : State) (p i n : Nat) : (s.count p i n).queues = s.queues := rfl
@[simp] theorem State.count_launches (s : State) (p i n : Nat) : (s.count p i n).launches = s.launches := rfl
@[simp] theorem State.count_wgs (s : State) (p i n : Nat) : (s.count p i n).wgs = s.wgs := rfl
@[simp] theorem State.count_warps (s : State) (p i n : Nat) : (s.count p i n).warps = s.warps := rfl
@[simp] theorem State.count_fibres (s : State) (p i n : Nat) : (s.count p i n).fibres = s.fibres := rfl
@[simp] theorem State.count_mgmt (s : State) (p i n : Nat) : (s.count p i n).mgmt = s.mgmt := rfl
@[simp] theorem State.count_errs (s : State) (p i n : Nat) : (s.count p i n).errs = s.errs := rfl
@[simp] theorem State.count_fenced (s : State) (p i n : Nat) : (s.count p i n).fenced = s.fenced := rfl
@[simp] theorem State.count_retired (s : State) (p i n : Nat) : (s.count p i n).retired = s.retired := rfl
@[simp] theorem State.count_ports (s : State) (p i n : Nat) : (s.count p i n).ports = s.ports := rfl
@[simp] theorem State.count_hostRead (s : State) (p i n : Nat) : (s.count p i n).hostRead = s.hostRead := rfl
@[simp] theorem State.count_exported (s : State) (p i n : Nat) : (s.count p i n).exported = s.exported := rfl
@[simp] theorem State.count_rotDead (s : State) (p i n : Nat) : (s.count p i n).rotDead = s.rotDead := rfl
@[simp] theorem State.count_permits (s : State) (p i n : Nat) : (s.count p i n).permits = s.permits := rfl

/-! ## `publishPend` -/

@[simp] theorem State.publishPend_tick (s : State) (l : Launch) (f : Fibre) (t : Nat) : (s.publishPend l f t).tick = s.tick := rfl
@[simp] theorem State.publishPend_sched (s : State) (l : Launch) (f : Fibre) (t : Nat) : (s.publishPend l f t).sched = s.sched := rfl
@[simp] theorem State.publishPend_inbox (s : State) (l : Launch) (f : Fibre) (t : Nat) : (s.publishPend l f t).inbox = s.inbox := rfl
@[simp] theorem State.publishPend_cur (s : State) (l : Launch) (f : Fibre) (t : Nat) : (s.publishPend l f t).cur = s.cur := rfl
@[simp] theorem State.publishPend_mem (s : State) (l : Launch) (f : Fibre) (t : Nat) : (s.publishPend l f t).mem = s.mem := rfl
@[simp] theorem State.publishPend_boot (s : State) (l : Launch) (f : Fibre) (t : Nat) : (s.publishPend l f t).boot = s.boot := rfl
@[simp] theorem State.publishPend_dies (s : State) (l : Launch) (f : Fibre) (t : Nat) : (s.publishPend l f t).dies = s.dies := rfl
@[simp] theorem State.publishPend_keySlots (s : State) (l : Launch) (f : Fibre) (t : Nat) : (s.publishPend l f t).keySlots = s.keySlots := rfl
@[simp] theorem State.publishPend_parts (s : State) (l : Launch) (f : Fibre) (t : Nat) : (s.publishPend l f t).parts = s.parts := rfl
@[simp] theorem State.publishPend_queues (s : State) (l : Launch) (f : Fibre) (t : Nat) : (s.publishPend l f t).queues = s.queues := rfl
@[simp] theorem State.publishPend_wgs (s : State) (l : Launch) (f : Fibre) (t : Nat) : (s.publishPend l f t).wgs = s.wgs := rfl
@[simp] theorem State.publishPend_warps (s : State) (l : Launch) (f : Fibre) (t : Nat) : (s.publishPend l f t).warps = s.warps := rfl
@[simp] theorem State.publishPend_fibres (s : State) (l : Launch) (f : Fibre) (t : Nat) : (s.publishPend l f t).fibres = s.fibres := rfl
@[simp] theorem State.publishPend_mgmt (s : State) (l : Launch) (f : Fibre) (t : Nat) : (s.publishPend l f t).mgmt = s.mgmt := rfl
@[simp] theorem State.publishPend_errs (s : State) (l : Launch) (f : Fibre) (t : Nat) : (s.publishPend l f t).errs = s.errs := rfl
@[simp] theorem State.publishPend_fenced (s : State) (l : Launch) (f : Fibre) (t : Nat) : (s.publishPend l f t).fenced = s.fenced := rfl
@[simp] theorem State.publishPend_retired (s : State) (l : Launch) (f : Fibre) (t : Nat) : (s.publishPend l f t).retired = s.retired := rfl
@[simp] theorem State.publishPend_ports (s : State) (l : Launch) (f : Fibre) (t : Nat) : (s.publishPend l f t).ports = s.ports := rfl
@[simp] theorem State.publishPend_hostRead (s : State) (l : Launch) (f : Fibre) (t : Nat) : (s.publishPend l f t).hostRead = s.hostRead := rfl
@[simp] theorem State.publishPend_exported (s : State) (l : Launch) (f : Fibre) (t : Nat) : (s.publishPend l f t).exported = s.exported := rfl
@[simp] theorem State.publishPend_rotDead (s : State) (l : Launch) (f : Fibre) (t : Nat) : (s.publishPend l f t).rotDead = s.rotDead := rfl
@[simp] theorem State.publishPend_permits (s : State) (l : Launch) (f : Fibre) (t : Nat) : (s.publishPend l f t).permits = s.permits := rfl

/-! ## `turnAt` -/

@[simp] theorem State.turnAt_tick (s : State) (l : Launch) (f : Fibre) (t : Nat) (k : AfterTurn) : (s.turnAt l f t k).tick = s.tick := by simp [State.turnAt]
@[simp] theorem State.turnAt_sched (s : State) (l : Launch) (f : Fibre) (t : Nat) (k : AfterTurn) : (s.turnAt l f t k).sched = s.sched := by simp [State.turnAt]
@[simp] theorem State.turnAt_inbox (s : State) (l : Launch) (f : Fibre) (t : Nat) (k : AfterTurn) : (s.turnAt l f t k).inbox = s.inbox := by simp [State.turnAt]
@[simp] theorem State.turnAt_cur (s : State) (l : Launch) (f : Fibre) (t : Nat) (k : AfterTurn) : (s.turnAt l f t k).cur = s.cur := by simp [State.turnAt]
@[simp] theorem State.turnAt_mem (s : State) (l : Launch) (f : Fibre) (t : Nat) (k : AfterTurn) : (s.turnAt l f t k).mem = s.mem := by simp [State.turnAt]
@[simp] theorem State.turnAt_boot (s : State) (l : Launch) (f : Fibre) (t : Nat) (k : AfterTurn) : (s.turnAt l f t k).boot = s.boot := by simp [State.turnAt]
@[simp] theorem State.turnAt_dies (s : State) (l : Launch) (f : Fibre) (t : Nat) (k : AfterTurn) : (s.turnAt l f t k).dies = s.dies := by simp [State.turnAt]
@[simp] theorem State.turnAt_keySlots (s : State) (l : Launch) (f : Fibre) (t : Nat) (k : AfterTurn) : (s.turnAt l f t k).keySlots = s.keySlots := by simp [State.turnAt]
@[simp] theorem State.turnAt_queues (s : State) (l : Launch) (f : Fibre) (t : Nat) (k : AfterTurn) : (s.turnAt l f t k).queues = s.queues := by simp [State.turnAt]
@[simp] theorem State.turnAt_wgs (s : State) (l : Launch) (f : Fibre) (t : Nat) (k : AfterTurn) : (s.turnAt l f t k).wgs = s.wgs := by simp [State.turnAt]
@[simp] theorem State.turnAt_warps (s : State) (l : Launch) (f : Fibre) (t : Nat) (k : AfterTurn) : (s.turnAt l f t k).warps = s.warps := by simp [State.turnAt]
@[simp] theorem State.turnAt_mgmt (s : State) (l : Launch) (f : Fibre) (t : Nat) (k : AfterTurn) : (s.turnAt l f t k).mgmt = s.mgmt := by simp [State.turnAt]
@[simp] theorem State.turnAt_errs (s : State) (l : Launch) (f : Fibre) (t : Nat) (k : AfterTurn) : (s.turnAt l f t k).errs = s.errs := by simp [State.turnAt]
@[simp] theorem State.turnAt_fenced (s : State) (l : Launch) (f : Fibre) (t : Nat) (k : AfterTurn) : (s.turnAt l f t k).fenced = s.fenced := by simp [State.turnAt]
@[simp] theorem State.turnAt_retired (s : State) (l : Launch) (f : Fibre) (t : Nat) (k : AfterTurn) : (s.turnAt l f t k).retired = s.retired := by simp [State.turnAt]
@[simp] theorem State.turnAt_ports (s : State) (l : Launch) (f : Fibre) (t : Nat) (k : AfterTurn) : (s.turnAt l f t k).ports = s.ports := by simp [State.turnAt]
@[simp] theorem State.turnAt_hostRead (s : State) (l : Launch) (f : Fibre) (t : Nat) (k : AfterTurn) : (s.turnAt l f t k).hostRead = s.hostRead := by simp [State.turnAt]
@[simp] theorem State.turnAt_exported (s : State) (l : Launch) (f : Fibre) (t : Nat) (k : AfterTurn) : (s.turnAt l f t k).exported = s.exported := by simp [State.turnAt]
@[simp] theorem State.turnAt_rotDead (s : State) (l : Launch) (f : Fibre) (t : Nat) (k : AfterTurn) : (s.turnAt l f t k).rotDead = s.rotDead := by simp [State.turnAt]
@[simp] theorem State.turnAt_permits (s : State) (l : Launch) (f : Fibre) (t : Nat) (k : AfterTurn) : (s.turnAt l f t k).permits = s.permits := by simp [State.turnAt]

/-! ## `raiseTurn` -/

@[simp] theorem State.raiseTurn_tick (s : State) (l : Launch) (f : Fibre) (t : Nat) (k : AfterTurn) : (s.raiseTurn l f t k).tick = s.tick := by simp [State.raiseTurn]
@[simp] theorem State.raiseTurn_sched (s : State) (l : Launch) (f : Fibre) (t : Nat) (k : AfterTurn) : (s.raiseTurn l f t k).sched = s.sched := by simp [State.raiseTurn]
@[simp] theorem State.raiseTurn_inbox (s : State) (l : Launch) (f : Fibre) (t : Nat) (k : AfterTurn) : (s.raiseTurn l f t k).inbox = s.inbox := by simp [State.raiseTurn]
@[simp] theorem State.raiseTurn_cur (s : State) (l : Launch) (f : Fibre) (t : Nat) (k : AfterTurn) : (s.raiseTurn l f t k).cur = s.cur := by simp [State.raiseTurn]
@[simp] theorem State.raiseTurn_mem (s : State) (l : Launch) (f : Fibre) (t : Nat) (k : AfterTurn) : (s.raiseTurn l f t k).mem = s.mem := by simp [State.raiseTurn]
@[simp] theorem State.raiseTurn_boot (s : State) (l : Launch) (f : Fibre) (t : Nat) (k : AfterTurn) : (s.raiseTurn l f t k).boot = s.boot := by simp [State.raiseTurn]
@[simp] theorem State.raiseTurn_dies (s : State) (l : Launch) (f : Fibre) (t : Nat) (k : AfterTurn) : (s.raiseTurn l f t k).dies = s.dies := by simp [State.raiseTurn]
@[simp] theorem State.raiseTurn_keySlots (s : State) (l : Launch) (f : Fibre) (t : Nat) (k : AfterTurn) : (s.raiseTurn l f t k).keySlots = s.keySlots := by simp [State.raiseTurn]
@[simp] theorem State.raiseTurn_queues (s : State) (l : Launch) (f : Fibre) (t : Nat) (k : AfterTurn) : (s.raiseTurn l f t k).queues = s.queues := by simp [State.raiseTurn]
@[simp] theorem State.raiseTurn_wgs (s : State) (l : Launch) (f : Fibre) (t : Nat) (k : AfterTurn) : (s.raiseTurn l f t k).wgs = s.wgs := by simp [State.raiseTurn]
@[simp] theorem State.raiseTurn_warps (s : State) (l : Launch) (f : Fibre) (t : Nat) (k : AfterTurn) : (s.raiseTurn l f t k).warps = s.warps := by simp [State.raiseTurn]
@[simp] theorem State.raiseTurn_mgmt (s : State) (l : Launch) (f : Fibre) (t : Nat) (k : AfterTurn) : (s.raiseTurn l f t k).mgmt = s.mgmt := by simp [State.raiseTurn]
@[simp] theorem State.raiseTurn_errs (s : State) (l : Launch) (f : Fibre) (t : Nat) (k : AfterTurn) : (s.raiseTurn l f t k).errs = s.errs := by simp [State.raiseTurn]
@[simp] theorem State.raiseTurn_fenced (s : State) (l : Launch) (f : Fibre) (t : Nat) (k : AfterTurn) : (s.raiseTurn l f t k).fenced = s.fenced := by simp [State.raiseTurn]
@[simp] theorem State.raiseTurn_retired (s : State) (l : Launch) (f : Fibre) (t : Nat) (k : AfterTurn) : (s.raiseTurn l f t k).retired = s.retired := by simp [State.raiseTurn]
@[simp] theorem State.raiseTurn_ports (s : State) (l : Launch) (f : Fibre) (t : Nat) (k : AfterTurn) : (s.raiseTurn l f t k).ports = s.ports := by simp [State.raiseTurn]
@[simp] theorem State.raiseTurn_hostRead (s : State) (l : Launch) (f : Fibre) (t : Nat) (k : AfterTurn) : (s.raiseTurn l f t k).hostRead = s.hostRead := by simp [State.raiseTurn]
@[simp] theorem State.raiseTurn_exported (s : State) (l : Launch) (f : Fibre) (t : Nat) (k : AfterTurn) : (s.raiseTurn l f t k).exported = s.exported := by simp [State.raiseTurn]
@[simp] theorem State.raiseTurn_rotDead (s : State) (l : Launch) (f : Fibre) (t : Nat) (k : AfterTurn) : (s.raiseTurn l f t k).rotDead = s.rotDead := by simp [State.raiseTurn]
@[simp] theorem State.raiseTurn_permits (s : State) (l : Launch) (f : Fibre) (t : Nat) (k : AfterTurn) : (s.raiseTurn l f t k).permits = s.permits := by simp [State.raiseTurn]

/-! ## `moveClock` -/

@[simp] theorem State.moveClock_tick (s : State) (l : Launch) (f : Fibre) (c : Nat) : (s.moveClock l f c).tick = s.tick := by unfold State.moveClock; split <;> simp
@[simp] theorem State.moveClock_sched (s : State) (l : Launch) (f : Fibre) (c : Nat) : (s.moveClock l f c).sched = s.sched := by unfold State.moveClock; split <;> simp
@[simp] theorem State.moveClock_inbox (s : State) (l : Launch) (f : Fibre) (c : Nat) : (s.moveClock l f c).inbox = s.inbox := by unfold State.moveClock; split <;> simp
@[simp] theorem State.moveClock_cur (s : State) (l : Launch) (f : Fibre) (c : Nat) : (s.moveClock l f c).cur = s.cur := by unfold State.moveClock; split <;> simp
@[simp] theorem State.moveClock_mem (s : State) (l : Launch) (f : Fibre) (c : Nat) : (s.moveClock l f c).mem = s.mem := by unfold State.moveClock; split <;> simp
@[simp] theorem State.moveClock_boot (s : State) (l : Launch) (f : Fibre) (c : Nat) : (s.moveClock l f c).boot = s.boot := by unfold State.moveClock; split <;> simp
@[simp] theorem State.moveClock_dies (s : State) (l : Launch) (f : Fibre) (c : Nat) : (s.moveClock l f c).dies = s.dies := by unfold State.moveClock; split <;> simp
@[simp] theorem State.moveClock_keySlots (s : State) (l : Launch) (f : Fibre) (c : Nat) : (s.moveClock l f c).keySlots = s.keySlots := by unfold State.moveClock; split <;> simp
@[simp] theorem State.moveClock_queues (s : State) (l : Launch) (f : Fibre) (c : Nat) : (s.moveClock l f c).queues = s.queues := by unfold State.moveClock; split <;> simp
@[simp] theorem State.moveClock_wgs (s : State) (l : Launch) (f : Fibre) (c : Nat) : (s.moveClock l f c).wgs = s.wgs := by unfold State.moveClock; split <;> simp
@[simp] theorem State.moveClock_warps (s : State) (l : Launch) (f : Fibre) (c : Nat) : (s.moveClock l f c).warps = s.warps := by unfold State.moveClock; split <;> simp
@[simp] theorem State.moveClock_mgmt (s : State) (l : Launch) (f : Fibre) (c : Nat) : (s.moveClock l f c).mgmt = s.mgmt := by unfold State.moveClock; split <;> simp
@[simp] theorem State.moveClock_errs (s : State) (l : Launch) (f : Fibre) (c : Nat) : (s.moveClock l f c).errs = s.errs := by unfold State.moveClock; split <;> simp
@[simp] theorem State.moveClock_fenced (s : State) (l : Launch) (f : Fibre) (c : Nat) : (s.moveClock l f c).fenced = s.fenced := by unfold State.moveClock; split <;> simp
@[simp] theorem State.moveClock_retired (s : State) (l : Launch) (f : Fibre) (c : Nat) : (s.moveClock l f c).retired = s.retired := by unfold State.moveClock; split <;> simp
@[simp] theorem State.moveClock_ports (s : State) (l : Launch) (f : Fibre) (c : Nat) : (s.moveClock l f c).ports = s.ports := by unfold State.moveClock; split <;> simp
@[simp] theorem State.moveClock_hostRead (s : State) (l : Launch) (f : Fibre) (c : Nat) : (s.moveClock l f c).hostRead = s.hostRead := by unfold State.moveClock; split <;> simp
@[simp] theorem State.moveClock_exported (s : State) (l : Launch) (f : Fibre) (c : Nat) : (s.moveClock l f c).exported = s.exported := by unfold State.moveClock; split <;> simp
@[simp] theorem State.moveClock_rotDead (s : State) (l : Launch) (f : Fibre) (c : Nat) : (s.moveClock l f c).rotDead = s.rotDead := by unfold State.moveClock; split <;> simp
@[simp] theorem State.moveClock_permits (s : State) (l : Launch) (f : Fibre) (c : Nat) : (s.moveClock l f c).permits = s.permits := by unfold State.moveClock; split <;> simp

/-! ## `parkRec` -/

@[simp] theorem State.parkRec_sched (s : State) (e : Env) (r : FaultRec) : (s.parkRec e r).sched = s.sched := by unfold State.parkRec; dsimp only; split <;> rfl
@[simp] theorem State.parkRec_inbox (s : State) (e : Env) (r : FaultRec) : (s.parkRec e r).inbox = s.inbox := by unfold State.parkRec; dsimp only; split <;> rfl
@[simp] theorem State.parkRec_cur (s : State) (e : Env) (r : FaultRec) : (s.parkRec e r).cur = s.cur := by unfold State.parkRec; dsimp only; split <;> rfl
@[simp] theorem State.parkRec_mem (s : State) (e : Env) (r : FaultRec) : (s.parkRec e r).mem = s.mem := by unfold State.parkRec; dsimp only; split <;> rfl
@[simp] theorem State.parkRec_boot (s : State) (e : Env) (r : FaultRec) : (s.parkRec e r).boot = s.boot := by unfold State.parkRec; dsimp only; split <;> rfl
@[simp] theorem State.parkRec_dies (s : State) (e : Env) (r : FaultRec) : (s.parkRec e r).dies = s.dies := by unfold State.parkRec; dsimp only; split <;> rfl
@[simp] theorem State.parkRec_keySlots (s : State) (e : Env) (r : FaultRec) : (s.parkRec e r).keySlots = s.keySlots := by unfold State.parkRec; dsimp only; split <;> rfl
@[simp] theorem State.parkRec_queues (s : State) (e : Env) (r : FaultRec) : (s.parkRec e r).queues = s.queues := by unfold State.parkRec; dsimp only; split <;> rfl
@[simp] theorem State.parkRec_launches (s : State) (e : Env) (r : FaultRec) : (s.parkRec e r).launches = s.launches := by unfold State.parkRec; dsimp only; split <;> rfl
@[simp] theorem State.parkRec_warps (s : State) (e : Env) (r : FaultRec) : (s.parkRec e r).warps = s.warps := by unfold State.parkRec; dsimp only; split <;> rfl
@[simp] theorem State.parkRec_mgmt (s : State) (e : Env) (r : FaultRec) : (s.parkRec e r).mgmt = s.mgmt := by unfold State.parkRec; dsimp only; split <;> rfl
@[simp] theorem State.parkRec_errs (s : State) (e : Env) (r : FaultRec) : (s.parkRec e r).errs = s.errs := by unfold State.parkRec; dsimp only; split <;> rfl
@[simp] theorem State.parkRec_fenced (s : State) (e : Env) (r : FaultRec) : (s.parkRec e r).fenced = s.fenced := by unfold State.parkRec; dsimp only; split <;> rfl
@[simp] theorem State.parkRec_retired (s : State) (e : Env) (r : FaultRec) : (s.parkRec e r).retired = s.retired := by unfold State.parkRec; dsimp only; split <;> rfl
@[simp] theorem State.parkRec_ports (s : State) (e : Env) (r : FaultRec) : (s.parkRec e r).ports = s.ports := by unfold State.parkRec; dsimp only; split <;> rfl
@[simp] theorem State.parkRec_hostRead (s : State) (e : Env) (r : FaultRec) : (s.parkRec e r).hostRead = s.hostRead := by unfold State.parkRec; dsimp only; split <;> rfl
@[simp] theorem State.parkRec_exported (s : State) (e : Env) (r : FaultRec) : (s.parkRec e r).exported = s.exported := by unfold State.parkRec; dsimp only; split <;> rfl
@[simp] theorem State.parkRec_rotDead (s : State) (e : Env) (r : FaultRec) : (s.parkRec e r).rotDead = s.rotDead := by unfold State.parkRec; dsimp only; split <;> rfl
@[simp] theorem State.parkRec_permits (s : State) (e : Env) (r : FaultRec) : (s.parkRec e r).permits = s.permits := by unfold State.parkRec; dsimp only; split <;> rfl

/-! ## `park` -/

@[simp] theorem State.park_sched (s : State) (e : Env) (c k : Nat) (i : BitVec 64) : (s.park e c k i).sched = s.sched := State.parkRec_sched s e _
@[simp] theorem State.park_inbox (s : State) (e : Env) (c k : Nat) (i : BitVec 64) : (s.park e c k i).inbox = s.inbox := State.parkRec_inbox s e _
@[simp] theorem State.park_cur (s : State) (e : Env) (c k : Nat) (i : BitVec 64) : (s.park e c k i).cur = s.cur := State.parkRec_cur s e _
@[simp] theorem State.park_mem (s : State) (e : Env) (c k : Nat) (i : BitVec 64) : (s.park e c k i).mem = s.mem := State.parkRec_mem s e _
@[simp] theorem State.park_boot (s : State) (e : Env) (c k : Nat) (i : BitVec 64) : (s.park e c k i).boot = s.boot := State.parkRec_boot s e _
@[simp] theorem State.park_dies (s : State) (e : Env) (c k : Nat) (i : BitVec 64) : (s.park e c k i).dies = s.dies := State.parkRec_dies s e _
@[simp] theorem State.park_keySlots (s : State) (e : Env) (c k : Nat) (i : BitVec 64) : (s.park e c k i).keySlots = s.keySlots := State.parkRec_keySlots s e _
@[simp] theorem State.park_queues (s : State) (e : Env) (c k : Nat) (i : BitVec 64) : (s.park e c k i).queues = s.queues := State.parkRec_queues s e _
@[simp] theorem State.park_launches (s : State) (e : Env) (c k : Nat) (i : BitVec 64) : (s.park e c k i).launches = s.launches := State.parkRec_launches s e _
@[simp] theorem State.park_warps (s : State) (e : Env) (c k : Nat) (i : BitVec 64) : (s.park e c k i).warps = s.warps := State.parkRec_warps s e _
@[simp] theorem State.park_mgmt (s : State) (e : Env) (c k : Nat) (i : BitVec 64) : (s.park e c k i).mgmt = s.mgmt := State.parkRec_mgmt s e _
@[simp] theorem State.park_errs (s : State) (e : Env) (c k : Nat) (i : BitVec 64) : (s.park e c k i).errs = s.errs := State.parkRec_errs s e _
@[simp] theorem State.park_fenced (s : State) (e : Env) (c k : Nat) (i : BitVec 64) : (s.park e c k i).fenced = s.fenced := State.parkRec_fenced s e _
@[simp] theorem State.park_retired (s : State) (e : Env) (c k : Nat) (i : BitVec 64) : (s.park e c k i).retired = s.retired := State.parkRec_retired s e _
@[simp] theorem State.park_ports (s : State) (e : Env) (c k : Nat) (i : BitVec 64) : (s.park e c k i).ports = s.ports := State.parkRec_ports s e _
@[simp] theorem State.park_hostRead (s : State) (e : Env) (c k : Nat) (i : BitVec 64) : (s.park e c k i).hostRead = s.hostRead := State.parkRec_hostRead s e _
@[simp] theorem State.park_exported (s : State) (e : Env) (c k : Nat) (i : BitVec 64) : (s.park e c k i).exported = s.exported := State.parkRec_exported s e _
@[simp] theorem State.park_rotDead (s : State) (e : Env) (c k : Nat) (i : BitVec 64) : (s.park e c k i).rotDead = s.rotDead := State.parkRec_rotDead s e _
@[simp] theorem State.park_permits (s : State) (e : Env) (c k : Nat) (i : BitVec 64) : (s.park e c k i).permits = s.permits := State.parkRec_permits s e _

/-! ## `pass` -/

/-- A passed word changes fibres, launches, partitions and workgroups only through the fibre's move, over what the word itself
changed; s0 is the state before the word, to which a clock overflow returns. -/
theorem State.pass_eq (s0 s : State) (e : Env) (f : Fibre) (len wt : Nat) (h : e.f.clk + wt < clockTop) :
    s0.pass s e f len wt = ((s.moveClock e.l (f.past len) (e.f.clk + wt)).count e.l.part 0 1).ticked := by
  have : overflows e.f wt = false := by simp [overflows]; omega
  simp [State.pass, this]

/-- A word that ticks: the step counter goes up by one. -/
theorem State.pass_tick (s : State) (e : Env) (f : Fibre) (len wt : Nat) : (s.pass s e f len wt).tick = s.tick + 1 := by
  unfold State.pass
  split
  · unfold State.park State.parkRec
    dsimp only
    split <;> rfl
  · simp [State.ticked]

@[simp] theorem State.pass_sched (s : State) (e : Env) (f : Fibre) (len wt : Nat) : (s.pass s e f len wt).sched = s.sched := by
  unfold State.pass; split <;> simp
@[simp] theorem State.pass_inbox (s : State) (e : Env) (f : Fibre) (len wt : Nat) : (s.pass s e f len wt).inbox = s.inbox := by
  unfold State.pass; split <;> simp
@[simp] theorem State.pass_cur (s : State) (e : Env) (f : Fibre) (len wt : Nat) : (s.pass s e f len wt).cur = s.cur := by
  unfold State.pass; split <;> simp
@[simp] theorem State.pass_mem (s : State) (e : Env) (f : Fibre) (len wt : Nat) : (s.pass s e f len wt).mem = s.mem := by
  unfold State.pass; split <;> simp
@[simp] theorem State.pass_boot (s : State) (e : Env) (f : Fibre) (len wt : Nat) : (s.pass s e f len wt).boot = s.boot := by
  unfold State.pass; split <;> simp
@[simp] theorem State.pass_dies (s : State) (e : Env) (f : Fibre) (len wt : Nat) : (s.pass s e f len wt).dies = s.dies := by
  unfold State.pass; split <;> simp
@[simp] theorem State.pass_keySlots (s : State) (e : Env) (f : Fibre) (len wt : Nat) : (s.pass s e f len wt).keySlots = s.keySlots := by
  unfold State.pass; split <;> simp
@[simp] theorem State.pass_queues (s : State) (e : Env) (f : Fibre) (len wt : Nat) : (s.pass s e f len wt).queues = s.queues := by
  unfold State.pass; split <;> simp
@[simp] theorem State.pass_warps (s : State) (e : Env) (f : Fibre) (len wt : Nat) : (s.pass s e f len wt).warps = s.warps := by
  unfold State.pass; split <;> simp
@[simp] theorem State.pass_mgmt (s : State) (e : Env) (f : Fibre) (len wt : Nat) : (s.pass s e f len wt).mgmt = s.mgmt := by
  unfold State.pass; split <;> simp
@[simp] theorem State.pass_errs (s : State) (e : Env) (f : Fibre) (len wt : Nat) : (s.pass s e f len wt).errs = s.errs := by
  unfold State.pass; split <;> simp
@[simp] theorem State.pass_fenced (s : State) (e : Env) (f : Fibre) (len wt : Nat) : (s.pass s e f len wt).fenced = s.fenced := by
  unfold State.pass; split <;> simp
@[simp] theorem State.pass_retired (s : State) (e : Env) (f : Fibre) (len wt : Nat) : (s.pass s e f len wt).retired = s.retired := by
  unfold State.pass; split <;> simp
@[simp] theorem State.pass_ports (s : State) (e : Env) (f : Fibre) (len wt : Nat) : (s.pass s e f len wt).ports = s.ports := by
  unfold State.pass; split <;> simp
@[simp] theorem State.pass_hostRead (s : State) (e : Env) (f : Fibre) (len wt : Nat) : (s.pass s e f len wt).hostRead = s.hostRead := by
  unfold State.pass; split <;> simp
@[simp] theorem State.pass_exported (s : State) (e : Env) (f : Fibre) (len wt : Nat) : (s.pass s e f len wt).exported = s.exported := by
  unfold State.pass; split <;> simp
@[simp] theorem State.pass_rotDead (s : State) (e : Env) (f : Fibre) (len wt : Nat) : (s.pass s e f len wt).rotDead = s.rotDead := by
  unfold State.pass; split <;> simp
@[simp] theorem State.pass_permits (s : State) (e : Env) (f : Fibre) (len wt : Nat) : (s.pass s e f len wt).permits = s.permits := by
  unfold State.pass; split <;> simp

end Sys2Proof.Machine
end

