-- ==== Sys2Proof/Laws/Words.lean ====
section
/-! SUPPORT. What the shared forms of words do, once and for all: when the operands are there a word passes with its result, when
its guard is off it only passes, and when it stops it parks, waits or turns. Proofs about an instruction cite these and never
unfold the forms. -/

namespace Sys2Proof.Machine

/-! ## The current fibre -/

/-- What the surroundings of a fibre are. -/
theorem env_parts {s : State} {r : FRef} {e : Env} (h : s.env? r = some e) :
    s.fibre? r = some e.f ∧ s.launch? r.wref.launch = some e.l ∧ s.wg? r.wref = some e.w ∧ s.warp? r.wref r.warp = some e.p := by
  unfold State.env? at h
  split at h
  · rename_i f l w p hf hl hw hp
    cases h
    exact ⟨hf, hl, hw, hp⟩
  · cases h

/-- The surroundings of a fibre are those of the fibre named. -/
theorem env_ref {s : State} {r : FRef} {e : Env} (h : s.env? r = some e) : e.f.ref = r := by
  have := (env_parts h).1
  unfold State.fibre? at this
  simpa using List.find?_some this

/-- The fibre that executes a word is the current one, in its launch, workgroup and warp. -/
theorem runs_parts {s : State} {e : Env} (h : Runs s e) :
    e.f.ref = s.cur ∧ (∃ f, s.fibre? s.cur = some f) ∧ s.launch? s.cur.wref.launch = some e.l ∧ s.wg? s.cur.wref = some e.w ∧
      s.warp? s.cur.wref s.cur.warp = some e.p := by
  obtain ⟨e₀, h, -, rfl⟩ := h
  have hp := env_parts h
  have hr : e₀.f.ref = s.cur := env_ref h
  exact ⟨hr, ⟨_, hp.1⟩, hp.2.1, hp.2.2.1, hp.2.2.2⟩

/-- A word is run in the current fibre when nothing holds it. -/
theorem withCur_runs {s : State} {e : Env} (h : Runs s e) (k : Env → Host.Outcome State Fault Refusal) : withCur s k = k e := by
  obtain ⟨e₀, h, hc, rfl⟩ := h
  simp [withCur, h, hc]

/-- A fibre that a stop, a wait, a halt or a save holds does nothing. -/
theorem withCur_held {s : State} {e : Env} (h : s.env? s.cur = some e) (hc : e.canRun = false)
    (k : Env → Host.Outcome State Fault Refusal) : withCur s k = .next s := by
  simp [withCur, h, hc]

/-! ## Operands (R18, R42) -/

theorem vchk_held {f : Fibre} : ∀ {rs : List Nat}, Held f rs → vchk f rs = .ok ()
  | [], _ => rfl
  | i :: r, h => by
    have h1 : f.phys i < f.regs.length := h i (by simp)
    simp only [vchk, h1, if_true]
    exact vchk_held fun j hj => h j (by simp [hj])

/-- The first register that lies outside the allocation decides the window-overflow fault (R18). -/
theorem vchk_overflow {f : Fibre} {i : Nat} : ∀ {rs ts : List Nat}, Held f rs → ¬ f.phys i < f.regs.length →
    vchk f (rs ++ i :: ts) = .error (.fault 0x09 0 (BitVec.ofNat 64 (f.phys i)))
  | [], _, _, hi => by simp [vchk, hi]
  | j :: r, _, h, hi => by
    have h1 : f.phys j < f.regs.length := h j (by simp)
    simp only [List.cons_append, vchk, h1, if_true]
    exact vchk_overflow (fun k hk => h k (by simp [hk])) hi

theorem vget_here {f : Fibre} {rs : List Nat} (h : Here f rs) {i : Nat} (hi : i ∈ rs) : vget f i = .ok (f.val i) := by
  simp [vget, h i hi, Fibre.val]

theorem vget_one {f : Fibre} {i : Nat} (h : f.awaits (f.phys i) = false) : vget f i = .ok (f.val i) := by
  simp [vget, h, Fibre.val]

/-- A register whose result is outstanding makes the word wait (R42). -/
theorem vget_wait {f : Fibre} {i : Nat} (h : f.awaits (f.phys i) = true) : vget f i = .error (.wait 6) := by
  simp [vget, h]

theorem vget2_here {f : Fibre} {rs : List Nat} (h : Here f rs) {i : Nat} (h0 : i ∈ rs) (h1 : i + 1 ∈ rs) :
    vget2 f i = .ok (f.val2 i) := by
  simp [vget2, vget_here h h0, vget_here h h1, Fibre.val2, bind, Except.bind]

theorem vgets_here {f : Fibre} : ∀ {n i : Nat}, (∀ k < n, f.awaits (f.phys (i + k)) = false) →
    vgets f i n = .ok ((List.range n).map fun k => f.val (i + k))
  | 0, _, _ => rfl
  | n + 1, i, h => by
    have h0 : vget f i = .ok (f.val i) := vget_one (by simpa using h 0 (by omega))
    have ih := vgets_here (f := f) (n := n) (i := i + 1) fun k hk => by
      have := h (k + 1) (by omega)
      simpa [Nat.add_assoc, Nat.add_comm 1 k] using this
    simp only [vgets, h0, ih, bind, Except.bind]
    rw [List.range_succ_eq_map]
    simp only [List.map_cons, List.map_map, Nat.add_zero, Except.ok.injEq, List.cons.injEq, true_and]
    exact List.map_congr_left fun k _ => by simp only [Function.comp, Nat.succ_eq_add_one]; congr 1; omega

/-! ## Words (R41, R45) -/

variable {s : State} {e : Env} {g len wt : Nat}

/-- A word with room for its weight passes. -/
theorem pass_room {t : State} {f : Fibre} (h : Room e wt) : s.pass t e f len wt = passed t e f len wt := by
  have : overflows e.f wt = false := by simp only [overflows, decide_eq_false_iff_not]; unfold Room at h; omega
  simp [State.pass, this, passed]

/-- A word whose weight has no room parks with the clock overflow (R19). -/
theorem pass_overflow {t : State} {f : Fibre} (h : ¬ Room e wt) : s.pass t e f len wt = s.park e 0x0A 0 0 := by
  have : overflows e.f wt = true := by simp only [overflows, decide_eq_true_eq]; unfold Room at h; omega
  simp [State.pass, this]

theorem runWord_on {o : Option Nat} {body : Env → Except Stop (State × Fibre)} {t : State} {f : Fibre} (h : Runs s e)
    (hg : guardOn e.f o = true) (hb : body e = .ok (t, f)) : runWord s o len wt body = .next (s.pass t e f len wt) := by
  simp [runWord, withCur_runs h, hg, hb]

theorem runWord_off {o : Option Nat} {body : Env → Except Stop (State × Fibre)} (h : Runs s e) (hg : guardOn e.f o = false) :
    runWord s o len wt body = .next (s.pass s e e.f len wt) := by
  simp [runWord, withCur_runs h, hg]

theorem runWord_stop {o : Option Nat} {body : Env → Except Stop (State × Fibre)} {x : Stop} (h : Runs s e)
    (hg : guardOn e.f o = true) (hb : body e = .error x) : runWord s o len wt body = .next (s.stopped e x) := by
  simp [runWord, withCur_runs h, hg, hb]

theorem runPlain_on {o : Option Nat} {body : Env → Except Stop Fibre} {f : Fibre} (h : Runs s e) (hg : guardOn e.f o = true)
    (hb : body e = .ok f) : runPlain s o len wt body = .next (s.pass s e f len wt) :=
  runWord_on h hg (by simp [hb, Except.map])

theorem runPlain_off {o : Option Nat} {body : Env → Except Stop Fibre} (h : Runs s e) (hg : guardOn e.f o = false) :
    runPlain s o len wt body = .next (s.pass s e e.f len wt) :=
  runWord_off h hg

theorem runPlain_stop {o : Option Nat} {body : Env → Except Stop Fibre} {x : Stop} (h : Runs s e) (hg : guardOn e.f o = true)
    (hb : body e = .error x) : runPlain s o len wt body = .next (s.stopped e x) :=
  runWord_stop h hg (by simp [hb, Except.map])

theorem runSyncN_on {o : Option Nat} {body : Env → Except Stop State} {t : State} (h : Runs s e) (hg : guardOn e.f o = true)
    (hr : Room e wt) (hb : body e = .ok t) : runSyncN s o len wt body = .next t.ticked := by
  have : overflows e.f wt = false := by simp only [overflows, decide_eq_false_iff_not]; unfold Room at hr; omega
  simp [runSyncN, withCur_runs h, hg, hb, this]

theorem runSyncN_off {o : Option Nat} {body : Env → Except Stop State} (h : Runs s e) (hg : guardOn e.f o = false) :
    runSyncN s o len wt body = .next (s.pass s e e.f len wt) := by
  simp [runSyncN, withCur_runs h, hg]

theorem runSyncN_stop {o : Option Nat} {body : Env → Except Stop State} {x : Stop} (h : Runs s e) (hg : guardOn e.f o = true)
    (hb : body e = .error x) : runSyncN s o len wt body = .next (s.stopped e x) := by
  simp [runSyncN, withCur_runs h, hg, hb]

theorem runSync_on {o : Option Nat} {body : Env → Except Stop State} {t : State} (h : Runs s e) (hg : guardOn e.f o = true)
    (hr : Room e 1) (hb : body e = .ok t) : runSync s o body = .next t.ticked :=
  runSyncN_on h hg hr hb

/-- An act of the device happens when its conditions hold. -/
theorem runAct_some {act : Option State} {t : State} (h : act = some t) : runAct s act = .next t.ticked := by
  simp [runAct, h]

/-- An act whose conditions do not hold changes nothing. -/
theorem runAct_none {act : Option State} (h : act = none) : runAct s act = .next s := by
  simp [runAct, h]

/-! ## Register words -/

theorem runV1_on {d a : Nat} {k : Fibre → Word → Fibre × Word} (h : Runs s e) (hg : e.f.pred g = true)
    (hv : Held e.f [d, a]) (hr : Here e.f [a]) :
    runV1 s g d a k = .next (s.pass s e (vset (k e.f (e.f.val a)).1 d (k e.f (e.f.val a)).2) 1 1) :=
  runPlain_on h hg (by simp [vchk_held hv, vget_here hr, bind, Except.bind])

theorem runV1E_on {d a : Nat} {k : Env → Word → Fibre × Word} (h : Runs s e) (hg : e.f.pred g = true)
    (hv : Held e.f [d, a]) (hr : Here e.f [a]) :
    runV1E s g d a k = .next (s.pass s e (vset (k e (e.f.val a)).1 d (k e (e.f.val a)).2) 1 1) :=
  runPlain_on h hg (by simp [vchk_held hv, vget_here hr, bind, Except.bind])

theorem runV2_on {d a b : Nat} {k : Env → Word → Word → Fibre × Word} (h : Runs s e) (hg : e.f.pred g = true)
    (hv : Held e.f [d, a, b]) (hr : Here e.f [a, b]) :
    runV2 s g d a b k =
      .next (s.pass s e (vset (k e (e.f.val a) (e.f.val b)).1 d (k e (e.f.val a) (e.f.val b)).2) 1 1) :=
  runPlain_on h hg (by simp [vchk_held hv, vget_here hr, bind, Except.bind])

theorem runV3_on {d a b : Nat} {k : Env → Word → Word → Word → Fibre × Word} (h : Runs s e) (hg : e.f.pred g = true)
    (hv : Held e.f [d, a, b]) (hr : Here e.f [d, a, b]) :
    runV3 s g d a b k =
      .next (s.pass s e (vset (k e (e.f.val a) (e.f.val b) (e.f.val d)).1 d (k e (e.f.val a) (e.f.val b) (e.f.val d)).2) 1 1) :=
  runPlain_on h hg (by simp [vchk_held hv, vget_here hr, bind, Except.bind])

theorem runInt2_on {d a b : Nat} {k : Word → Word → Word} (h : Runs s e) (hg : e.f.pred g = true)
    (hv : Held e.f [d, a, b]) (hr : Here e.f [a, b]) :
    runInt2 s g d a b k = .next (s.pass s e (vset e.f d (k (e.f.val a) (e.f.val b))) 1 1) :=
  runV2_on h hg hv hr

theorem runInt1_on {d a : Nat} {k : Word → Word} (h : Runs s e) (hg : e.f.pred g = true) (hv : Held e.f [d, a])
    (hr : Here e.f [a]) : runInt1 s g d a k = .next (s.pass s e (vset e.f d (k (e.f.val a))) 1 1) :=
  runV1_on h hg hv hr

theorem runVI_on {d a : Nat} {k : Word → Word} (h : Runs s e) (hg : e.f.pred e.f.cg = true) (hv : Held e.f [d, a])
    (hr : Here e.f [a]) : runVI s d a k = .next (s.pass s e (vset e.f d (k (e.f.val a))) 1 1) :=
  runPlain_on h hg (by simp [vchk_held hv, vget_here hr, bind, Except.bind])

theorem runCmp_on {d a b : Nat} {k : Word → Word → Bool} (h : Runs s e) (hg : e.f.pred g = true)
    (hv : Held e.f [a, b]) (hr : Here e.f [a, b]) :
    runCmp s g d a b k = .next (s.pass s e (psetPair e.f d (k (e.f.val a) (e.f.val b))) 1 1) :=
  runPlain_on h hg (by simp [vchk_held hv, vget_here hr, bind, Except.bind])

theorem runCmpI_on {d a : Nat} {k : Word → Bool} (h : Runs s e) (hg : e.f.pred e.f.cg = true) (hv : Held e.f [a])
    (hr : Here e.f [a]) : runCmpI s d a k = .next (s.pass s e (psetPair e.f d (k (e.f.val a))) 1 1) :=
  runPlain_on h hg (by simp [vchk_held hv, vget_here hr, bind, Except.bind])

theorem runFCmp_on {d a b : Nat} {q : Bool} {k : FV → FV → Bool} (h : Runs s e) (hg : e.f.pred g = true)
    (hv : Held e.f [a, b]) (hr : Here e.f [a, b]) :
    runFCmp s g d a b q k =
      let x := fp32.value (e.f.val a).toNat
      let y := fp32.value (e.f.val b).toNat
      let nv := x.isSig || y.isSig || (q && (x.isNan || y.isNan))
      .next (s.pass s e (psetPair (e.f.flag (flagWhen nv flagNV)) d (k x y)) 1 1) :=
  runPlain_on h hg (by simp [vchk_held hv, vget_here hr, bind, Except.bind])

theorem vsetLate_eq (f : Fibre) (d : Nat) (x : Word) : vsetLate f d x = .ok (f.late d x) := by
  simp [vsetLate, addOut, Fibre.dsts, Fibre.late]

theorem runLate1_on {d a : Nat} {k : Env → Word → Fibre × Word} (h : Runs s e) (hg : e.f.pred g = true)
    (hv : Held e.f [d, a]) (hr : Here e.f [a]) :
    runLate1 s g d a k = .next (s.pass s e ((k e (e.f.val a)).1.late d (k e (e.f.val a)).2) 1 1) :=
  runPlain_on h hg (by simp [vchk_held hv, vget_here hr, bind, Except.bind, vsetLate_eq])

theorem runLate2_on {d a b : Nat} {k : Env → Word → Word → Fibre × Word} (h : Runs s e) (hg : e.f.pred g = true)
    (hv : Held e.f [d, a, b]) (hr : Here e.f [a, b]) :
    runLate2 s g d a b k =
      .next (s.pass s e ((k e (e.f.val a) (e.f.val b)).1.late d (k e (e.f.val a) (e.f.val b)).2) 1 1) :=
  runPlain_on h hg (by simp [vchk_held hv, vget_here hr, bind, Except.bind, vsetLate_eq])

theorem runW2_on {d a b : Nat} {k : BitVec 64 → BitVec 64 → BitVec 64} (h : Runs s e) (hg : e.f.pred g = true)
    (hv : Held e.f [d, d + 1, a, a + 1, b, b + 1]) (hr : Here e.f [a, a + 1, b, b + 1]) :
    runW2 s g d a b k = .next (s.pass s e (vset2 e.f d (k (e.f.val2 a) (e.f.val2 b))) 1 1) :=
  runPlain_on h hg (by simp [vchk_held hv, vget2_here hr, bind, Except.bind])

theorem runP2_on {d a b : Nat} {k : Bool → Bool → Bool} (h : Runs s e) (hg : e.f.pred g = true) :
    runP2 s g d a b k = .next (s.pass s e (pset1 e.f d (k (e.f.pred a) (e.f.pred b))) 1 1) :=
  runPlain_on h hg rfl

/-! ## Writing a register (R17, R18) -/

theorem setAt_length {α : Type} : ∀ (xs : List α) (n : Nat) (x : α), (setAt xs n x).length = xs.length
  | [], _, _ => rfl
  | _ :: _, 0, _ => rfl
  | _ :: r, n + 1, x => by simp [setAt, setAt_length r n x]

theorem setAt_same {α : Type} (z : α) : ∀ (xs : List α) (n : Nat) (x : α), n < xs.length → (setAt xs n x).getD n z = x
  | [], _, _, h => absurd h (by simp)
  | _ :: _, 0, _, _ => rfl
  | _ :: r, n + 1, x, h => by
    have := setAt_same z r n x (by simpa using h)
    simpa [setAt] using this

theorem setAt_other {α : Type} (z : α) : ∀ (xs : List α) (n m : Nat) (x : α), m ≠ n → (setAt xs n x).getD m z = xs.getD m z
  | [], _, _, _, _ => rfl
  | _ :: _, 0, 0, _, h => absurd rfl h
  | _ :: _, 0, _ + 1, _, _ => rfl
  | _ :: _, _ + 1, 0, _, _ => rfl
  | _ :: r, n + 1, m + 1, x, h => by
    have := setAt_other z r n m x (by omega)
    simpa [setAt] using this

/-- A register that was written reads back. -/
theorem vset_val (f : Fibre) (d : Nat) (x : Word) (h : f.phys d < f.regs.length) : (vset f d x).val d = x := by
  simp only [Fibre.val, vset, Fibre.phys]
  exact setAt_same 0 f.regs (f.wbase + d) x h

/-- Another register reads as before. -/
theorem vset_val_other (f : Fibre) (d i : Nat) (x : Word) (h : i ≠ d) : (vset f d x).val i = f.val i := by
  simp only [Fibre.val, vset, Fibre.phys]
  exact setAt_other 0 f.regs (f.wbase + d) (f.wbase + i) x (by omega)

/-- `s0` reads 0 whatever was written to it (R96). -/
theorem sget_zero (p : Warp) (x : Word) : sget (sset p 0 x) 0 = 0 := by simp [sget]

/-- Writing a predicate leaves `p0` and `p1` as they are (R17). -/
theorem pset1_const (f : Fibre) (n k : Nat) (b : Bool) (hk : k < 2) : (pset1 f n b).pred k = f.pred k := by
  unfold pset1
  split
  · rfl
  · rename_i h
    simp only [Fibre.pred]
    have hk16 : k < 16 := by omega
    have hkn : ¬ (n ≤ k) := by omega
    have hkn' : k < n := by omega
    cases b <;> simp [hk16, hkn']

end Sys2Proof.Machine
end

