-- ==== Sys2Proof/Laws/Crypto.lean ====
section
/-! SUPPORT. How long the outputs of the hash are, whatever it digests. -/

namespace Sys2Proof.Machine

theorem keccakRound_length (a : List (BitVec 64)) (rc : Nat) : (keccakRound a rc).length = 25 := by
  unfold keccakRound lanes
  rw [setAt_length, List.length_map, List.length_range]

theorem keccak_length (a : List (BitVec 64)) (h : a.length = 25) : (keccak a).length = 25 := by
  have : ∀ (rs : List Nat) (a : List (BitVec 64)), a.length = 25 → (rs.foldl keccakRound a).length = 25 := by
    intro rs
    induction rs with
    | nil => exact fun a h => h
    | cons r rs ih => exact fun a _ => ih _ (keccakRound_length a r)
  exact this _ _ h

theorem absorb_length (a : List (BitVec 64)) (bs : List Byte) (h : a.length = 25) : (absorb a bs).length = 25 :=
  keccak_length _ (by rw [List.length_map, List.length_zip, List.length_range, h]; rfl)

theorem absorbAll_length (n : Nat) (a : List (BitVec 64)) (bs : List Byte) (h : a.length = 25) : (absorbAll n a bs).length = 25 := by
  induction n generalizing a bs with
  | zero => exact absorb_length _ _ h
  | succ n ih =>
    unfold absorbAll
    split
    · exact absorb_length _ _ h
    · exact ih _ _ (absorb_length _ _ h)

/-- SHAKE256 gives 32 bytes. -/
theorem shake256_length (bs : List Byte) : (shake256 bs).length = 32 := by
  unfold shake256
  have h := absorbAll_length (bs.length / 136) _ bs (List.length_replicate (n := 25) (a := (0 : BitVec 64)))
  generalize absorbAll _ _ _ = x at h
  rw [List.length_flatMap, List.map_congr_left (g := fun _ => 8) (fun _ _ => toBytes_length _ _), List.map_const', List.length_take, h]
  rfl

end Sys2Proof.Machine
end

