-- ==== Sys2Proof/Laws/Memory.lean ====
section
/-! SUPPORT. The laws of sparse memory: a byte written is read back, no other byte changes, every operation keeps the canonical
form, and equal contents are equal lists. -/

namespace Sys2Proof.Machine

/-! ## Reading after writing -/

/-- Every address of a canonical memory is at or above its lower bound. -/
theorem memGet_below : ∀ (m : Memory) (lo x : Nat), memWfFrom lo m = true → x < lo → memGet m x = 0
  | [], _, _, _, _ => rfl
  | (a, b) :: r, lo, x, h, hx => by
    simp only [memWfFrom, Bool.and_eq_true, decide_eq_true_eq] at h
    have h1 : ¬ a = x := by omega
    have h2 : x < a := by omega
    simp [memGet, h1, h2]

/-- A byte that was written reads back. -/
theorem memGet_set_same : ∀ (m : Memory) (lo x : Nat) (v : Byte), memWfFrom lo m = true → memGet (memSet m x v) x = v
  | [], _, x, v, _ => by
    unfold memSet
    split
    · simp_all [memGet]
    · simp [memGet]
  | (a, b) :: r, lo, x, v, h => by
    have h' := h
    simp only [memWfFrom, Bool.and_eq_true, decide_eq_true_eq] at h'
    unfold memSet
    split
    · split
      · rename_i h1 h2
        have : ¬ a = x := by omega
        simp [memGet, this, h1, h2]
      · simp [memGet]
    · split
      · split
        · rename_i h1 h2 h3
          rw [h3, memGet_below r (a + 1) x h'.2 (by omega)]
        · simp [memGet]
      · rename_i h1 h2
        have : ¬ x < a := h1
        simp only [memGet, h2, this, if_false]
        exact memGet_set_same r (a + 1) x v h'.2

/-- A byte that was not written reads as before. -/
theorem memGet_set_other : ∀ (m : Memory) (lo x y : Nat) (v : Byte), memWfFrom lo m = true → y ≠ x →
    memGet (memSet m x v) y = memGet m y
  | [], _, x, y, v, _, hy => by
    unfold memSet
    split
    · rfl
    · have : ¬ x = y := by omega
      simp [memGet, this]
  | (a, b) :: r, lo, x, y, v, h, hy => by
    have h' := h
    simp only [memWfFrom, Bool.and_eq_true, decide_eq_true_eq] at h'
    have hxy : ¬ x = y := by omega
    unfold memSet
    split
    · split
      · rfl
      · rename_i h1 h2
        by_cases hlt : y < x
        · have e1 : ¬ a = y := by omega
          have e2 : y < a := by omega
          simp [memGet, hxy, hlt, e1, e2]
        · simp [memGet, hxy, hlt]
    · split
      · split
        · rename_i h1 h2 h3
          subst h2
          by_cases hlt : y < a
          · have e1 : ¬ a = y := by omega
            simp only [memGet, e1, hlt, if_false, if_true]
            exact memGet_below r (a + 1) y h'.2 (by omega)
          · simp [memGet, hxy, hlt]
        · rename_i h1 h2 h3
          subst h2
          simp [memGet, hxy]
      · simp only [memGet]
        split
        · rfl
        · split
          · rfl
          · exact memGet_set_other r (a + 1) x y v h'.2 hy

/-! ## The canonical form -/

/-- A memory canonical above lo is canonical above every smaller bound. -/
theorem memWfFrom_mono (m : Memory) (lo lo' : Nat) (h : memWfFrom lo m = true) (hl : lo' ≤ lo) : memWfFrom lo' m = true := by
  cases m with
  | nil => rfl
  | cons c r =>
    simp only [memWfFrom, Bool.and_eq_true, decide_eq_true_eq] at h ⊢
    exact ⟨⟨by omega, h.1.2⟩, h.2⟩

/-- Writing a byte keeps the canonical form. -/
theorem memWfFrom_set : ∀ (m : Memory) (lo x : Nat) (v : Byte), memWfFrom lo m = true → lo ≤ x → memWfFrom lo (memSet m x v) = true
  | [], lo, x, v, _, hx => by
    unfold memSet
    split <;> simp_all [memWfFrom]
  | (a, b) :: r, lo, x, v, h, hx => by
    have h' := h
    simp only [memWfFrom, Bool.and_eq_true, decide_eq_true_eq] at h'
    unfold memSet
    split
    · split
      · exact h
      · rename_i h1 h2
        simp only [memWfFrom, Bool.and_eq_true, decide_eq_true_eq]
        exact ⟨⟨hx, h2⟩, ⟨by omega, h'.1.2⟩, h'.2⟩
    · split
      · split
        · exact memWfFrom_mono r (a + 1) lo h'.2 (by omega)
        · rename_i h1 h2 h3
          subst h2
          simp only [memWfFrom, Bool.and_eq_true, decide_eq_true_eq]
          exact ⟨⟨hx, h3⟩, h'.2⟩
      · rename_i h1 h2
        simp only [memWfFrom, Bool.and_eq_true, decide_eq_true_eq]
        exact ⟨h'.1, memWfFrom_set r (a + 1) x v h'.2 (by omega)⟩

/-- Writing a byte keeps the canonical form of a whole memory. -/
theorem memWf_set (m : Memory) (x : Nat) (v : Byte) (h : memWf m = true) : memWf (memSet m x v) = true :=
  memWfFrom_set m 0 x v h (Nat.zero_le x)

/-- Writing bytes keeps the canonical form. -/
theorem memWf_put : ∀ (bs : List Byte) (m : Memory) (a : Nat), memWf m = true → memWf (memPut m a bs) = true
  | [], _, _, h => h
  | b :: r, m, a, h => memWf_put r (memSet m a b) (a + 1) (memWf_set m a b h)

/-- Writing a number keeps the canonical form. -/
theorem memWf_putNat (m : Memory) (a n v : Nat) (h : memWf m = true) : memWf (memPutNat m a n v) = true :=
  memWf_put (toBytes n v) m a h

/-- Removing entries keeps the canonical form. -/
theorem memWfFrom_filter (p : Host.Cell → Bool) : ∀ (m : Memory) (lo : Nat), memWfFrom lo m = true → memWfFrom lo (m.filter p) = true
  | [], _, _ => rfl
  | (a, b) :: r, lo, h => by
    simp only [memWfFrom, Bool.and_eq_true, decide_eq_true_eq] at h
    by_cases hp : p (a, b) = true
    · rw [List.filter_cons_of_pos hp]
      simp only [memWfFrom, Bool.and_eq_true, decide_eq_true_eq]
      exact ⟨h.1, memWfFrom_filter p r (a + 1) h.2⟩
    · rw [List.filter_cons_of_neg hp]
      exact memWfFrom_mono _ (a + 1) lo (memWfFrom_filter p r (a + 1) h.2) (by omega)

/-- Clearing a range keeps the canonical form. -/
theorem memWf_zero (m : Memory) (a n : Nat) (h : memWf m = true) : memWf (memZero m a n) = true := memWfFrom_filter _ m 0 h

/-- Writing entry after entry keeps the canonical form. -/
theorem memWf_fold {α : Type} (f : α → Nat) (g : α → Byte) : ∀ (xs : List α) (m : Memory), memWf m = true →
    memWf (xs.foldl (fun x c => memSet x (f c) (g c)) m) = true
  | [], _, h => h
  | c :: r, m, h => memWf_fold f g r (memSet m (f c) (g c)) (memWf_set m (f c) (g c) h)

/-- Copying a range keeps the canonical form. -/
theorem memWf_copy (m : Memory) (a b n : Nat) (h : memWf m = true) : memWf (memCopy m a b n) = true :=
  memWf_fold (fun c : Host.Cell => b + c.1) (fun c => c.2) (memSlice m a n) (memZero m b n) (memWf_zero m b n h)

/-- Moving every address down by a, no entry lying below it, keeps the canonical form. -/
theorem memWfFrom_shift (a : Nat) : ∀ (m : Memory) (lo : Nat), memWfFrom lo m = true → a ≤ lo →
    memWfFrom (lo - a) (m.map fun c => (c.1 - a, c.2)) = true
  | [], _, _, _ => rfl
  | (x, b) :: r, lo, h, ha => by
    simp only [memWfFrom, Bool.and_eq_true, decide_eq_true_eq] at h
    simp only [List.map_cons, memWfFrom, Bool.and_eq_true, decide_eq_true_eq]
    refine ⟨⟨by omega, h.1.2⟩, ?_⟩
    have e : x + 1 - a = x - a + 1 := by omega
    rw [← e]
    exact memWfFrom_shift a r (x + 1) h.2 (by omega)

/-- Every entry of a filtered memory is above a when the filter says so. -/
theorem memWfFrom_raise (a : Nat) : ∀ (m : Memory) (lo : Nat), memWfFrom lo m = true → (∀ c ∈ m, a ≤ c.1) → memWfFrom (max lo a) m = true
  | [], _, _, _ => rfl
  | (x, b) :: r, lo, h, ha => by
    simp only [memWfFrom, Bool.and_eq_true, decide_eq_true_eq] at h ⊢
    have := ha (x, b) (by simp)
    exact ⟨⟨by simp only at this; omega, h.1.2⟩, h.2⟩

/-- A slice of a canonical memory is canonical. -/
theorem memWf_slice (m : Memory) (a n : Nat) (h : memWf m = true) : memWf (memSlice m a n) = true := by
  have h1 := memWfFrom_filter (fun c => decide (a ≤ c.1 ∧ c.1 < a + n)) m 0 h
  have h2 := memWfFrom_raise a _ 0 h1 (by
    intro c hc
    simp only [List.mem_filter, decide_eq_true_eq] at hc
    exact hc.2.1)
  have h3 := memWfFrom_shift a _ _ h2 (Nat.le_max_right 0 a)
  have : max 0 a - a = 0 := by omega
  rw [this] at h3
  exact h3

/-- The memory after reset is canonical. -/
theorem memWf_reset : memWf State.reset.mem = true := rfl

/-! ## Equal contents are equal lists -/

/-- A canonical memory whose bytes all read 0 is empty. -/
theorem mem_eq_nil (m : Memory) (lo : Nat) (h : memWfFrom lo m = true) (hz : ∀ x, memGet m x = 0) : m = [] := by
  cases m with
  | nil => rfl
  | cons c r =>
    obtain ⟨a, b⟩ := c
    simp only [memWfFrom, Bool.and_eq_true, decide_eq_true_eq] at h
    have := hz a
    simp [memGet] at this
    exact absurd this h.1.2

/-- Two canonical memories that read alike everywhere are the same list. -/
theorem mem_ext : ∀ (m n : Memory) (lo lo' : Nat), memWfFrom lo m = true → memWfFrom lo' n = true →
    (∀ x, memGet m x = memGet n x) → m = n
  | [], n, _, lo', _, hn, h => (mem_eq_nil n lo' hn fun x => by rw [← h x]; rfl).symm
  | (a, b) :: r, [], lo, _, hm, _, h => mem_eq_nil _ lo hm fun x => by rw [h x]; rfl
  | (a, b) :: r, (a', b') :: r', lo, lo', hm, hn, h => by
    have hm' := hm
    have hn' := hn
    simp only [memWfFrom, Bool.and_eq_true, decide_eq_true_eq] at hm' hn'
    have haa : a = a' := by
      rcases Nat.lt_trichotomy a a' with hlt | heq | hgt
      · have := h a
        have e : ¬ a' = a := by omega
        simp [memGet, e, hlt] at this
        exact absurd this hm'.1.2
      · exact heq
      · have := h a'
        have e : ¬ a = a' := by omega
        simp [memGet, e, hgt] at this
        exact absurd this.symm hn'.1.2
    subst haa
    have hb : b = b' := by have := h a; simpa [memGet] using this
    subst hb
    have : r = r' := mem_ext r r' (a + 1) (a + 1) hm'.2 hn'.2 fun x => by
      by_cases hx : x < a + 1
      · rw [memGet_below r (a + 1) x hm'.2 hx, memGet_below r' (a + 1) x hn'.2 hx]
      · have := h x
        have e1 : ¬ a = x := by omega
        have e2 : ¬ x < a := by omega
        simpa [memGet, e1, e2] using this
    rw [this]

end Sys2Proof.Machine
end

