-- ==== Sys2Proof/Laws/Points.lean ====
section
/-! SUPPORT. What a convergence point does, once and for all (R15, R91 to R97): the last arrival executes it, every fibre of its
scope passes at its own clock, a fibre guarded on holds its result, and a uniform register is written once. -/

namespace Sys2Proof.Machine

variable {s : State} {e : Env} {i : Instr} {g len wt : Nat}

/-- A fibre is found again where it was replaced. -/
theorem fibre?_setF {f x : Fibre} (h : s.fibre? f.ref = some x) : (s.setF f).fibre? f.ref = some f := by
  simp only [State.fibre?, State.setF] at h ⊢
  generalize s.fibres = l at h
  induction l with
  | nil => simp at h
  | cons y r ih =>
    by_cases hy : y.ref = f.ref
    · simp [hy]
    · simp only [List.map_cons, List.find?_cons, hy, decide_false, if_false] at h ⊢
      exact ih h

/-- Another fibre is found as it was. -/
theorem fibre?_setF_other {f : Fibre} {r : FRef} (h : f.ref ≠ r) : (s.setF f).fibre? r = s.fibre? r := by
  simp only [State.fibre?, State.setF]
  generalize s.fibres = l
  induction l with
  | nil => rfl
  | cons y t ih =>
    by_cases hy : y.ref = f.ref
    · simp [hy, h, ih]
    · by_cases hr : y.ref = r
      · simp [hr, hr ▸ hy]
      · simp [hy, hr, ih]

/-- A fibre that has arrived stands at its point. -/
theorem arrived_fibre (h : Runs s e) : (arrived s e i).fibre? e.f.ref = some { e.f with st := .conv i } := by
  obtain ⟨hr, ⟨x, hx⟩, -⟩ := runs_parts h
  exact fibre?_setF (f := { e.f with st := .conv i }) (hr ▸ hx)

/-- A launch that is not being pre-empted stops none of its fibres in a wait. -/
theorem arrived_moves (h : Runs s e) (hp : e.l.preempt = none) : (arrived s e i).preempting e.f.ref = false := by
  obtain ⟨hr, -, hl, -⟩ := runs_parts h
  have hl' : (arrived s e i).launch? e.f.ref.wref.launch = some e.l := by rw [hr]; exact hl
  simp [State.preempting, hl', hp]

/-- The last fibre to arrive executes the point (R15). -/
theorem arriveAt_last {sc : Scope} {fire : Fire} {u : State} (h : LastAt s sc e i)
    (hf : fire (arrived s e i) (meeting s sc e i) = some u) : arriveAt s sc i fire = .next u.ticked := by
  have h1 := arrived_fibre (i := i) h.1
  have h2 : tryFire (arrived s e i) sc i fire e.f.ref = some u := by
    simp only [tryFire, h1]
    rw [if_pos (by simp [h.2.2, arrived_moves h.1 h.2.1])]
    exact hf
  simp only [arriveAt, withCur_runs h.1]
  simp only [arrived] at h2
  rw [h2]

/-- A fibre that is not the last waits at the point (R15). -/
theorem arriveAt_waits {sc : Scope} {fire : Fire} (h : Runs s e)
    (hw : ((arrived s e i).scopeOf sc e.f.ref).all (waitsAt { e.f with st := .conv i } i) = false) :
    arriveAt s sc i fire = .next (arrived s e i).ticked := by
  have h1 := arrived_fibre (i := i) h
  have h2 : tryFire (arrived s e i) sc i fire e.f.ref = none := by
    simp only [tryFire, h1]
    rw [if_neg (by simp [hw])]
  simp only [arriveAt, withCur_runs h]
  simp only [arrived] at h2
  rw [h2]
  rfl

/-- Every fibre of a point passes it when each has room for its weight. -/
theorem passAll_room : ∀ (es : List Env) (t : State), (∀ x ∈ es, Room x wt) → passAll t es len wt = passEach t es len wt Env.f
  | [], _, _ => rfl
  | x :: r, t, h => by
    simp only [passAll, passEach, List.foldl_cons]
    rw [pass_room (h x (by simp))]
    exact passAll_room r _ fun y hy => h y (by simp [hy])

/-- A fibre with room for the weight of a point does not fault there for its clock. -/
theorem overflowStop_room {x : Env} {r : Except Stop Fibre} (h : Room x wt) : overflowStop wt x r = r := by
  unfold overflowStop
  split
  · have : overflows x.f wt = false := by simp only [overflows, decide_eq_false_iff_not]; unfold Room at h; omega
    simp [this]
  · rfl

/-- A point with a result for each fibre: every fibre passes, and one guarded on holds its result (R91). -/
theorem firePer_ok {res : List Env → Env → Except Stop Fibre} {val : Env → Fibre} {es : List Env}
    (hr : ∀ x ∈ es, Room x 1) (hv : ∀ x ∈ es, x.f.pred g = true → res es x = .ok (val x)) (t : State) :
    firePer g res t es = some (passEach t es 1 1 (ifOn g val)) := by
  have hv' : ∀ x ∈ es, x.f.pred g = true → overflowStop 1 x (res es x) = .ok (val x) := fun x hx hg => by
    rw [overflowStop_room (hr x hx), hv x hx hg]
  have hany : (es.any fun x => ((if x.f.pred g then some (overflowStop 1 x (res es x)) else none).map isWait).getD false) = false := by
    rw [List.any_eq_false]
    intro x hx
    by_cases hg : x.f.pred g = true
    · simp [hg, hv' x hx hg, isWait]
    · simp [hg]
  have hdone : (es.all (fun x => (if x.f.pred g then some (overflowStop 1 x (res es x)) else none).isNone) ||
      es.any fun x => hasResult (if x.f.pred g then some (overflowStop 1 x (res es x)) else none)) = true := by
    by_cases hc : ∃ x ∈ es, x.f.pred g = true
    · obtain ⟨x, hx, hg⟩ := hc
      rw [Bool.or_eq_true]
      right
      rw [List.any_eq_true]
      exact ⟨x, hx, by simp [hg, hv' x hx hg, hasResult]⟩
    · rw [Bool.or_eq_true]
      left
      rw [List.all_eq_true]
      intro x hx
      have : x.f.pred g = false := by
        cases hg : x.f.pred g
        · rfl
        · exact absurd ⟨x, hx, hg⟩ hc
      simp [this]
  have hfold : ∀ (l : List Env) (t : State), (∀ x ∈ l, x ∈ es) →
      l.foldl (fun t x => passOne true t x (if x.f.pred g then some (overflowStop 1 x (res es x)) else none)) t = passEach t l 1 1 (ifOn g val) := by
    intro l
    induction l with
    | nil => intros; rfl
    | cons x r ih =>
      intro t hl
      simp only [List.foldl_cons, passEach]
      rw [ih _ fun y hy => hl y (by simp [hy])]
      simp only [passEach]
      congr 1
      have hx := hl x (by simp)
      by_cases hg : x.f.pred g = true
      · simp [hg, hv' x hx hg, passOne, ifOn, pass_room (hr x hx)]
      · simp [hg, passOne, ifOn, pass_room (hr x hx)]
  simp only [firePer, hany, hdone]
  simp [hfold es t fun _ h => h]

/-- A point with one uniform result: it is written once when some fibre is guarded on, and stays otherwise (R94, R97). p is the
warp that every fibre of the point belongs to. -/
theorem fireUni_ok {o : Option Nat} {val : List Env → Warp → Except Stop (Warp → Warp)} {upd : Warp → Warp} {p : Warp} {es : List Env}
    (hr : ∀ x ∈ es, Room x wt) (hp : ∀ x ∈ es, x.p = p)
    (hu : p.uouts = []) (hv : val (es.filter fun x => guardOn x.f o) p = .ok upd) (t : State) :
    fireUni o len wt val t es =
      some (passEach (if es.any (fun x => guardOn x.f o) then t.updWarp p.wref p.j upd else t) es len wt Env.f) := by
  unfold fireUni
  simp only
  cases hc : es.filter fun x => guardOn x.f o with
  | nil =>
    have : es.any (fun x => guardOn x.f o) = false := by
      rw [List.filter_eq_nil_iff] at hc
      simpa [List.any_eq_false] using hc
    simp [this, passAll_room es t hr]
  | cons x c =>
    have hx : x ∈ es.filter fun x => guardOn x.f o := by simp [hc]
    rw [List.mem_filter] at hx
    have hany : es.any (fun x => guardOn x.f o) = true := List.any_eq_true.2 ⟨x, hx⟩
    simp only [hany, if_true]
    have ho : overflows x.f wt = false := by
      have := hr x hx.1
      simp only [overflows, decide_eq_false_iff_not]; unfold Room at this; omega
    rw [hp x hx.1, ← hc, hv, hc]
    simp [hu, uniDone, ho, passAll_room es _ hr]

/-- The fibres of a warp point belong to the current fibre's warp, and the last arrival's surroundings are its own. -/
theorem meeting_warp (h : Runs s e) : ∀ x ∈ meeting s .warp e i, x.p = e.p ∧ x.l = e.l ∧ x.w = e.w := by
  intro x hx
  simp only [meeting, List.mem_filterMap] at hx
  obtain ⟨f, hf, hxe⟩ := hx
  have he := runs_parts h
  have hx := env_parts hxe
  simp only [State.scopeOf, State.warpFibres, List.mem_filter, decide_eq_true_eq] at hf
  obtain ⟨-, hw, hj⟩ := hf
  obtain ⟨hr, -, he⟩ := he
  rw [← hr] at he
  obtain ⟨-, hl, hwg, hp⟩ := hx
  rw [hw] at hl hwg
  rw [hw, hj] at hp
  have hl' : (arrived s e i).launch? e.f.ref.wref.launch = s.launch? e.f.ref.wref.launch := rfl
  have hwg' : (arrived s e i).wg? e.f.ref.wref = s.wg? e.f.ref.wref := rfl
  have hp' : (arrived s e i).warp? e.f.ref.wref e.f.ref.warp = s.warp? e.f.ref.wref e.f.ref.warp := rfl
  rw [hl', he.1] at hl
  rw [hwg', he.2.1] at hwg
  rw [hp', he.2.2] at hp
  exact ⟨(Option.some.inj hp).symm, (Option.some.inj hl).symm, (Option.some.inj hwg).symm⟩

/-- The values of one register over fibres that hold it, lane by lane (R91, R92). -/
theorem laneVals_ok {c : List Env} {a : Nat} (h : ∀ x ∈ byLane c, Held x.f [a] ∧ Here x.f [a]) :
    laneVals c a = .ok ((byLane c).map fun x => (x.f.ref.lane, x.f.val a)) := by
  have h1 : ∀ l : List Env, (∀ x ∈ l, Held x.f [a] ∧ Here x.f [a]) → ∃ us, l.mapM (m := Except Stop) (fun x => vchk x.f [a]) = .ok us := by
    intro l hl
    induction l with
    | nil => exact ⟨[], rfl⟩
    | cons x r ih =>
      obtain ⟨us, hu⟩ := ih fun y hy => hl y (by simp [hy])
      exact ⟨() :: us, by simp [List.mapM_cons, vchk_held (hl x (by simp)).1, hu, bind, Except.bind, pure, Except.pure]⟩
  have h2 : ∀ l : List Env, (∀ x ∈ l, Held x.f [a] ∧ Here x.f [a]) →
      (l.mapM (m := Except Stop) fun x => do
        let y ← vget x.f a
        .ok (x.f.ref.lane, y)) = .ok (l.map fun x => (x.f.ref.lane, x.f.val a)) := by
    intro l hl
    induction l with
    | nil => rfl
    | cons x r ih =>
      rw [List.mapM_cons, ih fun y hy => hl y (by simp [hy])]
      simp [vget_here (hl x (by simp)).2, bind, Except.bind, pure, Except.pure]
  obtain ⟨us, hu⟩ := h1 _ h
  rw [laneVals, hu, h2 _ h]
  rfl

/-- The register of one live source lane, or the reader's own (R92). -/
theorem laneRead_ok {es : List Env} {x : Env} {lane a : Nat} (hv : Held (inLane es lane x) [a]) (hr : Here (inLane es lane x) [a]) :
    laneRead es x lane a = .ok ((inLane es lane x).val a) := by
  simp only [inLane] at hv hr ⊢
  simp [laneRead, vchk_held hv, vget_here hr, bind, Except.bind]

end Sys2Proof.Machine
end

