-- ==== Sys2Proof/Tests/Slice0.lean ====
section
/-! SUPPORT. The model's own tests: an ill-formed term for each check, the words of the opcode table, one step of each
instruction on a small state with results calculated by hand from the rule named, and for every statement a state and operands
that meet its premises. -/

section

set_option Elab.async false

open Sys2Proof Sys2Proof.Machine

/-! ## The smoke of WellFormed: an ill-formed term for each check -/

theorem test_refuses_registers : (Instr.add 64 0 0 0).wellFormed = false ∧ (Instr.addw 3 0 0 0).wellFormed = false ∧
    (Instr.addw 64 0 0 0).wellFormed = false ∧ (Instr.ldq 2 0 0).wellFormed = false ∧ (Instr.add 0 0 0 16).wellFormed = false ∧
    (Instr.icmpEq 3 0 0 0).wellFormed = false ∧ (Instr.icmpEq 16 0 0 0).wellFormed = false ∧ (Instr.hclose 4 0).wellFormed = false ∧
    (Instr.jmp 8 0).wellFormed = false := by decide

theorem test_refuses_immediates : (Instr.addi 0 0 1024).wellFormed = false ∧ (Instr.shli 0 0 64).wellFormed = false ∧
    (Instr.dset 0 256).wellFormed = false ∧ (Instr.bar 4).wellFormed = false ∧ (Instr.pset 0 2).wellFormed = false ∧
    (Instr.setrm 5).wellFormed = false ∧ (Instr.wrsr 0 11).wellFormed = false ∧ (Instr.wrsr 0 15).wellFormed = false ∧
    (Instr.prep 0 524288).wellFormed = false ∧ (Instr.call 0 0 32).wellFormed = false := by decide

theorem test_refuses_commands : (Instr.mmf 0 0 0 0 63 63 63 0 1).wellFormed = false ∧ (Instr.mmf 0 0 0 0 0 64 63 0 1).wellFormed = false ∧
    (Instr.mmf 0 0 0 0 0 63 63 0 0).wellFormed = false ∧ (Instr.mmf 0 0 0 0 0 63 63 0 256).wellFormed = false ∧
    (Instr.mmf 0 0 0 2 0 63 63 0 1).wellFormed = false ∧ (Instr.mmt 0 0 0 4 0 63 63 0 1).wellFormed = false ∧
    (Instr.cpy 0 0 2 0 0 0 0 0).wellFormed = false ∧ (Instr.cpyr 0 0 6 0 0 0 0 0).wellFormed = false ∧
    (Instr.gath 0 0 1 0 0 0 0 1).wellFormed = false ∧ (Instr.scat 0 0 2 0 0 0 0 1).wellFormed = false ∧
    (Instr.cpy 0 0 0 0 0 0 1 0).wellFormed = false ∧ (Instr.gath 0 0 0 0 0 0 0 0).wellFormed = false ∧
    (Instr.gath 0 0 0 0 0 0 0 1025).wellFormed = false ∧ (Instr.ph 4 0 0 0 0).wellFormed = false ∧
    (Instr.ph 0 0 0 4096 0).wellFormed = false ∧ (Instr.ph 0 0 0 1 4096).wellFormed = false := by decide

theorem test_refuses_fibres : (Instr.clauseEntry ⟨⟨⟨0, 0⟩, 0⟩, 0, 32⟩).wellFormed = false ∧
    (Instr.clauseEntry ⟨⟨⟨0, 0⟩, 0⟩, 32, 0⟩).wellFormed = false ∧
    (Instr.hostFaultQueueEntry (.fibre ⟨⟨⟨0, 0⟩, 0⟩, 0, 32⟩)).wellFormed = false := by decide

/-- Words with a reserved field, and an opcode without an instruction, do not decode (R32, R48). -/
theorem test_rejects_words : decode [0x84000010#32] = .bad .reserved ∧ decode [0x83C00400#32] = .bad .reserved ∧
    decode [0x0FC00000#32] = .bad .undecoded ∧ decode [0x81000008#32] = .bad .reserved ∧ decode [0x04800010#32] = .bad .reserved ∧
    decode [0x18090003#32] = .bad .truncated := by decide +kernel

/-! ## Words written out from the formats (R33 to R39) and the opcodes (R51) -/

theorem test_decode_integer_1 :
    decode [0x00074199#32] = .ok (.add 7 16 25 9) [] ∧
    decode [0x00474199#32] = .ok (.sub 7 16 25 9) [] ∧
    decode [0x00874199#32] = .ok (.mul 7 16 25 9) [] ∧
    decode [0x00C74199#32] = .ok (.mulh 7 16 25 9) [] ∧
    decode [0x01074199#32] = .ok (.mulhu 7 16 25 9) [] ∧
    decode [0x014B4199#32] = .ok (.mad 11 16 25 9) [] ∧
    decode [0x01874199#32] = .ok (.and 7 16 25 9) [] ∧
    decode [0x01C74199#32] = .ok (.or 7 16 25 9) [] ∧
    decode [0x02074199#32] = .ok (.xor 7 16 25 9) [] ∧
    decode [0x02474199#32] = .ok (.shl 7 16 25 9) [] ∧
    decode [0x02874199#32] = .ok (.shr 7 16 25 9) [] ∧
    decode [0x02C74199#32] = .ok (.sar 7 16 25 9) [] := by
  decide +kernel

theorem test_decode_integer_2 :
    decode [0x03074199#32] = .ok (.min 7 16 25 9) [] ∧
    decode [0x03474199#32] = .ok (.max 7 16 25 9) [] ∧
    decode [0x03874199#32] = .ok (.minu 7 16 25 9) [] ∧
    decode [0x03C74199#32] = .ok (.maxu 7 16 25 9) [] ∧
    decode [0x04074199#32] = .ok (.adds 7 16 25 9) [] ∧
    decode [0x04474199#32] = .ok (.subs 7 16 25 9) [] ∧
    decode [0x04874009#32] = .ok (.abs 7 16 9) [] ∧
    decode [0x04C74009#32] = .ok (.neg 7 16 9) [] ∧
    decode [0x05074009#32] = .ok (.clz 7 16 9) [] ∧
    decode [0x05474009#32] = .ok (.popc 7 16 9) [] ∧
    decode [0x05874009#32] = .ok (.brev 7 16 9) [] ∧
    decode [0x05C74199#32] = .ok (.bfe 7 16 25 9) [] := by
  decide +kernel

theorem test_decode_integer_3 :
    decode [0x060B4199#32] = .ok (.bfi 11 16 25 9) [] ∧
    decode [0x06474199#32] = .ok (.sel 7 16 25 9) [] ∧
    decode [0x06874199#32] = .ok (.div 7 16 25 9) [] ∧
    decode [0x06C74199#32] = .ok (.divu 7 16 25 9) [] ∧
    decode [0x07074199#32] = .ok (.rem 7 16 25 9) [] ∧
    decode [0x07474199#32] = .ok (.remu 7 16 25 9) [] ∧
    decode [0x078A49A9#32] = .ok (.addw 10 18 26 9) [] ∧
    decode [0x07CA49A9#32] = .ok (.subw 10 18 26 9) [] ∧
    decode [0x080A4999#32] = .ok (.shlw 10 18 25 9) [] ∧
    decode [0x08474009#32] = .ok (.mov 7 16 9) [] ∧
    decode [0x088B4199#32] = .ok (.dp4a 11 16 25 9) [] := by
  decide +kernel

theorem test_decode_immediate :
    decode [0x100742A5#32] = .ok (.addi 7 16 677) [] ∧
    decode [0x104742A5#32] = .ok (.andi 7 16 677) [] ∧
    decode [0x108742A5#32] = .ok (.ori 7 16 677) [] ∧
    decode [0x10C742A5#32] = .ok (.xori 7 16 677) [] ∧
    decode [0x11074025#32] = .ok (.shli 7 16 37) [] ∧
    decode [0x11474025#32] = .ok (.shri 7 16 37) [] ∧
    decode [0x11874025#32] = .ok (.sari 7 16 37) [] ∧
    decode [0x11C742A5#32] = .ok (.muli 7 16 677) [] ∧
    decode [0x120A4AA5#32] = .ok (.addwi 10 18 677) [] ∧
    decode [0x124702A5#32] = .ok (.movi 7 677) [] := by
  decide +kernel

theorem test_decode_literal :
    decode [0x1829000C#32, 0xDEADBEEF#32] = .ok (.li 41 12 0xDEADBEEF#32) [] := by
  decide +kernel

theorem test_decode_compare :
    decode [0x1C064199#32] = .ok (.icmpEq 6 16 25 9) [] ∧
    decode [0x1C464199#32] = .ok (.icmpNe 6 16 25 9) [] ∧
    decode [0x1C864199#32] = .ok (.icmpLt 6 16 25 9) [] ∧
    decode [0x1CC64199#32] = .ok (.icmpLe 6 16 25 9) [] ∧
    decode [0x1D064199#32] = .ok (.icmpLtu 6 16 25 9) [] ∧
    decode [0x1D464199#32] = .ok (.icmpLeu 6 16 25 9) [] := by
  decide +kernel

theorem test_decode_compare_immediate :
    decode [0x1E0642A5#32] = .ok (.icmpiEq 6 16 677) [] ∧
    decode [0x1E4642A5#32] = .ok (.icmpiNe 6 16 677) [] ∧
    decode [0x1E8642A5#32] = .ok (.icmpiLt 6 16 677) [] ∧
    decode [0x1EC642A5#32] = .ok (.icmpiLe 6 16 677) [] ∧
    decode [0x1F0642A5#32] = .ok (.icmpiLtu 6 16 677) [] ∧
    decode [0x1F4642A5#32] = .ok (.icmpiLeu 6 16 677) [] := by
  decide +kernel

theorem test_decode_lane_1 :
    decode [0x20074199#32] = .ok (.shfl 7 16 25 9) [] ∧
    decode [0x20474199#32] = .ok (.shflx 7 16 25 9) [] ∧
    decode [0x208741F9#32] = .ok (.bcast 7 16 31 9) [] ∧
    decode [0x20C62009#32] = .ok (.voteany 6 8 9) [] ∧
    decode [0x21062009#32] = .ok (.voteall 6 8 9) [] ∧
    decode [0x21492009#32] = .ok (.ballot 9 8 9) [] ∧
    decode [0x21894009#32] = .ok (.redadd 9 16 9) [] ∧
    decode [0x21C94009#32] = .ok (.redmin 9 16 9) [] ∧
    decode [0x22094009#32] = .ok (.redmax 9 16 9) [] ∧
    decode [0x22474009#32] = .ok (.scanadd 7 16 9) [] ∧
    decode [0x22860009#32] = .ok (.elect 6 9) [] ∧
    decode [0x22C60009#32] = .ok (.electw 6 9) [] := by
  decide +kernel

theorem test_decode_lane_2 :
    decode [0x23070009#32] = .ok (.lid 7 9) [] ∧
    decode [0x23475009#32] = .ok (.movs 7 20 9) [] ∧
    decode [0x238702A5#32] = .ok (.rdsr 7 677) [] ∧
    decode [0x23C01C0D#32] = .ok (.wrsr 7 13) [] := by
  decide +kernel

theorem test_decode_uniform_1 :
    decode [0x280951F9#32] = .ok (.uadd 9 20 31 9) [] ∧
    decode [0x284951F9#32] = .ok (.usub 9 20 31 9) [] ∧
    decode [0x288951F9#32] = .ok (.umul 9 20 31 9) [] ∧
    decode [0x28C951F9#32] = .ok (.uand 9 20 31 9) [] ∧
    decode [0x290951F9#32] = .ok (.uor 9 20 31 9) [] ∧
    decode [0x294951F9#32] = .ok (.uxor 9 20 31 9) [] ∧
    decode [0x298951F9#32] = .ok (.ushl 9 20 31 9) [] ∧
    decode [0x29C951F9#32] = .ok (.ushr 9 20 31 9) [] ∧
    decode [0x2A1261E9#32] = .ok (.uaddw 18 24 30 9) [] ∧
    decode [0x2A495009#32] = .ok (.umov 9 20 9) [] ∧
    decode [0x2A8941F9#32] = .ok (.uget 9 16 31 9) [] ∧
    decode [0x2AC952A5#32] = .ok (.uaddi 9 20 677) [] := by
  decide +kernel

theorem test_decode_uniform_2 :
    decode [0x2B29000C#32, 0xDEADBEEF#32] = .ok (.uli 41 12 0xDEADBEEF#32) [] := by
  decide +kernel

theorem test_decode_predicate :
    decode [0x300520B9#32] = .ok (.pand 5 8 11 9) [] ∧
    decode [0x304520B9#32] = .ok (.por 5 8 11 9) [] ∧
    decode [0x308520B9#32] = .ok (.pxor 5 8 11 9) [] ∧
    decode [0x30C520B9#32] = .ok (.pandn 5 8 11 9) [] ∧
    decode [0x31050001#32] = .ok (.pset 5 1) [] ∧
    decode [0x31470009#32] = .ok (.pget 7 9) [] ∧
    decode [0x31801C09#32] = .ok (.pput 7 9) [] := by
  decide +kernel

theorem test_decode_float_1 :
    decode [0x40074199#32] = .ok (.fadd 7 16 25 9) [] ∧
    decode [0x40474199#32] = .ok (.fsub 7 16 25 9) [] ∧
    decode [0x40874199#32] = .ok (.fmul 7 16 25 9) [] ∧
    decode [0x40CB4199#32] = .ok (.ffma 11 16 25 9) [] ∧
    decode [0x410B4199#32] = .ok (.ffms 11 16 25 9) [] ∧
    decode [0x41474199#32] = .ok (.fmin 7 16 25 9) [] ∧
    decode [0x41874199#32] = .ok (.fmax 7 16 25 9) [] ∧
    decode [0x41C74009#32] = .ok (.fabs 7 16 9) [] ∧
    decode [0x42074009#32] = .ok (.fneg 7 16 9) [] ∧
    decode [0x42474199#32] = .ok (.fdiv 7 16 25 9) [] ∧
    decode [0x42874009#32] = .ok (.fsqrt 7 16 9) [] ∧
    decode [0x42C74009#32] = .ok (.frcp 7 16 9) [] := by
  decide +kernel

theorem test_decode_float_2 :
    decode [0x43074009#32] = .ok (.frsq 7 16 9) [] ∧
    decode [0x43474009#32] = .ok (.fex2 7 16 9) [] ∧
    decode [0x43874009#32] = .ok (.flg2 7 16 9) [] ∧
    decode [0x43C74009#32] = .ok (.frnd 7 16 9) [] ∧
    decode [0x44074009#32] = .ok (.fcls 7 16 9) [] ∧
    decode [0x44474199#32] = .ok (.fscl 7 16 25 9) [] ∧
    decode [0x44864199#32] = .ok (.fcmpEq 6 16 25 9) [] ∧
    decode [0x44C64199#32] = .ok (.fcmpLt 6 16 25 9) [] ∧
    decode [0x45064199#32] = .ok (.fcmpLe 6 16 25 9) [] ∧
    decode [0x45464199#32] = .ok (.fcmpUn 6 16 25 9) [] ∧
    decode [0x45874199#32] = .ok (.hadd2 7 16 25 9) [] ∧
    decode [0x45C74199#32] = .ok (.hmul2 7 16 25 9) [] := by
  decide +kernel

theorem test_decode_float_3 :
    decode [0x460B4199#32] = .ok (.hfma2 11 16 25 9) [] ∧
    decode [0x46474199#32] = .ok (.badd2 7 16 25 9) [] ∧
    decode [0x46874199#32] = .ok (.bmul2 7 16 25 9) [] ∧
    decode [0x46CB4199#32] = .ok (.bfma2 11 16 25 9) [] ∧
    decode [0x470B4199#32] = .ok (.dp2h 11 16 25 9) [] ∧
    decode [0x474B4199#32] = .ok (.dp2b 11 16 25 9) [] := by
  decide +kernel

theorem test_decode_convert_1 :
    decode [0x50074009#32] = .ok (.cvtfi 7 16 9) [] ∧
    decode [0x50474009#32] = .ok (.cvtfu 7 16 9) [] ∧
    decode [0x50874009#32] = .ok (.cvtif 7 16 9) [] ∧
    decode [0x50C74009#32] = .ok (.cvtuf 7 16 9) [] ∧
    decode [0x51074199#32] = .ok (.cvth 7 16 25 9) [] ∧
    decode [0x51474009#32] = .ok (.cvthl 7 16 9) [] ∧
    decode [0x51874009#32] = .ok (.cvthh 7 16 9) [] ∧
    decode [0x51C74199#32] = .ok (.cvtb 7 16 25 9) [] ∧
    decode [0x52074009#32] = .ok (.cvtbl 7 16 9) [] ∧
    decode [0x52474009#32] = .ok (.cvtbh 7 16 9) [] ∧
    decode [0x52874199#32] = .ok (.cvte4 7 16 25 9) [] ∧
    decode [0x52C74009#32] = .ok (.cvte4f 7 16 9) [] := by
  decide +kernel

theorem test_decode_convert_2 :
    decode [0x53074199#32] = .ok (.cvte5 7 16 25 9) [] ∧
    decode [0x53474009#32] = .ok (.cvte5f 7 16 9) [] ∧
    decode [0x53800004#32] = .ok (.setrm 4) [] := by
  decide +kernel

theorem test_decode_control_1 :
    decode [0x80000009#32] = .ok (.nop 9) [] ∧
    decode [0x806EABCD#32] = .ok (.prep 5 437197) [] ∧
    decode [0x80844809#32] = .ok (.prepr 4 18 9) [] ∧
    decode [0x80EC8000#32] = .ok (.jmp 5 9) [] ∧
    decode [0x812CA600#32] = .ok (.call 5 9 19) [] ∧
    decode [0x817CA600#32] = .ok (.ret 9 19) [] ∧
    decode [0x81ACC200#32] = .ok (.fork 5 9 33) [] ∧
    decode [0x81C00009#32] = .ok (.halt 9) [] ∧
    decode [0x82000009#32] = .ok (.wsync 9) [] ∧
    decode [0x82400003#32] = .ok (.bar 3) [] ∧
    decode [0x82800003#32] = .ok (.arv 3) [] ∧
    decode [0x82C00003#32] = .ok (.bwait 3) [] := by
  decide +kernel

theorem test_decode_control_2 :
    decode [0x83000009#32] = .ok (.cede 9) [] ∧
    decode [0x83402909#32] = .ok (.waitne 10 16 9) [] ∧
    decode [0x838002A5#32] = .ok (.clk 677) [] ∧
    decode [0x83C002A5#32] = .ok (.trap 677) [] ∧
    decode [0x84000009#32] = .ok (.brk 9) [] ∧
    decode [0x84400002#32, 0x89ABCDEF#32, 0x01234567#32, 0x01230456#32] = .ok (.ph 2 0x89ABCDEF#32 0x01234567#32 0x123 0x456) [] ∧
    decode [0x84802909#32] = .ok (.icinv 10 16 9) [] ∧
    decode [0x84C74009#32] = .ok (.dbgm 7 16 9) [] := by
  decide +kernel

theorem test_decode_matrix :
    decode [0xA03694F1#32, 0xF7F4569B#32] = .ok (.mmf 13 165 60 1 61 63 17 22 155) [] ∧
    decode [0xA07694F3#32, 0xF7F4569B#32] = .ok (.mmt 13 165 60 3 61 63 17 22 155) [] ∧
    decode [0xA0830009#32] = .ok (.mzero 3 9) [] ∧
    decode [0xA0C360A7#32] = .ok (.mld 3 24 167) [] ∧
    decode [0xA10360A7#32] = .ok (.mst 3 24 167) [] ∧
    decode [0xA1400009#32] = .ok (.mcommit 9) [] ∧
    decode [0xA1800025#32] = .ok (.mwait 37) [] ∧
    decode [0xA1C71D99#32] = .ok (.mrd 7 7 25 9) [] ∧
    decode [0xA2034199#32] = .ok (.mwr 3 16 25 9) [] ∧
    decode [0xA2435009#32] = .ok (.mscale 3 20 9) [] := by
  decide +kernel

theorem test_decode_memory_1 :
    decode [0xC0074AA5#32] = .ok (.ldb 7 18 677) [] ∧
    decode [0xC0474AA5#32] = .ok (.ldsb 7 18 677) [] ∧
    decode [0xC0874AA5#32] = .ok (.ldh 7 18 677) [] ∧
    decode [0xC0C74AA5#32] = .ok (.ldsh 7 18 677) [] ∧
    decode [0xC1074AA5#32] = .ok (.ldw 7 18 677) [] ∧
    decode [0xC14A4AA5#32] = .ok (.ldd 10 18 677) [] ∧
    decode [0xC18C4AA5#32] = .ok (.ldq 12 18 677) [] ∧
    decode [0xC1CD4AA5#32] = .ok (.stb 13 18 677) [] ∧
    decode [0xC20D4AA5#32] = .ok (.sth 13 18 677) [] ∧
    decode [0xC24D4AA5#32] = .ok (.stw 13 18 677) [] ∧
    decode [0xC28E4AA5#32] = .ok (.std 14 18 677) [] ∧
    decode [0xC2D44AA5#32] = .ok (.stq 20 18 677) [] := by
  decide +kernel

theorem test_decode_memory_2 :
    decode [0xC30962A5#32] = .ok (.uldw 9 24 677) [] ∧
    decode [0xC35262A5#32] = .ok (.uldd 18 24 677) [] ∧
    decode [0xC3802AA5#32] = .ok (.pf 10 677) [] ∧
    decode [0xC3C04949#32] = .ok (.pin 18 20 9) [] ∧
    decode [0xC4004949#32] = .ok (.unpin 18 20 9) [] := by
  decide +kernel

theorem test_decode_indexed :
    decode [0xC8076199#32] = .ok (.ldbx 7 24 25 9) [] ∧
    decode [0xC8476199#32] = .ok (.ldhx 7 24 25 9) [] ∧
    decode [0xC8876199#32] = .ok (.ldwx 7 24 25 9) [] ∧
    decode [0xC8CA6199#32] = .ok (.lddx 10 24 25 9) [] ∧
    decode [0xC90D6199#32] = .ok (.stbx 13 24 25 9) [] ∧
    decode [0xC94D6199#32] = .ok (.sthx 13 24 25 9) [] ∧
    decode [0xC98D6199#32] = .ok (.stwx 13 24 25 9) [] ∧
    decode [0xC9CE6199#32] = .ok (.stdx 14 24 25 9) [] := by
  decide +kernel

theorem test_decode_atomic_1 :
    decode [0xD0074999#32] = .ok (.amoadd 7 18 25 9) [] ∧
    decode [0xD0474999#32] = .ok (.amomin 7 18 25 9) [] ∧
    decode [0xD0874999#32] = .ok (.amomax 7 18 25 9) [] ∧
    decode [0xD0C74999#32] = .ok (.amominu 7 18 25 9) [] ∧
    decode [0xD1074999#32] = .ok (.amomaxu 7 18 25 9) [] ∧
    decode [0xD1474999#32] = .ok (.amoand 7 18 25 9) [] ∧
    decode [0xD1874999#32] = .ok (.amoor 7 18 25 9) [] ∧
    decode [0xD1C74999#32] = .ok (.amoxor 7 18 25 9) [] ∧
    decode [0xD2074999#32] = .ok (.amoxchg 7 18 25 9) [] ∧
    decode [0xD24749A9#32] = .ok (.amocas 7 18 26 9) [] ∧
    decode [0xD2874999#32] = .ok (.amofadd 7 18 25 9) [] ∧
    decode [0xD2C74999#32] = .ok (.amofmin 7 18 25 9) [] := by
  decide +kernel

theorem test_decode_atomic_2 :
    decode [0xD3074999#32] = .ok (.amofmax 7 18 25 9) [] ∧
    decode [0xD34A49A9#32] = .ok (.amoaddw 10 18 26 9) [] := by
  decide +kernel

theorem test_decode_turn :
    decode [0xD4000009#32] = .ok (.turn 9) [] := by
  decide +kernel

theorem test_decode_copy :
    decode [0xE02CA51B#32, 0xC3940000#32] = .ok (.cpy 44 165 1 11 195 37 0 0) [] ∧
    decode [0xE06CA55B#32, 0xC3940000#32] = .ok (.cpyr 44 165 5 11 195 37 0 0) [] ∧
    decode [0xE0ACA50B#32, 0xC396D3FF#32] = .ok (.gath 44 165 0 11 195 37 45 1023) [] ∧
    decode [0xE0ECA53B#32, 0xC396D3FF#32] = .ok (.scat 44 165 3 11 195 37 45 1023) [] ∧
    decode [0xE1001D09#32] = .ok (.sbinit 7 16 9) [] ∧
    decode [0xE1401D09#32] = .ok (.sbexp 7 16 9) [] ∧
    decode [0xE1801D09#32] = .ok (.sbarv 7 16 9) [] ∧
    decode [0xE1C01D09#32] = .ok (.sbwait 7 16 9) [] ∧
    decode [0xE2064199#32] = .ok (.sbtest 6 16 25 9) [] ∧
    decode [0xE24028A7#32] = .ok (.dset 10 167) [] ∧
    decode [0xE2802809#32] = .ok (.wdset 10 9) [] ∧
    decode [0xE2C01D09#32] = .ok (.wdq 7 16 9) [] := by
  decide +kernel

theorem test_decode_harp :
    decode [0xE4000929#32] = .ok (.hopen 2 18 9) [] ∧
    decode [0xE4540999#32] = .ok (.hpush 20 2 25 9) [] ∧
    decode [0xE4800809#32] = .ok (.hclose 2 9) [] ∧
    decode [0xE4C70809#32] = .ok (.hnext 7 2 9) [] ∧
    decode [0xE5000909#32] = .ok (.hdone 2 16 9) [] ∧
    decode [0xE5400809#32] = .ok (.hsync 2 9) [] := by
  decide +kernel


/-! ## One step of each instruction word -/

/-- The registers of the test fibre: small integers, -2^31, -1, 1.5, -2.0, 4.0, packed halves, and the pairs v8 = 0x40 (own
scratchpad) and v10 = 2^32 (global memory). -/
def tRegs : List Word :=
  [0, 5, 7, 0x80000000, 0xFFFFFFFF, 0x3FC00000, 0xC0000000, 0, 0x40, 0, 0, 1, 0x00010304, 0xF0F0, 0x7FC00000, 0x3C004000, 0x40004200,
   0x40003F80, 0x40404000, 0x40800000] ++ List.replicate 44 0

/-- The test fibre, at the first of four words of its clause: p2 is 1, p3 is 0. -/
def tF : Fibre := { placedFibre 0x40000000#32 [0, 0, 0, 0] with regs := tRegs, preds := 5 }

/-- The test warp: s1 = 6, s2 = 3, and the pair s4 = 0x40. -/
def tP : Warp := { placedWarp with sregs := [0, 6, 3, 0, 0x40, 0] ++ List.replicate 58 0 }

/-- One fibre in a state right after reset but for its launch. -/
def tState (f : Fibre) : State :=
  { State.reset with parts := [placedPartition], launches := [placedLaunch], wgs := [placedWg], warps := [tP], fibres := [f] }

/-- The same with a second fibre in lane 1, where v1 is 9 and v2 is 1, waiting at point i. -/
def tTwo (i : Instr) : State :=
  { tState { tF with regs := setAt tRegs 2 1 } with
    fibres := [{ tF with regs := setAt tRegs 2 1 }, { tF with ref := ⟨⟨⟨0, 0⟩, 0⟩, 0, 1⟩, uid := 1, regs := setAt (setAt tRegs 1 9) 2 1, st := .conv i }] }

/-- The state after an instruction of the current fibre. -/
def tGo (s : State) (i : Instr) : Option State :=
  match exec i s with
  | .next t => some t
  | _ => none

/-- The fibre of a lane after an instruction. -/
def tLane (s : State) (i : Instr) (k : Nat) : Option Fibre := (tGo s i).bind fun t => t.fibre? ⟨⟨⟨0, 0⟩, 0⟩, 0, k⟩

/-- What vector register d holds after an instruction of the test fibre. -/
def tV (i : Instr) (d : Nat) : Option Word := (tLane (tState tF) i 0).map fun f => f.val d

/-- The long-latency value that an instruction of the test fibre leaves. -/
def tL (i : Instr) : Option (List Word) := (tLane (tState tF) i 0).bind fun f => f.outs.head?.bind Outst.vals

/-- What predicate k holds after an instruction of the test fibre. -/
def tB (i : Instr) (k : Nat) : Option Bool := (tLane (tState tF) i 0).map fun f => f.pred k

/-- What uniform register k holds after a point of the two test fibres. -/
def tU (i : Instr) (k : Nat) : Option Word := (tGo (tTwo i) i).bind fun t => (t.warp? ⟨⟨0, 0⟩, 0⟩ 0).map fun p => sget p k

/-- What vector register d holds in a lane after a point of the two test fibres. -/
def tW (i : Instr) (k d : Nat) : Option Word := (tLane (tTwo i) i k).map fun f => f.val d

/-- Where the test fibre stands after an instruction. -/
def tAt (i : Instr) : Option FStat := (tLane (tState tF) i 0).map fun f => f.st

/-- R85 and R86, by hand on the test registers. -/
theorem test_step_integer : tV (.add 20 4 2 0) 20 = some 6 ∧ tV (.sub 20 1 2 0) 20 = some 0xFFFFFFFE#32 ∧ tV (.mul 20 4 2 0) 20 = some 0xFFFFFFF9#32 ∧
    tV (.mulh 20 3 2 0) 20 = some 0xFFFFFFFC#32 ∧ tV (.mulhu 20 3 2 0) 20 = some 3 ∧ tV (.mad 2 1 1 0) 2 = some 32 ∧
    tV (.and 20 4 13 0) 20 = some 0xF0F0 ∧ tV (.or 20 12 13 0) 20 = some 0x1F3F4 ∧ tV (.xor 20 4 13 0) 20 = some 0xFFFF0F0F#32 ∧
    tV (.shl 20 1 2 0) 20 = some 640 ∧ tV (.shl 20 1 13 0) 20 = some 0 ∧ tV (.shr 20 3 2 0) 20 = some 0x01000000 ∧
    tV (.sar 20 3 2 0) 20 = some 0xFF000000#32 ∧ tV (.sar 20 3 13 0) 20 = some 0xFFFFFFFF#32 := by decide +kernel
theorem test_step_integer_2 : tV (.min 20 4 1 0) 20 = some 0xFFFFFFFF#32 ∧ tV (.max 20 4 1 0) 20 = some 5 ∧ tV (.minu 20 4 1 0) 20 = some 5 ∧
    tV (.maxu 20 4 1 0) 20 = some 0xFFFFFFFF#32 ∧ tV (.adds 20 3 4 0) 20 = some 0x80000000#32 ∧ tV (.subs 20 3 1 0) 20 = some 0x80000000#32 ∧
    (tLane (tState tF) (.adds 20 3 4 0) 0).map (·.fflags) = some 32 ∧ tV (.abs 20 4 0) 20 = some 1 ∧ tV (.neg 20 1 0) 20 = some 0xFFFFFFFB#32 ∧
    tV (.clz 20 2 0) 20 = some 29 ∧ tV (.popc 20 13 0) 20 = some 8 ∧ tV (.brev 20 2 0) 20 = some 0xE0000000#32 ∧
    tV (.bfe 20 13 12 0) 20 = some 0xFFFFFFFF#32 ∧ tV (.bfi 20 1 12 0) 20 = some 0x50 ∧ tV (.sel 20 1 2 2) 20 = some 5 ∧
    tV (.sel 20 1 2 3) 20 = some 7 ∧ tV (.mov 20 1 0) 20 = some 5 ∧ tV (.dp4a 20 4 1 0) 20 = some 0xFFFFFFFB#32 := by decide +kernel
theorem test_step_wide : (tV (.addw 20 8 10 0) 20 = some 0x40 ∧ tV (.addw 20 8 10 0) 21 = some 1) ∧
    (tV (.subw 20 8 10 0) 20 = some 0x40 ∧ tV (.subw 20 8 10 0) 21 = some 0xFFFFFFFF#32) ∧ tV (.shlw 20 8 1 0) 20 = some 0x800 ∧
    tL (.div 20 4 2 0) = some [0] ∧ tL (.divu 20 4 2 0) = some [0x24924924#32] ∧ tL (.rem 20 4 2 0) = some [0xFFFFFFFF#32] ∧
    tL (.remu 20 4 2 0) = some [3] ∧ tL (.divu 20 1 7 0) = some [0xFFFFFFFF#32] ∧ tL (.div 20 3 4 0) = some [0x80000000#32] := by decide +kernel
/-- R43, R88, R89: the immediate is sign-extended but in the bitwise forms. -/
theorem test_step_immediate : tV (.addi 20 1 1023) 20 = some 4 ∧ tV (.andi 20 4 1023) 20 = some 1023 ∧ tV (.ori 20 1 512) 20 = some 0x205 ∧
    tV (.xori 20 4 1) 20 = some 0xFFFFFFFE#32 ∧ tV (.shli 20 1 33) 20 = some 0 ∧ tV (.shri 20 4 4) 20 = some 0x0FFFFFFF ∧
    tV (.sari 20 3 40) 20 = some 0xFFFFFFFF#32 ∧ tV (.muli 20 1 1022) 20 = some 0xFFFFFFF6#32 ∧ tV (.addwi 20 8 1023) 20 = some 0x3F ∧
    tV (.addwi 20 8 1023) 21 = some 0 ∧ tV (.movi 20 512) 20 = some 0xFFFFFE00#32 ∧ tV (.li 20 0 0xDEADBEEF#32) 20 = some 0xDEADBEEF#32 := by decide +kernel
/-- R90: the condition and its complement. -/
theorem test_step_compare : tB (.icmpEq 4 1 2 0) 4 = some false ∧ tB (.icmpEq 4 1 2 0) 5 = some true ∧ tB (.icmpNe 4 1 2 0) 4 = some true ∧
    tB (.icmpLt 4 4 1 0) 4 = some true ∧ tB (.icmpLe 4 1 1 0) 4 = some true ∧ tB (.icmpLtu 4 4 1 0) 4 = some false ∧ tB (.icmpLeu 4 4 1 0) 4 = some false ∧
    tB (.icmpiEq 4 1 5) 4 = some true ∧ tB (.icmpiNe 4 1 5) 4 = some false ∧ tB (.icmpiLt 4 4 0) 4 = some true ∧ tB (.icmpiLe 4 1 4) 4 = some false ∧
    tB (.icmpiLtu 4 1 1023) 4 = some true ∧ tB (.icmpiLeu 4 4 1022) 4 = some false := by decide +kernel
/-- R99 to R101, R110. -/
theorem test_step_predicate : tB (.pand 4 2 3 0) 4 = some false ∧ tB (.por 4 2 3 0) 4 = some true ∧ tB (.pxor 4 2 2 0) 4 = some false ∧
    tB (.pandn 4 2 3 0) 4 = some true ∧ tB (.pset 4 1) 4 = some true ∧ tB (.pset 1 1) 1 = some false ∧ tV (.pget 20 0) 20 = some 5 ∧
    (tLane (tState tF) (.pput 4 0) 0).map (·.preds) = some 0xFFFD#16 ∧ tV (.rdsr 20 10) 20 = some 1 ∧ tV (.rdsr 20 11) 20 = some 10 ∧
    (tLane (tState tF) (.wrsr 2 12) 0).map (·.fflags) = some 7 ∧ (tLane (tState tF) (.setrm 2) 0).map (·.rmode) = some .rdn := by decide +kernel
/-- R91 to R95, R98, on two lanes that hold 5 and 9. -/
theorem test_step_lane : tW (.shfl 20 1 2 0) 0 20 = some 9 ∧ tW (.shflx 20 1 2 0) 1 20 = some 5 ∧ tW (.bcast 20 1 0 0) 1 20 = some 5 ∧
    tU (.redadd 6 1 0) 6 = some 14 ∧ tU (.redmin 6 1 0) 6 = some 5 ∧ tU (.redmax 6 1 0) 6 = some 9 ∧ tU (.ballot 6 2 0) 6 = some 3 ∧
    tW (.scanadd 20 1 0) 1 20 = some 14 ∧ tW (.lid 20 0) 1 20 = some 1 ∧ tV (.movs 20 1 0) 20 = some 6 ∧
    (tLane (tTwo (.electw 4 0)) (.electw 4 0) 1).map (·.pred 4) = some false ∧ (tLane (tTwo (.elect 4 0)) (.elect 4 0) 0).map (·.pred 4) = some true ∧
    (tLane (tTwo (.voteany 4 2 0)) (.voteany 4 2 0) 1).map (·.pred 4) = some true ∧
    (tLane (tTwo (.voteall 4 3 0)) (.voteall 4 3 0) 1).map (·.pred 4) = some false ∧
    (tLane (tTwo (.wsync 0)) (.wsync 0) 1).map (·.st) = some .run := by decide +kernel
/-- R96, R97, with s1 = 6 and s2 = 3. -/
theorem test_step_uniform : tU (.uadd 6 1 2 0) 6 = some 9 ∧ tU (.usub 6 2 1 0) 6 = some 0xFFFFFFFD#32 ∧ tU (.umul 6 1 2 0) 6 = some 18 ∧
    tU (.uand 6 1 2 0) 6 = some 2 ∧ tU (.uor 6 1 2 0) 6 = some 7 ∧ tU (.uxor 6 1 2 0) 6 = some 5 ∧ tU (.ushl 6 1 2 0) 6 = some 48 ∧
    tU (.ushr 6 1 2 0) 6 = some 0 ∧ tU (.uaddw 6 4 4 0) 6 = some 0x80 ∧ tU (.umov 6 1 0) 6 = some 6 ∧ tU (.uget 6 1 0 0) 6 = some 5 ∧
    tU (.uaddi 6 1 1023) 6 = some 5 ∧ tU (.uli 6 0 0xDEADBEEF#32) 6 = some 0xDEADBEEF#32 ∧ tU (.uli 0 0 1) 0 = some 0 := by decide +kernel
/-- R102 to R106, in FP32. -/
theorem test_step_float : tV (.fadd 20 5 6 0) 20 = some 0xBF000000#32 ∧ tV (.fsub 20 5 6 0) 20 = some 0x40600000 ∧ tV (.fmul 20 5 6 0) 20 = some 0xC0400000#32 ∧
    tV (.ffma 5 5 6 0) 5 = some 0xBFC00000#32 ∧ tV (.ffms 5 5 6 0) 5 = some 0xC0900000#32 ∧ tV (.fmin 20 5 6 0) 20 = some 0xC0000000#32 ∧
    tV (.fmax 20 5 6 0) 20 = some 0x3FC00000 ∧ tV (.fmax 20 5 14 0) 20 = some 0x7FC00000 ∧ tV (.fabs 20 6 0) 20 = some 0x40000000 ∧ tV (.fneg 20 5 0) 20 = some 0xBFC00000#32 ∧
    tV (.frnd 20 5 0) 20 = some 0x40000000 ∧ tV (.fcls 20 6 0) 20 = some 2 ∧ tV (.fscl 20 5 2 0) 20 = some 0x43400000 := by decide +kernel
theorem test_step_float_late : tL (.fdiv 20 5 6 0) = some [0xBF400000#32] ∧ tL (.fsqrt 20 19 0) = some [0x40000000] ∧ tL (.frcp 20 6 0) = some [0xBF000000#32] ∧
    tL (.frsq 20 19 0) = some [0x3F000000] := by decide +kernel
theorem test_step_exponential : tL (.fex2 20 6 0) = some [0x3E800000] := by decide +kernel
theorem test_step_logarithm : tL (.flg2 20 19 0) = some [0x40000000] := by decide +kernel
theorem test_step_float_compare : tB (.fcmpEq 4 5 6 0) 4 = some false ∧ tB (.fcmpLt 4 6 5 0) 4 = some true ∧ tB (.fcmpLe 4 5 6 0) 4 = some false ∧
    tB (.fcmpUn 4 14 5 0) 4 = some true := by decide +kernel
/-- R107 to R109: halves 2.0 and 1.0 with 3.0 and 2.0, in FP16 and in BF16. -/
theorem test_step_packed : tV (.hadd2 20 15 16 0) 20 = some 0x42004500 ∧ tV (.hmul2 20 15 16 0) 20 = some 0x40004600 ∧
    tV (.hfma2 20 15 16 0) 20 = some 0x40004600 ∧ tV (.badd2 20 17 18 0) 20 = some 0x40A04040 ∧ tV (.bmul2 20 17 18 0) 20 = some 0x40C04000 ∧
    tV (.bfma2 20 17 18 0) 20 = some 0x40C04000 ∧ tV (.dp2h 20 15 16 0) 20 = some 0x41000000 ∧ tV (.dp2b 20 17 18 0) 20 = some 0x41000000 := by decide +kernel
theorem test_step_convert : tV (.cvtfi 20 6 0) 20 = some 0xFFFFFFFE#32 ∧ tV (.cvtfu 20 5 0) 20 = some 2 ∧ tV (.cvtif 20 4 0) 20 = some 0xBF800000#32 ∧
    tV (.cvtuf 20 2 0) 20 = some 0x40E00000 ∧ tV (.cvth 20 5 6 0) 20 = some 0xC0003E00#32 ∧ tV (.cvthl 20 15 0) 20 = some 0x40000000 ∧
    tV (.cvthh 20 15 0) 20 = some 0x3F800000 ∧ tV (.cvtb 20 5 6 0) 20 = some 0xC0003FC0#32 ∧ tV (.cvtbl 20 17 0) 20 = some 0x3F800000 ∧
    tV (.cvtbh 20 17 0) 20 = some 0x40000000 ∧ tV (.cvte4 20 5 6 0) 20 = some 0xC03C ∧ tV (.cvte4f 20 2 0) 20 = some 0x3C600000 ∧
    tV (.cvte5 20 5 6 0) 20 = some 0xC03E ∧ tV (.cvte5f 20 2 0) 20 = some 0x38E00000 := by decide +kernel

/-! ## Premises that hold: for every statement with hypotheses, a state and operands that meet them together -/

/-- The test fibre with its surroundings. -/
def tE : Env := ⟨placedLaunch, placedWg, tP, tF⟩

/-- A fibre at its word, as a computation. -/
def tRuns (s : State) (e : Env) : Bool := (s.env? s.cur).any fun x => x.canRun && decide (e = { x with f := { x.f with held := none } })

theorem tRuns_of {s : State} {e : Env} (h : tRuns s e = true) : Runs s e := by
  obtain ⟨x, hx, h⟩ := Option.any_eq_true _ _ |>.mp h
  exact ⟨x, hx, by simpa using h⟩

/-- The premises of a word, as a computation. -/
def tOn (s : State) (e : Env) (g wt : Nat) (rs hs : List Nat) : Bool :=
  tRuns s e && e.f.pred g && decide (e.f.clk + wt < clockTop) && rs.all (fun i => decide (e.f.phys i < e.f.regs.length)) && hs.all fun i => !e.f.awaits (e.f.phys i)

theorem tOn_of {s : State} {e : Env} {g wt : Nat} {rs hs : List Nat} (h : tOn s e g wt rs hs = true) :
    RunsOn s e g wt ∧ Held e.f rs ∧ Here e.f hs := by
  simp only [tOn, Bool.and_eq_true] at h
  obtain ⟨⟨⟨⟨hr, hg⟩, hc⟩, hs⟩, hh⟩ := h
  exact ⟨⟨tRuns_of hr, hg, by simpa [Room] using hc⟩, by simpa [Held] using hs, by simpa [Here] using hh⟩

/-- The premises of a point, as a computation. -/
def tMeets (s : State) (sc : Scope) (e : Env) (i : Instr) (wt : Nat) : Bool :=
  tRuns s e && decide (e.l.preempt = none) && ((arrived s e i).scopeOf sc e.f.ref).all (waitsAt { e.f with st := .conv i } i) &&
    (meeting s sc e i).all fun x => decide (x.f.clk + wt < clockTop)

theorem tMeets_of {s : State} {sc : Scope} {e : Env} {i : Instr} {wt : Nat} (h : tMeets s sc e i wt = true) : Completes s sc e i wt := by
  simp only [tMeets, Bool.and_eq_true] at h
  obtain ⟨⟨⟨hr, hp⟩, ha⟩, hc⟩ := h
  exact ⟨⟨tRuns_of hr, of_decide_eq_true hp, ha⟩, fun x hx => by simpa [Room] using List.all_eq_true.mp hc x hx⟩

/-- The first of the two test fibres, before it arrives. -/
def tF2 : Fibre := { tF with regs := setAt tRegs 2 1 }
def tE2 : Env := ⟨placedLaunch, placedWg, tP, tF2⟩

theorem witness_DecodeAndEncodeAgree : (Instr.mmf 1 2 3 0 4 63 63 6 7).isWord = true ∧ (Instr.mmf 1 2 3 0 4 63 63 6 7).wellFormed = true ∧
    decode [0x80D28000#32, 5] = .ok (.jmp 2 5) [5] := by decide +kernel

theorem witness_TableReplacesOpcode : (fun n : Nat => if n = 3 then some 0x060 else none) (0x00C00000#32).toNat.succ = none ∧
    (fun n : Nat => if n = 3 then some 0x060 else none) ((0x00C00000#32).toNat / 2 ^ 22) = some 0x060 ∧ isNativeOp 0x060 = true := by decide

/-- The test fibre at `jmp 2` with branch target 2 prepared, named by the schedule. -/
def tJump : Fibre := { tF with words := [0x80D00000#32], bregs := setAt tF.bregs 2 ⟨.prepared, 0x100000100#57⟩ }
/-- A step that answers a next state. -/
def tSteps (s : State) : Bool :=
  match step s with
  | .next _ => true
  | _ => false
def tJumpS : State := { tState tJump with sched := [0] }
theorem witness_StepRunsDecoded : tJumpS.sched = [0] ∧ tJumpS.fibres[0]? = some tJump ∧ tJumpS.env? tJump.ref = some { tE with f := tJump } ∧
    tJump.st = .run ∧ Env.canRun { tE with f := tJump } = true ∧ tJump.stepping = .off ∧ placedWg.halt = .none ∧
    tJumpS.brkAt placedLaunch tJump = none ∧ tJump.instr? placedLaunch.dtab.look = some (.jmp 2 0) ∧
    (tGo { tJumpS with sched := [], cur := tJump.ref } (.jmp 2 0)).any (fun t => t.tick ≠ tJumpS.tick) = true := by decide +kernel

theorem witness_StepKeepsMemory : State.reset.memOk = true ∧ tSteps State.reset = true := by decide +kernel
theorem witness_StepKeepsConstants : tJumpS.fibres.all Fibre.constOk = true ∧ tSteps tJumpS = true := by decide +kernel

theorem witness_IntegerResults :
    (RunsOn (tState tF) tE 0 1 ∧ Held tE.f [63, 2, 3] ∧ Here tE.f [2, 3]) ∧ (RunsOn (tState tF) tE 0 1 ∧ Held tE.f [63, 2, 3] ∧ Here tE.f [63, 2, 3]) ∧
    (RunsOn (tState tF) tE 2 1 ∧ Held tE.f [62, 63, 8, 9, 10, 11] ∧ Here tE.f [8, 9, 10, 11]) ∧ (0x10304 : Nat) = (tF.val 12).toNat ∧
    RunsOn (tState tF) tE tF.cg 1 ∧ 1023 < 1024 ∧ 63 < 64 :=
  ⟨tOn_of (by decide +kernel), tOn_of (by decide +kernel), tOn_of (by decide +kernel), by decide, (tOn_of (rs := []) (hs := []) (by decide +kernel)).1,
    by decide, by decide⟩

/-- A clause guarded on, one guarded off, and a predicate of each value. -/
def tOff : Fibre := { tF with hdr := tF.hdr ||| 8 }
theorem witness_SelectResult : (RunsOn (tState tF) tE 0 1 ∧ Held tE.f [0, 63, 1] ∧ Here tE.f [63, 1]) ∧ tF.pred tF.cg = true ∧ tF.pred 2 = true ∧ tF.pred 3 = false ∧
    RunsOn (tState tOff) { tE with f := tOff } 0 1 ∧ tOff.pred tOff.cg = false :=
  ⟨tOn_of (by decide +kernel), by decide, by decide, by decide, (tOn_of (rs := []) (hs := []) (by decide +kernel)).1, by decide⟩
theorem witness_LiteralResult : (RunsOn (tState tF) tE 0 2 ∧ Held tE.f [63] ∧ Here tE.f []) ∧ tF.pred 3 = false :=
  ⟨tOn_of (by decide +kernel), by decide⟩
theorem witness_ComparesAndDivisions : (RunsOn (tState tF) tE 0 1 ∧ Held tE.f [63, 3, 4] ∧ Here tE.f [63, 3, 4]) ∧ tF.cg = 0 ∧
    tF.val 3 = 0x80000000#32 ∧ tF.val 4 = 0xFFFFFFFF#32 ∧ 14 % 2 = 0 ∧ 3 % 2 = 1 :=
  ⟨tOn_of (by decide +kernel), by decide⟩
theorem witness_PredicatesAndSpecialRegisters : (RunsOn (tState tF) tE 0 1 ∧ Held tE.f [63, 2] ∧ Here tE.f [63, 2]) ∧ tF.cg = 0 ∧
    rmodeCode .sr = 4 ∧ rmodeCode .rtz = (tF.val 11).toNat ∧ 4 < (tF.val 1).toNat :=
  ⟨tOn_of (by decide +kernel), by decide⟩

theorem witness_RoundsCorrectly : fp32 ∈ [fp32, fp16, bf16, e4m3, e5m2] ∧ (1 : Nat) ≠ 0 ∧ (-150 : Int) ≤ -150 ∧ (-150 : Int) ≤ fp32.minExp ∧
    (Rnd.mk .rup 0).mode ∈ [RMode.rtz, .rdn, .rup] ∧ (fp32.round rneRnd false 1 (-150)).fl &&& flagOF = 0 ∧
    (fp32.round rneRnd true 1 128).fl &&& flagOF ≠ 0 := by decide +kernel
theorem witness_FloatResults : (RunsOn (tState tF) tE 0 1 ∧ Held tE.f [63, 5, 6] ∧ Here tE.f [63, 5, 6]) ∧ (FV.nan false true).isNan = true ∧
    (FV.fin false 1 0).isSig = false ∧ (1 : Nat) ≠ 0 := ⟨tOn_of (by decide +kernel), by decide⟩
theorem witness_FloatComparesAndConversions : (RunsOn (tState tF) tE 0 1 ∧ Held tE.f [63, 15, 16] ∧ Here tE.f [63, 15, 16]) ∧
    ((fp32.value (tF.val 5).toNat).isNan = false ∧ (fp32.value (tF.val 6).toNat).ltV false (fp32.value (tF.val 5).toNat) = true) ∧
    (fp32.value (tF.val 14).toNat).isNan = true ∧ (-3 : Int) ≤ 5 := ⟨tOn_of (by decide +kernel), by decide +kernel⟩

/-- Two fibres, of which the other has not arrived. -/
def tOther : State := { tTwo (.wsync 0) with fibres := [tF, { tF with ref := ⟨⟨⟨0, 0⟩, 0⟩, 0, 1⟩, uid := 1 }] }
theorem witness_ConvergenceWaits : (RunsOn tOther tE 0 1 ∧ Held tE.f [] ∧ Here tE.f []) ∧
    (∃ x ∈ (arrived tOther tE (.wsync 0)).warpFibres ⟨⟨0, 0⟩, 0⟩ 0, x.st ≠ .conv (.wsync 0)) ∧
    (∃ x ∈ (arrived tOther tE (.elect 4 0)).wgFibres ⟨⟨0, 0⟩, 0⟩, x.st ≠ .conv (.elect 4 0)) :=
  ⟨tOn_of (by decide +kernel), by decide +kernel, by decide +kernel⟩

/-- The two test fibres at point i, with a uniform load of their warp outstanding. -/
def tLoading : Warp := { tP with uouts := [6, 7] }
def tTwoU (i : Instr) : State := { tTwo i with warps := [tLoading] }
def tE2U : Env := { tE2 with p := tLoading }
theorem witness_ConvergenceWaits_uniform : (Runs (tTwoU (.uli 6 0 1)) tE2U ∧ Runs (tTwoU (.uaddi 6 1 1)) tE2U) ∧ tE2U.p.uouts ≠ [] ∧
    (∃ x ∈ meeting (tTwoU (.uli 6 0 1)) .warp tE2U (.uli 6 0 1), x.f.pred 0 = true) ∧
    (∃ x ∈ meeting (tTwoU (.uaddi 6 1 1)) .warp tE2U (.uaddi 6 1 1), x.f.pred x.f.cg = true) :=
  ⟨⟨tRuns_of (by decide +kernel), tRuns_of (by decide +kernel)⟩, by decide, by decide +kernel, by decide +kernel⟩

/-- Every warp point meets with the two test fibres, and all registers are held and here. -/
theorem witness_LaneWords : Completes (tTwo (.shfl 20 1 2 0)) .warp tE2 (.shfl 20 1 2 0) 1 ∧ Completes (tTwo (.bcast 20 1 0 0)) .warp tE2 (.bcast 20 1 0 0) 1 ∧
    Completes (tTwo (.voteany 4 2 0)) .warp tE2 (.voteany 4 2 0) 1 ∧ Completes (tTwo (.elect 4 0)) .wg tE2 (.elect 4 0) 1 ∧
    Completes (tTwo (.redmin 6 1 0)) .warp tE2 (.redmin 6 1 0) 1 ∧ Completes (tTwo (.scanadd 20 1 0)) .warp tE2 (.scanadd 20 1 0) 1 ∧
    (∀ x ∈ meeting (tTwo (.shfl 20 1 2 0)) .warp tE2 (.shfl 20 1 2 0), x.f.ref.lane < 32 ∧ x.f.pred 0 = true ∧
      ∀ r ∈ [20, 1, 2], x.f.phys r < x.f.regs.length ∧ x.f.awaits (x.f.phys r) = false) ∧
    ((meeting (tTwo (.shfl 20 1 2 0)) .warp tE2 (.shfl 20 1 2 0)).map fun x => x.f.ref.lane) = [0, 1] ∧
    (RunsOn (tState tF) tE 0 1 ∧ Held tE.f [20] ∧ Here tE.f []) ∧ 63 < tP.sregs.length ∧
    (UniHere tE2 [63, 5] ∧ tE2.uniHere ∧ ¬ UniHere tE2U [6] ∧ RunsOn { tState tF with warps := [tLoading] } { tE with p := tLoading } 0 1) :=
  ⟨tMeets_of (by decide +kernel), tMeets_of (by decide +kernel), tMeets_of (by decide +kernel), tMeets_of (by decide +kernel), tMeets_of (by decide +kernel),
    tMeets_of (by decide +kernel), by decide +kernel, by decide +kernel, tOn_of (by decide +kernel), by decide, by unfold UniHere; decide, rfl,
    by unfold UniHere; decide, (tOn_of (rs := []) (hs := []) (by decide +kernel)).1⟩
theorem witness_UniformWords : Completes (tTwo (.uadd 6 1 2 0)) .warp tE2 (.uadd 6 1 2 0) 1 ∧ Completes (tTwo (.uaddw 6 4 4 0)) .warp tE2 (.uaddw 6 4 4 0) 1 ∧
    Completes (tTwo (.uaddi 6 1 1023)) .warp tE2 (.uaddi 6 1 1023) 1 ∧ Completes (tTwo (.uli 6 0 1)) .warp tE2 (.uli 6 0 1) 2 ∧
    Completes (tTwo (.uget 6 1 0 0)) .warp tE2 (.uget 6 1 0 0) 1 ∧
    tE2.uniHere ∧
    (∀ x ∈ meeting (tTwo (.uaddi 6 1 1023)) .warp tE2 (.uaddi 6 1 1023), x.f.cg = tE2.f.cg) ∧
    (∀ x ∈ meeting (tTwo (.uget 6 1 1 0)) .warp tE2 (.uget 6 1 1 0), x.f.ref.lane ≠ (sget tP 1).toNat % 32) ∧
    ((meeting (tTwo (.uget 6 1 0 0)) .warp tE2 (.uget 6 1 0 0)).find? fun y => y.f.ref.lane = (sget tP 0).toNat % 32).any (fun x =>
      decide (x.f.phys 1 < x.f.regs.length) && !x.f.awaits (x.f.phys 1)) = true :=
  ⟨tMeets_of (by decide +kernel), tMeets_of (by decide +kernel), tMeets_of (by decide +kernel), tMeets_of (by decide +kernel), tMeets_of (by decide +kernel),
    rfl, by decide +kernel, by decide +kernel, by decide +kernel⟩

/-- What an access answers, as a computation. -/
def tOk {α : Type} (x : Except Stop α) (p : α → Bool) : Bool :=
  match x with
  | .ok a => p a
  | .error _ => false
def tErr {α : Type} (x : Except Stop α) : Option (Nat × Nat × BitVec 64) :=
  match x with
  | .error (.fault c k v) => some (c, k, v)
  | _ => none

/-- Page tables at 0 that map the leaf of 2^32 to 0x2000000 for reads and writes (R150). -/
def tTables : Memory := [(0, 0x01), (1, 0x10), (0x1000, 0x01), (0x1001, 0x20), (0x2000, 0x01), (0x2001, 0x30), (0x3400, 0x0F), (0x3403, 0x02)]

/-- A launch whose page at 2^32 has a class, with 32 bytes of arguments. -/
def tCls (c : MClass) : Launch := { placedLaunch with ranges := [⟨c, 0, 1, 2 ^ 32⟩], args := List.replicate 32 7 }

/-- One fibre under that launch, past its waits: v8 holds an address, v1 and the pair s8 the parts of an indexed one. -/
def tFA (a : Nat) : Fibre :=
  { tF with pass := true, regs := setAt (setAt (setAt tRegs 8 (BitVec.ofNat 32 a)) 9 (BitVec.ofNat 32 (a / 2 ^ 32))) 1 0 }
def tPA (a : Nat) : Warp := { tP with sregs := setAt (setAt tP.sregs 8 (BitVec.ofNat 32 a)) 9 (BitVec.ofNat 32 (a / 2 ^ 32)) }
def tEA (c : MClass) (a : Nat) : Env := ⟨tCls c, placedWg, tPA a, tFA a⟩
def tSA (c : MClass) (a : Nat) : State :=
  { State.reset with parts := [placedPartition], launches := [tCls c], wgs := [placedWg], warps := [tPA a], fibres := [tFA a], mem := tTables }

theorem witness_AccessChecks : (∀ a ∈ [0, 0xFFFFF], a < 2 ^ 20) ∧ (∀ a ∈ [0x100000, 0xFFFFFF], 2 ^ 20 ≤ a ∧ a < 0x1000000) ∧
    (∀ a ∈ [0x1400000, 0xFFFFFFFF], 0x1400000 ≤ a ∧ a < 2 ^ 32) ∧ (∀ a ∈ [0x1000000, 0x13FFFFF], 0x1000000 ≤ a ∧ a < 0x1400000) ∧
    (∀ a ∈ [2 ^ 32, 2 ^ 56 - 1], 2 ^ 32 ≤ a ∧ a < 2 ^ 56) ∧ (∀ a ∈ [2 ^ 56, 2 ^ 64 - 2 ^ 56 - 1], 2 ^ 56 ≤ a ∧ a < 2 ^ 64 - 2 ^ 56) ∧
    regionOf 0x100000 = none ∧ (regionOf 0xFFFFF ≠ none ∧ (0xFFFFF#64).toNat % 4 ≠ 0) ∧
    (regionOf 0xFFD = some (.own 0xFFD) ∧ (0xFFD#64).toNat % 1 = 0 ∧ (tEA .ordered 0).l.scratch * 256 < 0xFFD + 4) ∧
    (regionOf 0x1000000 = some (.peer 0 0) ∧ (tEA .ordered 0).l.gang = false) ∧
    (regionOf 0x100000000 = some (.glob (2 ^ 32)) ∧ (classOf (tCls .constant) (2 ^ 32)).1 = .constant) ∧
    (inArgs (2 ^ 32 + 2 ^ 30) = false ∧ classFault (tEA .ordered 0) .load (2 ^ 32 + 2 ^ 30) = none ∧
      (match (tSA .ordered 0).translateFor (tCls .ordered) (2 ^ 32 + 2 ^ 30) .load with
        | .error _ => true
        | .ok _ => false) = true) := by decide +kernel

theorem witness_LoadsIssue :
    (RunsOn (tSA .ordered 0x100000000) (tEA .ordered 0x100000000) 0 1 ∧ Held (tFA 0x100000000) (regsOf 60 16 ++ [8, 9]) ∧ Here (tFA 0x100000000) [8, 9]) ∧
    tF.cg = 0 ∧ (tFA 0x100000000).outCount < 63 ∧
    tOk ((tSA .ordered 0x100000000).access (tEA .ordered 0x100000000) 0x100000000 16 16 .load) (fun a => a.args = none && a.cls = .ordered) = true ∧
    tOk ((tSA .constant 0x100000000).access (tEA .constant 0x100000000) 0x100000000 4 4 .load) (fun a => a.args = none && a.cls ≠ .ordered) = true ∧
    tOk ((tSA .ordered 0).access (tEA .ordered 0) 0xFFFFFFFFFF0010 16 16 .load) (fun a => a.args.isSome) = true ∧
    tErr ((tSA .ordered 0).access (tEA .ordered 0) 0xFFD 4 4 .load) = some (3, 0, 0xFFD) ∧
    (sget2 (tPA 0x100000000) 8).toNat + ((tFA 0x100000000).val 1).toNat * 4 = 0x100000000 ∧ [(1 : Byte), 2, 3, 4, 5, 6, 7, 8].length = 8 :=
  ⟨tOn_of (by decide +kernel), by decide +kernel⟩

/-- The same fibre, late, with 128 sectors of pending stores. -/
def tFull : Fibre :=
  { tFA 0x100001000 with clk := 2000, pend := (List.range 128).map fun k => ⟨0x100000000 + 32 * k, .phys (0x2000000 + 32 * k), 5⟩ }
theorem witness_StoresComplete :
    (RunsOn (tSA .ordered 0x100000000) (tEA .ordered 0x100000000) 0 1 ∧ Held (tFA 0x100000000) (regsOf 60 16 ++ [8, 9]) ∧
      Here (tFA 0x100000000) (regsOf 60 16 ++ [8, 9])) ∧ tF.cg = 0 ∧
    tOk ((tSA .ordered 0x100000000).access (tEA .ordered 0x100000000) 0x100000000 16 16 .store)
      (fun a => a.cls = .ordered && footprint ((tFA 0x100000000).pendWith 60 16 a) ≤ 128) = true ∧
    tOk ({ tSA .ordered 0x100001000 with fibres := [tFull] }.access { tEA .ordered 0x100001000 with f := tFull } 0x100001000 4 4 .store)
      (fun a => a.cls = .ordered && 128 < footprint (tFull.pendWith 2 4 a)) = true ∧ nextB placedLaunch.q tFull.clk < 2 ^ 56 ∧ UniHere (tEA .ordered 0x100000000) [8, 9] ∧
    (tSA .exclusive 0x100000000).memOk = true ∧
    tOk ((tSA .exclusive 0x100000000).access (tEA .exclusive 0x100000000) 0x100000000 8 8 .store) (fun a => a.cls = .exclusive) = true ∧
    tErr ((tSA .constant 0).access (tEA .constant 0) 0x100000000 4 4 .store) = some (6, 0, 0x100000000) :=
  ⟨tOn_of (by decide +kernel), by decide +kernel, by decide +kernel, by decide +kernel, by decide +kernel, by unfold UniHere; decide, by decide +kernel⟩

/-- The two test fibres at a uniform load, with the pair s8. -/
def tLoads (i : Instr) (c : MClass) (a : Nat) : State :=
  { tTwo i with launches := [tCls c], warps := [tPA a], mem := tTables }
def tLoadE (c : MClass) (a : Nat) : Env := ⟨tCls c, placedWg, tPA a, tF2⟩
theorem witness_UniformLoadsAndHints :
    Completes (tLoads (.uldw 6 8 0) .constant 0x100000000) .warp (tLoadE .constant 0x100000000) (.uldw 6 8 0) 1 ∧
    ((tLoadE .constant 0x100000000).uniHere ∧ ∀ x ∈ meeting (tLoads (.uldw 6 8 0) .constant 0x100000000) .warp (tLoadE .constant 0x100000000) (.uldw 6 8 0),
      x.f.pred x.f.cg = true ∧ x.f.outCount < 63) ∧
    (meeting (tLoads (.uldw 6 8 0) .constant 0x100000000) .warp (tLoadE .constant 0x100000000) (.uldw 6 8 0) ≠ []) ∧
    (classOf (tCls .constant) (2 ^ 32)).1 = .constant ∧ inArgs (2 ^ 32) = false ∧
    (match (tLoads (.uldw 6 8 0) .constant 0x100000000).translate (tCls .constant) (2 ^ 32) .read with
      | .ok pa => decide (pa = 0x2000000)
      | .error _ => false) = true ∧
    Completes (tLoads (.uldd 6 8 0) .ordered 0xFFFFFFFFFF0018) .warp (tLoadE .ordered 0xFFFFFFFFFF0018) (.uldd 6 8 0) 1 ∧
    (classOf (tCls .ordered) 0xFFFFFFFFFF0018).1 = .constant ∧ inArgs 0xFFFFFFFFFF0018 = true ∧
    Completes (tLoads (.uldw 6 8 0) .ordered 0x100000000) .warp (tLoadE .ordered 0x100000000) (.uldw 6 8 0) 1 ∧
    (classOf (tCls .ordered) (2 ^ 32)).1 ≠ .constant ∧
    (RunsOn (tSA .ordered 0x100000000) (tEA .ordered 0x100000000) 0 1 ∧ Held (tFA 0x100000000) [8, 9] ∧ Here (tFA 0x100000000) [8, 9]) ∧
    tOk ((tSA .ordered 0x100000000).access (tEA .ordered 0x100000000) 0x100000000 1 1 .prefetch) (fun _ => true) = true ∧
    (tErr ((tSA .ordered 0).access (tEA .ordered 0) 0x140000000 1 1 .prefetch)).any (fun x => x.1 = 1 && x.2.2 = 0x140000000) = true ∧
    tErr ((tSA .ordered 0).access (tEA .ordered 0) 0x100000 1 1 .prefetch) = some (2, 0, 0x100000) ∧
    (tSA .ordered 0x100000000).ctxOf? (tCls .ordered) = some placedContext ∧ placedContext.quota ≤ (placedContext.pins.map fun x => x.block).eraseDups.length ∧
    (UniHere (tEA .ordered 0x100000000) [8, 9, 4] ∧
      (∃ o ∈ ((tF.withUload 0x100000000 ⟨0, 0, 0⟩ [6] [5] []).outs), o.sdst = [6] ∧ 6 ∈ tLoading.uouts ∧ 6 < tLoading.sregs.length)) :=
  ⟨tMeets_of (by decide +kernel), ⟨rfl, by decide +kernel⟩, by decide +kernel, by decide +kernel, by decide +kernel, by decide +kernel, tMeets_of (by decide +kernel),
    by decide +kernel, by decide +kernel, tMeets_of (by decide +kernel), by decide +kernel, tOn_of (by decide +kernel), by decide +kernel,
    by decide +kernel, by decide +kernel, by decide +kernel, by decide +kernel, by unfold UniHere; decide, by decide +kernel⟩

theorem witness_AtomicsAreOneTurn :
    (RunsOn (tSA .ordered 0x40) (tEA .ordered 0x40) 0 1 ∧ Held (tFA 0x40) ((List.range 2).map (62 + ·) ++ [8, 9] ++ (List.range 2).map (10 + ·)) ∧
      Here (tFA 0x40) ([8, 9] ++ (List.range 2).map (10 + ·))) ∧ (tFA 0x40).outCount < 63 ∧
    tOk ((tSA .ordered 0x40).access (tEA .ordered 0x40) ((tFA 0x40).val2 8) 8 8 .atomic) (fun _ => true) = true ∧
    tErr ((tSA .ordered 0x44).access (tEA .ordered 0x44) ((tFA 0x44).val2 8) 8 8 .atomic) = some (3, 0, 0x44) ∧
    (tSA .ordered 0x40).env? (tFA 0x40).ref = some (tEA .ordered 0x40) :=
  ⟨tOn_of (by decide +kernel), by decide +kernel⟩

/-- A workgroup with descriptors of rank 2, their bytes that are not 0 by the layout of R75: of FP16 (0, 1), of FP32 (2, 4, 5, of which 5
leaves the scratchpad) and of E4M3 (6), no entry 3; and a barrier at 0x800. -/
def tDescs : Memory :=
  [(1, 1), (8, 17), (16, 8), (20, 4), (32, 8), (34, 2), (46, 16)] ++
    [(65, 2), (72, 17), (80, 8), (84, 4), (96, 8), (98, 2), (110, 16)] ++
    [(129, 3), (136, 16), (144, 4), (148, 4), (160, 4), (162, 4), (174, 16)] ++
    [(257, 4), (264, 16), (272, 4), (276, 4), (288, 4), (290, 4), (302, 16)] ++
    [(320, 248), (321, 15), (328, 16), (336, 4), (340, 4), (352, 4), (354, 4), (366, 16)] ++
    [(385, 5), (392, 19), (400, 8), (404, 4), (416, 8), (418, 2), (430, 16)]
def tBar : StageBar := newBar 0x800 2 ⟨0, 0, 0⟩
def tUW : Workgroup := { placedWg with desc := tDescs, sbars := [tBar] }
def tUF : Fibre := { tF with clk := 2000, view := 1024, regs := setAt (setAt (setAt tRegs 28 0x800) 29 1) 30 0x10000 }
def tUP : Warp := { tP with sregs := [0, 6, 3, 0, 0, 0, 0x3F800000, 1, 0, 0xFFFF] ++ List.replicate 54 0 }
def tUE : Env := ⟨placedLaunch, tUW, tUP, tUF⟩
def tUS (w : Workgroup) (f : Fibre) : State :=
  { State.reset with parts := [placedPartition], launches := [placedLaunch], wgs := [w], warps := [tUP], fibres := [f], mem := tTables }

/-- The same with matrix commands in the queue. -/
def tCmd (d batch : Nat) (done : Bool) : MCmd :=
  { tUE.mcmd (.mzero d 0) d 63 [] noDesc noDesc 0 0 with key := ⟨1000, 0, 0⟩, batch := batch, done := done }
def tQW (c : MCmd) (log : List MLog) : Workgroup := { tUW with mcmds := [c], mlog := log }
def tQF : Fibre := { tUF with commits := 1 }
def tQE (c : MCmd) (log : List MLog) : Env := ⟨placedLaunch, tQW c log, tUP, tQF⟩
theorem witness_MatrixWords :
    (RunsOn (tUS tUW tUF) tUE 0 2 ∧ Held tUF [63, 28, 29, 30] ∧ Here tUF [63, 28, 29, 30]) ∧ tUF.cg = 0 ∧ (15 < tUE.l.tiles ∧ tUE.l.tiles ≤ 16) ∧
    (let s := tUS tUW tUF
     (s.descEntry tUE 3).valid = false ∧ (∀ n ∈ [0, 1], (s.descEntry tUE n).valid = true ∧ matDescOk (s.descEntry tUE n) false = true) ∧
     ((s.descEntry tUE 0).fmt, (s.descEntry tUE 1).fmt) ∈ [(1, 1), (2, 2), (3, 3), (3, 4), (4, 3), (4, 4), (5, 5)] ∧
     (beyondAlloc tUE.l (s.descEntry tUE 0) false (boxAt 0 0 8 2) = [] ∧ beyondAlloc tUE.l (s.descEntry tUE 1) false (boxAt 0 0 8 2) = []) ∧
     ((s.descEntry tUE 2).valid = true ∧ matDescOk (s.descEntry tUE 2) true = true ∧ (s.descEntry tUE 2).fmt ∈ [0, 1, 2, 8] ∧
       beyondAlloc tUE.l (s.descEntry tUE 2) false (boxAt (sget tUP 4).toInt (sget tUP 5).toInt 4 4) = []) ∧
     (s.descEntry tUE 6).valid = true ∧ matDescOk (s.descEntry tUE 6) true = true ∧ (s.descEntry tUE 6).fmt ∉ [0, 1, 2, 8] ∧
     (beyondAlloc tUE.l (s.descEntry tUE 5) false (boxAt 0 0 4 4)).any (fun x => (beyondAlloc tUE.l (s.descEntry tUE 5) false (boxAt 0 0 4 4)).all
       fun y => decide (x ≤ y)) = true ∧
     (tUF.val 30).toNat = 0x10000 ∧ (0x4000 ≤ (tUF.val 3).toNat ∧ (tUF.val 3).toNat ≠ 0x10000) ∧ (tUF.val 29).toNat < 0x4000 ∧ tUF.outCount < 63 ∧
     s.matrixOk tUE.l tUW.ref tUE.key tUF.uid = true ∧ tileReady tUW 15 tUE.key = true ∧ tileOpen tUW 15 tUE.key = false ∧
     (tUW.tile 15).elems.Pairwise fun y z => y.1 < z.1) ∧
    (let c := tCmd 1 0 true
     (∀ x ∈ (tQW c []).mcmds, x.uid = tQF.uid → x.batch + 0 < tQF.commits → x.done = true) ∧ tileReady (tQW c []) 1 tUE.key = true ∧
     tileOpen (tQW c []) 1 tUE.key = true) ∧
    ∃ x ∈ (tQW (tCmd 1 0 false) []).mcmds, x.uid = tQF.uid ∧ x.batch + 0 < tQF.commits ∧ x.done = false :=
  ⟨tOn_of (by decide +kernel), by decide +kernel⟩

theorem witness_CopyWords : Instr.cpy 24 2 0 0 4 28 0 0 ∈ [Instr.cpy 24 2 0 0 4 28 0 0, .cpyr 24 2 0 0 4 28 0 0, .gath 24 2 0 0 4 28 0 0, .scat 24 2 0 0 4 28 0 0] ∧
    (RunsOn (tUS tUW tUF) tUE 0 2 ∧ Held tUF [24, 25, 26, 27, 28, 31] ∧ Here tUF [24, 25, 26, 27, 28, 31]) ∧
    (let s := tUS tUW tUF
     let i := Instr.cpy 24 2 0 0 4 28 0 0
     let a := s.descEntry tUE 2
     let b := s.descEntry tUE 4
     (s.descEntry tUE 3).valid = false ∧ a.valid = true ∧ b.valid = true ∧ descOk i a [0, 0, 0, 0] (orgOnA i) = true ∧
     descOk i b [0, 0, 0, 0] (!orgOnA i) = true ∧ descPairOk i a b = true ∧ tOk (s.indexList tUE i 0 0) (fun x => x = []) = true ∧
     tOk (s.peerSide tUE a) (fun _ => true) = true ∧ tOk (s.peerSide tUE b) (fun _ => true) = true ∧
     tOk (s.liveBar tUE (tUF.val 28).toNat) (fun x => x = tBar) = true ∧ tOk (elemChecks tUE i a b (movesOf i a [0, 0, 0, 0] [])) (fun _ => true) = true) :=
  ⟨by decide, tOn_of (by decide +kernel), by decide +kernel⟩

/-- A barrier in phase 2, whose phase 1 is settled at clock 900, with and without a cause. -/
def tBar2 (cause : Nat) : StageBar := { tBar with phase := 2, cp := 900, cdone := true, cstat := cause = 0, ccause := cause }
def tBW (cause : Nat) : Workgroup := { tUW with sbars := [tBar2 cause] }
def tBE (cause : Nat) : Env := { tUE with w := tBW cause }
/-- How far the phase named by n lies ahead of a barrier's own, modulo 2^31 (R188). -/
def tPhaseAway (b : StageBar) (n : Nat) : Nat := (n % 2 ^ 31 + 2 ^ 31 - b.phase % 2 ^ 31) % 2 ^ 31
theorem witness_BarrierAndDistributorWords :
    (RunsOn (tUS tUW tUF) tUE 0 1 ∧ Held tUF [28, 29, 8, 9] ∧ Here tUF [28, 29, 8, 9]) ∧ tUF.cg = 0 ∧
    ((tUF.val 1).toNat % 64 ≠ 0 ∨ tUE.l.scratch * 256 < (tUF.val 1).toNat + 64) ∧ (0xFC0 % 64 = 0 ∧ 0xFC0 + 64 ≤ tUE.l.scratch * 256) ∧
    tUW.bar? 0x40 = none ∧ tUW.sbars.length < 64 ∧ ((tUF.val 9).toNat = 0 ∨ 65535 < (tUF.val 9).toNat) ∧ 65535 < (tUF.val 30).toNat ∧
    (1 ≤ (tUF.val 29).toNat ∧ (tUF.val 29).toNat ≤ 65535) ∧ 2 ^ 31 ≤ (tUF.val 3).toNat ∧ keyLt tUE.key ⟨2001, 0, 0⟩ = true ∧
    tOk ((tUS tUW tUF).liveBar tUE (tUF.val 28).toNat) (fun x => x = tBar) = true ∧ (tUS tUW tUF).actsBelowDone tUE.l tUW tBar tUE.key tUF.ref = true ∧
    (tUS tUW tUF).sbinitPending tUE = false ∧ tPhaseAway tBar 1 < 2 ^ 30 ∧
    (∀ c ∈ [0, 2], tPhaseAway (tBar2 c) (tUF.val 29).toNat = 2 ^ 31 - 1 ∧ (tBar2 c).cp < tUF.view ∧ ¬ 2000 < tUF.view ∧
      (tBar2 c).cdone = true ∧ (tUS (tBW c) tUF).actsBelowDone tUE.l (tBW c) (tBar2 c) tUE.key tUF.ref = true) ∧
    (2 ^ 30 ≤ tPhaseAway (tBar2 0) (tUF.val 9).toNat ∧ tPhaseAway (tBar2 0) (tUF.val 9).toNat ≠ 2 ^ 31 - 1) ∧
    (let b := { tBar2 0 with cdone := false }
     let w := { tUW with sbars := [b] }
     (tUS w tUF).actsBelowDone tUE.l w b tUE.key tUF.ref = true ∧ b.cdone = false ∧ b.cp < tUF.view) ∧
    tOk ((tUS tUW tUF).access tUE (tUF.val2 8) 64 64 .load) (fun a => tOk ((tUS tUW tUF).accBytes tUE a) fun bs => bs.length = 64) = true ∧
    tOk ((tUS tUW tUF).access tUE (tUF.val2 8) 16 16 .load) (fun a => tOk ((tUS tUW tUF).accBytes tUE a) fun bs =>
      ofBytes bs < 2 ^ 64 && ofBytes bs / 2 ^ 32 % 2 ^ 32 + ofBytes bs % 2 ^ 32 < 2 ^ 32) = true ∧ footprint tUF.pend ≤ 126 ∧
    2 ^ 20 ≤ (tUF.val 3).toNat ∧ ((tUF.val 1).toNat < 2 ^ 20 ∧ (tUF.val 1).toNat % 4 ≠ 0) ∧ (0x1000 < 2 ^ 20 ∧ 0x1000 % 4 = 0 ∧ tUE.l.scratch * 256 < 0x1000 + 4) ∧
    (0xFFC < 2 ^ 20 ∧ 0xFFC + 4 ≤ tUE.l.scratch * 256 ∧ (tUS tUW tUF).hitsBarrier tUE tUW.ref.wg 0xFFC 4 = none) :=
  ⟨tOn_of (by decide +kernel), by decide +kernel⟩

/-- One fibre waiting for its Harp act, and stream 0 of its workgroup. -/
def tHW (x : Stream) : Workgroup := { placedWg with harp := [x, Stream.closed, Stream.closed, Stream.closed] }
def tHF (i : Instr) : Fibre := { tUF with st := .harp i }
def tHE (x : Stream) (i : Instr) : Env := ⟨placedLaunch, tHW x, tUP, tHF i⟩
def tHS (x : Stream) (i : Instr) : State := tUS (tHW x) (tHF i)
def tOpen (cons : List Constraint) (last : List (Nat × Nat)) : Stream := { st := .opened, nb := 4, last := last, cons := cons, f := 0, rclk := [] }
def tRef : FRef := ⟨⟨⟨0, 0⟩, 0⟩, 0, 0⟩
theorem witness_HarpStreams :
    (RunsOn (tUS tUW tUF) tUE 0 1 ∧ Held tUF [60, 61, 62, 63, 29, 30] ∧ Here tUF [60, 61, 62, 63, 29, 30]) ∧
    ((tUF.val2 11).toNat = 0x10304 * 2 ^ 32 + 1 ∧ 2 ^ 24 < (tUF.val2 11).toNat) ∧ (1 ≤ (pair64 (0x1000000#32) 0).toNat ∧ (pair64 (0x1000000#32) 0).toNat ≤ 2 ^ 24) ∧
    (tUF.val 29).toNat < 0xFFFFFFFE ∧ 0xFFFFFFFE ≤ (tUF.val 4).toNat ∧ tUF.outCount < 63 ∧
    (∀ x ∈ [Stream.closed, tOpen [] [], tOpen [⟨1, 1, .handed⟩] []], ∀ i ∈ [Instr.hopen 0 29 0, .hpush 60 0 29 0, .hclose 0 0, .hnext 60 0 0, .hdone 0 29 0, .hsync 0 0],
      (tHS x i).env? tRef = some (tHE x i) ∧ (tHF i).st = .harp i ∧ (tHE x i).moves = true ∧
      (tHS x i).harpOk placedLaunch placedWg.ref (harpHandle i) (tHE x i).key tRef = true ∧ (tHF i).clk + 1 < clockTop) ∧
    (Stream.closed.st = .closed ∧ (tOpen [] []).st = .opened) ∧ (∃ b, [0, 5, 0, 0].find? (fun b => decide (b ≠ 0xFFFFFFFF ∧ (tOpen [] []).nb ≤ b)) = some b) ∧
    (∀ b ∈ [0, 3, 0xFFFFFFFF, 0], b = 0xFFFFFFFF ∨ b < (tOpen [] []).nb) ∧ (tOpen [] [(3, 63)]).fits [0, 3, 0xFFFFFFFF, 0] = true ∧
    (tOpen [] [(3, 64)]).fits [0, 3, 0xFFFFFFFF, 0] = false ∧ (let x := tOpen [⟨1, 1, .handed⟩] []
      let mine := fun (y : Constraint) => decide (y.st = .handed) && decide (y.payload = (tUF.val 29).toNat)
      (∃ y ∈ x.cons, mine y = true) ∧ (({ x with cons := markFirst mine .done x.cons } : Stream).retire tUF.clk).isSome = true) ∧
    (∀ y ∈ (tOpen [⟨1, 1, .waiting⟩] []).cons, y.st = .handed → y.payload ≠ (tUF.val 29).toNat) ∧ (3 : Nat) ≠ 0xFFFFFFFF :=
  ⟨tOn_of (by decide +kernel), by decide +kernel, by decide +kernel, by decide +kernel, by decide +kernel, by decide +kernel, by decide +kernel,
    by decide +kernel, ⟨5, by decide⟩, by decide +kernel⟩

/-- Each Harp word waits in a state in which its act's place in the order has come. -/
theorem witness_HarpCompletes :
    (RunsOn (tUS tUW tUF) tUE 0 1 ∧ Held tUF [60, 61, 62, 63, 8, 9] ∧ Here tUF [60, 61, 62, 63, 8, 9]) ∧ tUE.moves = true ∧ tUF.outCount < 63 ∧
    (1 ≤ (tUF.val2 8).toNat ∧ (tUF.val2 8).toNat ≤ 2 ^ 24 ∧ (tUF.val 8).toNat < 0xFFFFFFFE) ∧ (tOpen [] []).fits [0, 0, 0, 0] = true ∧
    (tOpen [⟨1, 1, .handed⟩] []).cons ≠ [] ∧
    (let x := tOpen [⟨0x40, 1, .handed⟩, ⟨1, 1, .waiting⟩] []
     let mine := fun (z : Constraint) => decide (z.st = .handed) && decide (z.payload = (tUF.val 8).toNat)
     x.cons.any mine = true ∧ ({ x with cons := markFirst mine .done x.cons } : Stream).retire tUF.clk = none) ∧
    (∀ x ∈ [Stream.closed, tOpen [] [], tOpen [⟨0x40, 1, .handed⟩, ⟨1, 1, .waiting⟩] []], ∀ i ∈ [Instr.hopen 0 8 0, .hpush 60 0 8 0, .hclose 0 0, .hnext 60 0 0,
      .hdone 0 8 0, .hsync 0 0], tRuns (tUS (tHW x) tUF) { tUE with w := tHW x } = true ∧
        ((tUS (tHW x) tUF).setF (tHF i)).ticked.harpOk placedLaunch placedWg.ref 0 tUE.key tRef = true) :=
  ⟨tOn_of (by decide +kernel), by decide +kernel⟩

/-- A state after a few acts. -/
def tRun (s : State) (is : List Instr) : State := is.foldl (fun s i => (tGo s i).getD s) s
def tL0 (s : State) : Launch := s.launches.headD placedLaunch
def tW0 (s : State) : Workgroup := s.wgs.headD placedWg
def tB0 (s : State) : StageBar := (tW0 s).sbars.headD tBar
def tCopied : State := tRun (tUS tUW tUF) [.cpy 24 2 0 0 4 28 0 0]
def tArrived : State := tRun (tUS tUW tUF) [.sbarv 28 29 0, .stageBarrierActApply ⟨⟨0, 0⟩, 0⟩ 0x800, .sbarv 28 29 0]
def tFlipped : State := tRun tArrived [.stageBarrierActApply ⟨⟨0, 0⟩, 0⟩ 0x800]
def tItem : State := tRun (tUS tUW tUF) [.wdq 7 28 0, .turnCompletion tRef]
def tAnswering : State := tRun tItem [.stageBarrierActApply ⟨⟨0, 0⟩, 0⟩ 0x800]
def tCode : State := tRun (tUS tUW { tUF with regs := setAt (setAt tUF.regs 8 0) 9 1 }) [.icinv 8 1 0]
def tZeroed : State := tRun (tUS tUW tUF) [.mzero 1 0]
theorem witness_EnginesAndTiles :
    (tCopied.launch? ⟨0, 0⟩ = some (tL0 tCopied) ∧ tCopied.wg? ⟨⟨0, 0⟩, 0⟩ = some (tW0 tCopied) ∧ (tW0 tCopied).core ≠ none ∧
      ((tL0 tCopied).ecmds.find? fun c => c.n = 1 ∧ ¬ c.done ∧ ¬ c.waiting).any (fun c => decide (c.wref = ⟨⟨0, 0⟩, 0⟩) && tCopied.ecReady (tL0 tCopied) c &&
        decide ((tCopied.runMoves (tL0 tCopied) c c.moves [] 0 0).2 = (0, 0))) = true) ∧
    (let s := { tCopied with launches := [{ tL0 tCopied with wdqs := [⟨9, ⟨10, 0, 0⟩, ⟨⟨0, 0⟩, 0⟩, 0x300, 0x800, none, false, (0, 0)⟩] }] }
     ((tL0 s).ecmds.find? fun c => c.n = 1 ∧ ¬ c.done ∧ ¬ c.waiting).any (fun c => !s.ecReady (tL0 s) c) = true) ∧
    ((tL0 tCopied).ecmds.any (fun c => 0 < (tCopied.runMoves (tL0 tCopied) { c with db := { c.db with base := 0x140000000 } } c.moves [] 0 0).2.1) = true) ∧
    ((tW0 tArrived).bar? 0x800 = some (tB0 tArrived) ∧ (tB0 tArrived).acts = [⟨⟨2001, 0, 0⟩, .arv 1⟩] ∧
      (∀ g ∈ tArrived.wgFibres ⟨⟨0, 0⟩, 0⟩, tArrived.beyond (tL0 tArrived) ⟨2001, 0, 0⟩ g = true ∧ sbOf g = none) ∧ (tB0 tArrived).cdone = true ∧
      (tB0 tArrived).phase = 0 ∧ ((SbKind.arv 1).arrivals : Int) = (tB0 tArrived).pend) ∧
    ((1 : Int) < tBar.pend ∧ tBar.pend ≤ (2 : Int) ∧ tBar.ocause = 0 ∧ tBar.ocauseKey = none) ∧
    ((tB0 tFlipped).cdone = false ∧ (tB0 tFlipped).phase = 1 ∧ (∀ g ∈ tFlipped.wgFibres ⟨⟨0, 0⟩, 0⟩, sbOf g = none) ∧
      (tL0 tFlipped).phaseFinished ⟨⟨0, 0⟩, 0⟩ 0x800 0 = true) ∧
    (((tL0 tItem).wdqs.find? fun q => q.n = 1 ∧ ¬ q.done).any (fun q => decide (q.phase = none) && tItem.launchBeyond (tL0 tItem) q.key) = true) ∧
    ((tL0 tAnswering).wdqs.any (fun q => q.n = 1 && !q.done && q.phase = some 0) && tAnswering.launchBeyond (tL0 tAnswering) ⟨2000, 0, 0⟩) = true ∧
    ((tB0 tArrived).acts.length = 1 ∧ (∀ g ∈ tArrived.wgFibres ⟨⟨0, 0⟩, 0⟩, tArrived.actPast (tL0 tArrived) ⟨2001, 0, 0⟩ g = true)) ∧
    (let f := { tUF with bregs := setAt tUF.bregs 3 ⟨.prepared, 2 ^ 32 + 4⟩ }
     tCode.inContext 0 0 f = true ∧ keyLt (f.bkey 3) ⟨2000, 0, 0⟩ = true) ∧
    (((tL0 tCode).icinvs.find? fun v => v.n = 1 ∧ v.bytes = none).any (fun v => tCode.launchBeyond (tL0 tCode) v.key &&
      tCode.landed (tL0 tCode) v.rd.view (tCode.codeLocs (tL0 tCode) 0 v.lo (v.hi - v.lo)) &&
      !tCode.pendingWrite (tL0 tCode) (fun k => keyLt k v.key) (tCode.codeLocs (tL0 tCode) 0 v.lo (v.hi - v.lo))) = true) ∧
    (((tW0 tZeroed).mcmds.find? fun c => c.n = 1).any (fun c => tZeroed.matReady (tL0 tZeroed) (tW0 tZeroed) c &&
      tZeroed.matrixOk (tL0 tZeroed) ⟨⟨0, 0⟩, 0⟩ c.key c.uid && decide (c.tile < (tW0 tZeroed).tiles.length)) = true) := by decide +kernel

/-- A fibre with branch targets 2 and 7 in a state, and a window. -/
def tBF (st : BSt) (wb : Nat) : Fibre := { tUF with wbase := wb, bregs := setAt (setAt tUF.bregs 2 ⟨st, 0x100000100#57⟩) 7 ⟨st, 0x100000200#57⟩ }
theorem witness_ControlTransfers :
    (∀ f ∈ [tBF .unprepared 0, tBF .stale 48, tBF .prepared 46], tOn (tUS tUW f) { tUE with f := f } 0 1024 [8, 9] [8, 9] = true) ∧ tUF.cg = 0 ∧
    ((tUF.val2 8).toNat % 4 = 0 ∧ (tUF.val2 8).toNat < 2 ^ 56) ∧ ¬ ((tUF.val2 1).toNat % 4 = 0) ∧ 2 ^ 19 - 1 < 2 ^ 19 ∧
    ((tBF .unprepared 0).bregs.getD 2 ⟨.unprepared, 0⟩).st = .unprepared ∧ ((tBF .unprepared 0).bregs.getD 7 ⟨.unprepared, 0⟩).st = .unprepared ∧
    ((tBF .stale 48).bregs.getD 2 ⟨.unprepared, 0⟩).st ≠ .unprepared ∧ ((tBF .stale 48).bregs.getD 7 ⟨.unprepared, 0⟩).st ≠ .unprepared ∧
    (48 + 8 * 1 ≤ 248 ∧ 48 + 8 * 1 + 2 ≤ (tBF .stale 48).regs.length) ∧ (tBF .prepared 46).regs.length = 46 + 8 * 2 + 2 ∧
    (248 < 48 + 8 * 26 ∨ (tBF .stale 48).regs.length < 48 + 8 * 26 + 2) ∧ 8 * 6 ≤ (tBF .stale 48).wbase ∧ (tBF .stale 48).wbase < 8 * 7 := by decide +kernel

/-- A fibre that has arrived at set 0 before. -/
def tArr : Fibre := { tUF with arr := [3, 0, 0, 0], arrOut := [true, false, false, false] }
theorem witness_BarriersAndWaits :
    (RunsOn (tUS tUW tUF) tUE 0 1 ∧ Held tUF [8, 9, 1] ∧ Here tUF [8, 9, 1]) ∧ tUF.cg = 0 ∧ tUE.setIdx? 3 = none ∧ tUE.setIdx? 0 = some 0 ∧
    tUF.arrOut.getD 0 false = false ∧ (tArr.arrOut.getD 0 false = true ∧ tOn (tUS tUW tArr) { tUE with f := tArr } 0 1 [] [] = true) ∧
    (2000 / 2 ^ 10 + 1) * 2 ^ 10 < 2 ^ 56 ∧ 2 ^ 56 ≤ ((2 ^ 56 - 2) / 2 ^ 10 + 1) * 2 ^ 10 ∧
    tOk ((tUS tUW tUF).waitneAccess tUE (tUF.val2 8)) (fun a => tOk ((tUS tUW tUF).accBytes tUE a) fun bs => decide (BitVec.ofNat 32 (ofBytes bs) = tUF.val 9)) = true ∧
    tUF.wne = none ∧ tUF.val 9 ≠ tUF.val 1 := ⟨tOn_of (by decide +kernel), by decide +kernel⟩

/-- A fibre parked with a code. -/
def tRec (c : Nat) (info : BitVec 64) : FaultRec :=
  { code := c, cause := 0, warp := 0, lane := 0, clk := 2000, oaddr := tUF.pc, widx := 0, word := 0, info := info, ctx := 0 }
def tParked (c : Nat) (info : BitVec 64) (p : Posted) : Fibre := { tUF with st := .parked (tRec c info) p }
def tParkE (c : Nat) (info : BitVec 64) (p : Posted) : Env := { tUE with f := tParked c info p }
theorem witness_TrapStops : tOn (tUS tUW tUF) tUE 0 1 [] [] = true ∧ tUF.pred tUF.cg = true ∧
    tOn (tUS tUW { tUF with hdr := tOff.hdr }) { tUE with f := { tUF with hdr := tOff.hdr } } 0 1 [] [] = true ∧ tUF.pred (Fibre.cg { tUF with hdr := tOff.hdr }) = false ∧
    ((tUS tUW (tParked 0x18 5 (.tag 3))).partFibres 0).find? (fun f => stopTag f = some 3) = some (tParked 0x18 5 (.tag 3)) ∧
    (tUS tUW (tParked 0x18 5 (.tag 3))).env? (tParked 0x18 5 (.tag 3)).ref = some (tParkE 0x18 5 (.tag 3)) ∧ tUF.clk + 1 < clockTop ∧ (0 < 2 ^ 12 ∧ 2 ^ 12 - 1 < 2 ^ 12) := by
  decide +kernel

/-- The partition with a debugger, and with its rings enabled. -/
def tDebugged : Partition := { placedPartition with attached := true }
def tRings : Partition := { placedPartition with rings := List.replicate 5 { base := 0, en := true, logn := 4, drop := 0, tail := 0, head := 0 } }
theorem witness_BreakStops : tOn (tUS tUW tUF) tUE 0 1 [] [] = true ∧ tUF.pred 3 = false ∧
    State.debugged { tUS tUW tUF with parts := [tDebugged] } 0 = true ∧
    (let s := { tUS tUW (tParked 0x19 0 .no) with parts := [tRings] }
     s.env? tRef = some (tParkE 0x19 0 .no) ∧ s.part? 0 = some tRings ∧ tRings.replay = none ∧ tRings.attached = false ∧ (tRings.ring 1).room = true ∧
     freeTag ((s.partFibres 0).filterMap stopTag ++ tRings.stopTags) = some 0) ∧
    ((tUS tUW (tParked 0x19 0 (.tag 3))).partFibres 0).find? (fun f => stopTag f = some 3) = some (tParked 0x19 0 (.tag 3)) ∧
    (tUS tUW (tParked 0x19 0 (.tag 3))).env? (tParked 0x19 0 (.tag 3)).ref = some (tParkE 0x19 0 (.tag 3)) ∧ tUF.clk + 1 < clockTop ∧
    (0 < 2 ^ 18 ∧ 2 ^ 18 - 1 < 2 ^ 18) := by decide +kernel

theorem witness_MessagesAndPhases : (RunsOn (tUS tUW tUF) tUE 0 4 ∧ Held tUF [60, 8, 9, 1] ∧ Here tUF [8, 9, 1]) ∧ tUF.cg = 0 ∧
    ((tUF.val 9).toNat = 0 ∧ (tUF.val 1).toNat ≠ 0) ∧ (regionOf 0x100000000 = some (.glob (2 ^ 32)) ∧ 0x100000000 + 5 ≤ 2 ^ 56) ∧
    (regionOf 0xFFFFFFFFFFFFFFFB = some (.glob 0x1FFFFFFFFFFFFFB) ∧ 0xFFFFFFFFFFFFFFFB + 5 ≤ 2 ^ 64) ∧ regionOf (tUF.val2 8) = some (.own 0x40) ∧
    (2 ^ 56 - 1 < 2 ^ 56 ∧ 2 ^ 56 < 2 ^ 56 - 1 + 5) ∧
    (∀ p ∈ [placedPartition, tDebugged, { tDebugged with mbox := setAt tDebugged.mbox 16 4 }], ({ tUS tUW tUF with parts := [p] } : State).part? 0 = some p ∧
      p.told ⟨0, 0⟩ tUE.key = false ∧ p.mbox.length = 64) ∧
    (tDebugged.attached = true ∧ mboxFull tDebugged = false ∧ placedPartition.attached = false ∧ mboxFull { tDebugged with mbox := setAt tDebugged.mbox 16 4 } = true) ∧
    tUW.sbars.all (fun b => keyLt b.made tUE.key) = true :=
  ⟨tOn_of (by decide +kernel), by decide +kernel⟩

/-- A fibre with a result outstanding for v1. -/
def tOut (o : Outst) : Fibre := { tUF with outs := [o] }
def tLate : Outst :=
  { kind := .arith, dst := [some 1], token := 1, key := ⟨1, 0, 0⟩, addr := 0, size := 0, sext := false, vals := some [5], rd := noRd, locs := [] }
theorem witness_GuardsAndOperands : tOn (tUS tUW tUF) tUE 0 2 [20, 1, 63] [20, 1, 63] = true ∧ tUF.pred 3 = false ∧
    tOn (tUS tUW { tUF with hdr := tOff.hdr }) { tUE with f := { tUF with hdr := tOff.hdr } } 0 2 [] [] = true ∧ tUF.pred (Fibre.cg { tUF with hdr := tOff.hdr }) = false ∧
    ([63, 64, 65].find? fun r => decide (tUF.regs.length ≤ tUF.wbase + r)) = some 64 ∧ tOn (tUS tUW (tOut tLate)) { tUE with f := tOut tLate } 0 1 [20, 1, 2] [] = true ∧
    (tOut tLate).awaits ((tOut tLate).wbase + 1) = true ∧
    ((tUS tUW { tUF with clk := 2 ^ 56 - 1 }).env? tRef = some { tUE with f := { tUF with clk := 2 ^ 56 - 1 } } ∧ 2 ^ 56 ≤ (2 ^ 56 - 1) + 1) := by decide +kernel

theorem witness_PassingAWord : tUF.ref = tUE.f.ref ∧ tUF.clk = tUE.f.clk ∧ (tUS tUW tUF).fibre? tUF.ref ≠ none ∧
    (2000 < (2000 + 48) / 2 ^ 10 * 2 ^ 10 ∧ (2000 + 47) / 2 ^ 10 * 2 ^ 10 ≤ 2000) := by decide +kernel
theorem witness_TakingAnException : (tUS tUW tUF).env? tUF.ref = some tUE ∧ (0x17 < 0x18 ∨ (tUS tUW tUF).debugged 0 = false) ∧
    (tRec 7 0).code ≠ 0x0F ∧ (tRec 0x0F 1).code = 0x0F := by decide +kernel

/-- A fibre before the clause of one `add` at 0x2000000, with a header; some waits of fibres. -/
def tEnter (o : List Outst) (clk : Nat) : Fibre := { tUF with st := .enter, words := [], hdr := 0, outs := o, clk := clk }
def tClause (hdr : Word) (f : Fibre) : State :=
  { tUS tUW f with mem := tTables ++ ((toBytes 4 hdr.toNat ++ toBytes 4 0x01040002).zipIdx.filterMap fun x => if x.1 = 0 then none else some (0x2000000 + x.2, x.1)) }
def tBarW : State := tRun (tUS tUW tUF) [.bar 0]
def tBarL : State := tRun (tUS tUW { tUF with clk := 2 ^ 56 - 5 }) [.bar 0]
def tLane1 (clk : Nat) (st : FStat) : Fibre := { tUF with ref := ⟨⟨⟨0, 0⟩, 0⟩, 0, 1⟩, uid := 1, clk := clk, st := st }
def tWith (s : State) (f : Fibre) : State := { s with fibres := s.fibres ++ [f] }
def tFork : Fibre := { tUF with st := .fork 2 0x100000100#57 20 }
def tGangL : Launch := { placedLaunch with gang := true, gx := 4, pgx := 4 }
def tGangF (k clk : Nat) (st : FStat) : Fibre := { tUF with ref := ⟨⟨⟨0, 0⟩, k⟩, 0, 0⟩, uid := k, clk := clk, st := st }
def tGang (clk : Nat) : State :=
  { tUS tUW tUF with launches := [tGangL], wgs := (List.range 4).map (fun k => { tUW with ref := ⟨⟨0, 0⟩, k⟩ }), warps := (List.range 4).map (fun k => { tUP with wref := ⟨⟨0, 0⟩, k⟩ }), fibres := [tGangF 0 2000 (.peer 2), tGangF 1 2001 .run, tGangF 2 clk .run, tGangF 3 2001 .run] }
theorem witness_ClausesAndWaits :
    (∀ x ∈ [(0x10000080#32, tEnter [] 2000), (0x10100080#32, tEnter [tLate] 2000), (0x10000081#32, tEnter [] 2000), (0x10000080#32, tEnter [] (2 ^ 56 - 1))],
      (tClause x.1 x.2).env? tRef = some { tUE with f := x.2 } ∧ x.2.atHeader = x.2 ∧ x.2.st = .enter ∧ Env.free { tUE with f := x.2 } = true ∧
      Env.preStopped { tUE with f := x.2 } = false ∧ (tClause x.1 x.2).fetchClause placedLaunch (Env.key { tUE with f := x.2 }) x.2.pc = .clause x.1 [0x01040002#32]) ∧
    (clauseOk DecTab.native.look 0x10000080#32 [0x01040002#32] = true ∧ clauseOk DecTab.native.look 0x10000081#32 [0x01040002#32] = false) ∧
    (tokensHeld (tEnter [] 2000) 0x10000080 = false ∧ tokensHeld (tEnter [tLate] 2000) 0x10100080 = true ∧ ¬ (2 ^ 56 - 1 + 1 < clockTop)) ∧
    (let f := tEnter [tLate] 2000
     ({ f with held := some (tokenStall f 0x10100080) } : Fibre).held = some (tokenStall f 0x10100080) ∧ f.held ≠ some (tokenStall f 0x10100080)) ∧
    (let l := { placedLaunch with icinvs := [⟨1, ⟨10, 0, 0⟩, ⟨⟨0, 0⟩, 0⟩, 2 ^ 32, 2 ^ 32 + 128, noRd, none⟩] }
     (match (tClause 0x10000080#32 (tEnter [] 2000)).fetchClause l tUE.key 0x100000000#57 with
       | .wait => true
       | _ => false) = true) ∧
    (tUS tUW tUF).fetchClause placedLaunch tUE.key 0x140000000#57 = .fault 1 0 0x140000000 ∧
    (∀ s ∈ [tBarW, tBarL], (s.env? tRef).any (fun e => decide (e.setIdx? 0 = some 0) && e.moves && s.phaseDone e.l 0 1) = true) ∧
    (tBarW.fibres.map (·.st) = [.bar 0 1 2000] ∧ (tL0 tBarW).arrivalMax 0 1 = 2000 ∧ (tL0 tBarL).arrivalMax 0 1 = 2 ^ 56 - 5) ∧
    (let s := tWith { tBarW with launches := [{ tL0 tBarW with fibres := 2 }] } (tLane1 100 .run)
     s.phaseDone (tL0 s) 0 1 = false) ∧
    ((tUS tUW tFork).env? tRef = some { tUE with f := tFork } ∧ (∀ o ∈ tFork.outs, ∀ d ∈ o.dst, d = none) ∧ Env.moves { tUE with f := tFork } = true ∧
      (tUS tUW tFork).turnOk placedLaunch 0 2000 = true ∧ (tUS tUW tFork).forkBlocked { tUE with f := tFork } = false ∧
      (tUS tUW tFork).laneFree { tUE with f := tFork } tUE.key 1 = true ∧ (tUS tUW tFork).laneFree { tUE with f := tFork } tUE.key 0 = false) ∧
    (let s := (List.range 31).foldl (fun s k => tWith s { tLane1 2005 .run with ref := ⟨⟨⟨0, 0⟩, 0⟩, 0, k + 1⟩, uid := k + 1 }) (tUS tUW tFork)
     s.forkBlocked { tUE with f := tFork } = false ∧ ∀ n, n < 32 → s.laneFree { tUE with f := tFork } tUE.key n = false) ∧
    ((tGang 2001).env? tRef = some ⟨tGangL, tUW, tUP, tGangF 0 2000 (.peer 2)⟩ ∧
      (∀ g ∈ (tGang 2001).wgFibres ⟨⟨0, 0⟩, 2⟩, (tGang 2001).beyond tGangL ⟨2000, 0, 0⟩ g = true) ∧
      ∃ g ∈ (tGang 1000).wgFibres ⟨⟨0, 0⟩, 2⟩, (tGang 1000).beyond tGangL ⟨2000, 0, 0⟩ g = false) ∧
    ((tUS tUW { tUF with st := .excl }).env? tRef = some { tUE with f := { tUF with st := .excl } } ∧ placedLaunch.ecmds = [] ∧ placedLaunch.icinvs = [] ∧
      ∀ g ∈ (tUS tUW { tUF with st := .excl }).wgFibres ⟨⟨0, 0⟩, 0⟩, g.ref = tRef) := by decide +kernel

/-- Fibres in their turns, a publication behind another, an atomic and an outstanding load. -/
def tTurn (k : AfterTurn) : Fibre := { tUF with st := .turn 2000 k }
def tPub : Pub := ⟨⟨1000, 0, 0⟩, 0, false, [⟨.spad 0 5, 7, 0xFF⟩, ⟨.phys 0x2000040, 3, 0x0F⟩], none⟩
def tPubL : Launch := { placedLaunch with pubs := [⟨⟨900, 0, 0⟩, 0, false, [⟨.spad 0 7, 1, 0xFF⟩], none⟩, tPub] }
def tAtom (d : Bool) : AtomReq :=
  { op := .add, addr := 0x40, locs := (List.range 4).map fun k => .spad 0 (0x40 + k), direct := d, b0 := 5, b1 := 6, dst := [20] }
def tLoaded : Outst :=
  { kind := .load, dst := [some 3, some 4], token := 1, key := ⟨1, 0, 0⟩, addr := 0x40, size := 8, sext := false, vals := none, rd := ⟨⟨2000, 0, 0⟩, 1024, []⟩, locs := (List.range 8).map fun k => .spad 0 (0x40 + k) }
theorem witness_OrderedEvents :
    (∀ k ∈ [AfterTurn.resume, .leave 2001, .atom (tAtom false), .sbwait 0x800 0 2000 none, .hstall 0 [0, 0, 0, 0] 5 2000 2000 false, .hsync 0 1 2000 none,
        .hsync 0 1 2000 (some 2005)],
      (tUS tUW (tTurn k)).env? tRef = some { tUE with f := tTurn k } ∧ Env.moves { tUE with f := tTurn k } = true ∧
      (tUS tUW (tTurn k)).turnOk placedLaunch 0 2000 = true) ∧
    (tWith (tUS tUW (tTurn .resume)) (tLane1 1999 .run)).turnOk placedLaunch 0 2000 = false ∧ (2 ^ 56 ≤ 2 ^ 56 ∧ Launch.order { placedLaunch with order := false } = false) ∧
    (let s := { tUS tUW tUF with launches := [tPubL] }
     s.memOk = true ∧ s.launch? ⟨0, 0⟩ = some tPubL ∧ tPubL.pubs[1]? = some tPub ∧
     (tPubL.pubs.take 1).all (fun q => q.bytes.all fun b => !(tPub.bytes.map (·.loc)).contains b.loc) = true ∧
     (tPub.bytes.map (·.loc)).all (s.seenBeyond tPubL tPub.key) = true ∧ s.readerBelow tPubL tPub.key.clk (tPub.bytes.map (·.loc)) = false ∧
     s.pendingWrite tPubL (fun k => keyLt k tPub.key) (tPub.bytes.map (·.loc)) = false ∧ (tPub.bytes.map (·.loc)).Nodup ∧ s.intoImage ⟨0, 0⟩ (tPub.bytes.map (·.loc)) = false ∧ tPub.src = none ∧ s.wg? ⟨⟨0, 0⟩, 0⟩ ≠ none) ∧
    (∀ d ∈ [true, false], State.atomOk (tUS tUW { tUF with st := .atom (tAtom d) }) { tUE with f := { tUF with st := .atom (tAtom d) } } (tAtom d) = true) ∧ tUF.outCount < 63 ∧
    (tUW.core ≠ none ∧ tUF.outs = [] ∧ (tUS tUW tUF).intoImage ⟨0, 0⟩ (tAtom true).locs = false) ∧
    ((tUS tUW (tOut tLoaded)).env? tRef = some { tUE with f := tOut tLoaded } ∧ (tOut tLoaded).outs[0]? = some tLoaded ∧
      (tUS tUW (tOut tLoaded)).outVals placedLaunch tLoaded = some [0, 0] ∧ tUW.core ≠ none ∧
      (tUS tUW (tOut tLoaded)).landed placedLaunch tLoaded.rd.view tLoaded.locs = true) ∧ (tLoaded.dst[1]? = some (some 4) ∧ 4 < tUF.regs.length) := by decide +kernel

/-- Two fibres that meet, at one point or at two words, in a stalled Harp, and in a stuck launch. -/
def tPair (st st' : FStat) : State :=
  { tUS tUW tUF with launches := [{ placedLaunch with fibres := 2 }], fibres := [{ tUF with st := st }, { tLane1 2000 st' with widx := 1, arr := [1, 0, 0, 0], arrOut := [true, false, false, false] }] }
/-- Two fibres that wait at one set each for the other. -/
def tCross : State :=
  { tPair (.bar 0 1 2000) (.bar 1 1 2000) with launches := [{ placedLaunch with fibres := 2, sets := [(0, [(0, 0)]), (1, [(0, 0)])] }], fibres := [{ tUF with st := .bar 0 1 2000, arr := [1, 0, 0, 0], arrOut := [true, false, false, false] }, { tLane1 2000 (.bar 1 1 2000) with arr := [0, 1, 0, 0], arrOut := [false, true, false, false] }] }
/-- A warp one of whose fibres waits at a point and the other at a barrier that a fibre of another warp holds up, which waits at a barrier for them. -/
def tSplit : State :=
  { tPair (.conv (.wsync 0)) (.bar 0 1 2000) with
    launches := [{ placedLaunch with fibres := 2, warps := 2, sets := [(0, [(0, 1)]), (1, [(0, 1)])] }],
    warps := [tUP, { tUP with j := 1 }],
    fibres := [{ tUF with st := .conv (.wsync 0), arr := [1, 0, 0, 0], arrOut := [true, false, false, false] },
      { tLane1 2000 (.bar 0 1 2000) with widx := 1, arr := [1, 0, 0, 0], arrOut := [true, false, false, false] },
      { tUF with ref := ⟨⟨⟨0, 0⟩, 0⟩, 1, 0⟩, uid := 2, st := .bar 1 1 2000, arr := [0, 1, 0, 0], arrOut := [false, true, false, false] }] }
theorem witness_MeetingsAndDeadlocks :
    (∃ x, convFire (.wsync 0) = some x ∧ (∀ g ∈ (tPair (.conv (.wsync 0)) (.conv (.wsync 0))).scopeOf x.1 tRef, waitsAt { tUF with st := .conv (.wsync 0) } (.wsync 0) g = (g.widx == 0)) ∧
      (∀ g ∈ (tUS tUW { tUF with st := .conv (.wsync 0) }).scopeOf x.1 tRef, waitsAt { tUF with st := .conv (.wsync 0) } (.wsync 0) g = true) ∧
      (x.2 (tUS tUW { tUF with st := .conv (.wsync 0) }) [{ tUE with f := { tUF with st := .conv (.wsync 0) } }]).isSome = true) ∧
    (let s := tPair (.conv (.wsync 0)) (.conv (.wsync 1))
     (s.convGroup? (tL0 s) false { tUF with st := .conv (.wsync 0) }).any (fun fs => fs.length = 2 && fs.all fun g => (s.env? g.ref).isSome) = true) ∧
    (let s := tPair (.hstall 0 [0, 0, 0, 0] 5 2000 2000 false) (.bar 0 1 2000)
     s.launch? ⟨0, 0⟩ = some (tL0 s) ∧ (s.wgFibres ⟨⟨0, 0⟩, 0⟩).length = 2 ∧ (tL0 s).setsOf (warpId (tL0 s) tRef) = [0] ∧ s.barStuck (tL0 s) ⟨⟨0, 0⟩, 0⟩ 0 1 = true) ∧
    (let s := tCross
     s.launchStuck (tL0 s) = true ∧ (s.launchFibres ⟨0, 0⟩).map barSet = [some 0, some 1] ∧
     ∀ dead, (∀ f ∈ s.launchFibres ⟨0, 0⟩, s.convGroup? (tL0 s) dead f = none) ∧ ∀ w ∈ s.wgs, w.ref.launch = ⟨0, 0⟩ → s.harpStuck (tL0 s) dead w.ref = false) ∧
    (let s := tSplit
     let f := { tUF with st := .conv (.wsync 0), arr := [1, 0, 0, 0], arrOut := [true, false, false, false] }
     s.env? tRef = some ⟨tL0 s, tUW, { tUP with j := 0 }, f⟩ ∧ (tL0 s).preempt = none ∧ s.deadlocked (tL0 s) = true ∧ s.convGroup? (tL0 s) true f ≠ none ∧
     (∀ g ∈ s.launchFibres ⟨0, 0⟩, s.env? g.ref ≠ none) ∧ ∀ g ∈ s.fibres, ∀ g' ∈ s.fibres, g.ref = g'.ref → g = g') :=
  ⟨⟨_, rfl, by decide +kernel, by decide +kernel, by decide +kernel⟩, by decide +kernel⟩

/-- A packet for one workgroup of one fibre, with its record at 2^32 + 0x100 (R236): its number, its workgroups, a dependence. -/
def tPacket (seq gx dep : Nat) : Nat :=
  0x100000000 + 0x100000100 * 2 ^ 384 + gx * 2 ^ 448 + 2 ^ 480 + 2 ^ 512 + dep * 2 ^ 576 + seq * 2 ^ 704 + 8 * 2 ^ 768 + 2 ^ 776 + 2 ^ 784 + 2 ^ 792 +
    10 * 2 ^ 800 + 16 * 2 ^ 808

/-- A partition with queue 0, whose ring lies at 2^32 + 0x200. -/
def tQueue : Queue := { Queue.reset 0 with part := some 0, en := true, rsize := 4, ring := 0x100000200, tail := 1 }
def tPackets (q : Queue) (m : Memory) : State :=
  { State.reset with parts := [placedPartition], queues := q :: (List.range 255).map (fun n => Queue.reset (n + 1)), mem := memPut m 0x2000200 (toBytes 128 (tPacket 0 1 0)) }
def tAsked (q : Queue) (x : Nat) : Queue := { q with packet := some (BitVec.ofNat 1024 x) }
theorem witness_PacketsAreRead :
    (let s := tPackets tQueue tTables
     s.queue? 0 = some tQueue ∧ tQueue.part = some 0 ∧ s.part? 0 = some placedPartition ∧ placedPartition.ctx? 0 = some placedContext ∧
     (placedPartition.stopped = false ∧ placedPartition.dead = false ∧ placedPartition.replay = none ∧ placedPartition.mark = none) ∧ tQueue.en = true ∧
     tQueue.packet = none ∧ tQueue.nextSeq ≠ tQueue.tail ∧ dispRead s placedPartition placedContext 1 0x100000200 128 = some (toBytes 128 (tPacket 0 1 0)) ∧
     ofBytes (toBytes 128 (tPacket 0 1 0)) = tPacket 0 1 0 ∧ (∀ y ∈ s.check2 tQueue (BitVec.ofNat 1024 (tPacket 0 1 0)), y.2 = false) ∧
     (s.check2 tQueue (BitVec.ofNat 1024 (tPacket 1 1 0))).find? (·.2) = some (704, true) ∧ dispRead s placedPartition placedContext 1 0x140000000 128 = none ∧
     memWf s.mem = true) ∧
    (tQueue.done = [] ∧ (0 : Word) = tQueue.doneSeq + 1 ∧ (1 : Word) ≠ tQueue.doneSeq + 1) ∧ (2 ^ 32 - 1 < 2 ^ 32 ∧ 2 ^ 64 - 1 < 2 ^ 64) := by decide +kernel
theorem witness_PacketsAreAccepted :
    (∀ x ∈ [tPacket 0 1 0, tPacket 0 0 0, tPacket 0 1 0 + 2 ^ 826], let q := tAsked tQueue x
      let s := tPackets q tTables
      s.queue? 0 = some q ∧ q.part = some 0 ∧ s.part? 0 = some placedPartition ∧ q.packet = some (BitVec.ofNat 1024 x) ∧ placedContext.held = [] ∧
      depsOf (BitVec.ofNat 1024 x) = [] ∧ s.goesFirst placedPartition q = false) ∧
    (∀ x ∈ [(tPacket 0 1 0, 1), (tPacket 0 0 0, 0)], let q := tAsked tQueue x.1
      (match (tPackets q tTables).checkLaunch placedPartition q placedContext (BitVec.ofNat 1024 x.1) 1 with
        | .ok l => l.wgCount == x.2
        | .error _ => false) = true) ∧
    (let q := tAsked tQueue (tPacket 0 1 0 + 2 ^ 826)
     (match (tPackets q tTables).checkLaunch placedPartition q placedContext (BitVec.ofNat 1024 (tPacket 0 1 0 + 2 ^ 826)) 1 with
        | .ok _ => false
        | .error _ => true) = true) ∧
    (let x := tPacket 0 1 0 + 2 ^ 639
     depsOf (BitVec.ofNat 1024 x) = [(0, 0)] ∧ (tPackets (tAsked { tQueue with fails := [0] } x) tTables).depFailed (0, 0) = true ∧
     (tPackets (tAsked tQueue x) tTables).depFailed (0, 0) = false ∧ (tPackets (tAsked tQueue x) tTables).depMet (0, 0) = false) ∧
    (let q := tAsked tQueue (tPacket 0 1 0 + 2 ^ 826)
     let s := tPackets q tTables
     (BitVec.ofNat 1024 (tPacket 0 1 0 + 2 ^ 826)).toNat / 2 ^ 826 % 2 = 1 ∧ s.countsOpen placedPartition q placedContext (BitVec.ofNat 1024 (tPacket 0 1 0 + 2 ^ 826)) = false ∧
     State.countsOpen { s with launches := [placedLaunch] } placedPartition q placedContext (BitVec.ofNat 1024 (tPacket 0 1 0 + 2 ^ 826)) = true) ∧
    (let q := tAsked tQueue (tPacket 0 1 0)
     let s := { tPackets q tTables with queues := [q, { q with id := 1, prio := 7 }] }
     s.queue? 0 = some q ∧ s.goesFirst placedPartition q = true) := by decide +kernel

/-- A launch not started, one that exits and one that is over. -/
def tNew : Launch := { placedLaunch with next := 0 }
def tGangNew : Launch := { tGangL with next := 0 }
def tOnly (l : Launch) : State := { State.reset with parts := [placedPartition], launches := [l], mem := tTables, queues := { tQueue with nextSeq := 1 } :: (List.range 255).map (fun n => Queue.reset (n + 1)) }
def tExits : Launch := { placedLaunch with exits := [(0, ⟨2000, 0, 0⟩)] }
theorem witness_WorkgroupsComeAndGo :
    (∀ x ∈ [(tNew, [(0, some 0)]), (tGangNew, [(0, some 0), (1, some 1), (2, some 2), (3, some 3)])], (tOnly x.1).launch? ⟨0, 0⟩ = some x.1 ∧ (tOnly x.1).part? 0 = some placedPartition ∧
      x.1.next < x.1.wgCount ∧ x.1.preempt = none ∧ (tOnly x.1).launchHeld placedPartition x.1 = false ∧ (tOnly x.1).placesFirst placedPartition x.1 = false ∧
      (tOnly x.1).nextPlaces placedPartition x.1 = some x.2 ∧ (x.2.map (·.1)).Nodup ∧ (tOnly x.1).wgs = [] ∧ (tOnly x.1).fibres = []) ∧ tNew.gang = false ∧
    (let s := { tUS tUW tUF with launches := [tExits], fibres := [] }
     s.wg? ⟨⟨0, 0⟩, 0⟩ = some tUW ∧ s.launch? ⟨0, 0⟩ = some tExits ∧ tExits.exitOf 0 = some ⟨2000, 0, 0⟩ ∧ s.wgFibres ⟨⟨0, 0⟩, 0⟩ = [] ∧ tUW.mcmds = [] ∧ tExits.ecmds = [] ∧
     tExits.wdqs = [] ∧ 2000 < s.quadHorizon tExits 0 ∧ s.padNeeded tExits 0 = false ∧ tExits.preempt = none) ∧
    ((tOnly placedLaunch).launch? ⟨0, 0⟩ = some placedLaunch ∧ placedLaunch.wgCount ≤ placedLaunch.next ∧ placedLaunch.pubs = [] ∧ (tOnly placedLaunch).wgs = [] ∧
      placedLaunch.ecmds = []) := by decide +kernel

/-- A launch of five workgroups, four of which wait on the four cores; warps of one scheduler. -/
def tWaits : FStat := .hsync 0 1 2000
def tFive : Launch := { placedLaunch with gx := 5, pgx := 5, next := 4 }
def tFull4 : State :=
  { tUS tUW tUF with launches := [tFive], wgs := (List.range 4).map (fun k => tFive.newWg k k), warps := (List.range 4).map (fun k => { placedWarp with wref := ⟨⟨0, 0⟩, k⟩ }), fibres := (List.range 4).map (fun k => tGangF k 2000 tWaits) }
def tAway : Workgroup := { tUW with core := none }
def tVW (j : Nat) (a : Bool) : Warp := { tUP with j := j, slot := 4 * j, active := a }
def tVF (j clk : Nat) (st : FStat) : Fibre := { tUF with ref := ⟨⟨⟨0, 0⟩, 0⟩, j, 0⟩, uid := j, st := st, clk := clk }
def tVS (vs : List Warp) (fs : List Fibre) : State := { tUS tUW tUF with launches := [{ placedLaunch with warps := 9 }], warps := vs, fibres := fs }
def tNine : State := tVS ((List.range 8).map (fun j => tVW j true) ++ [tVW 8 false]) ((List.range 9).map fun j => tVF j (3000 - 100 * j) .run)
theorem witness_CoresShareTheWork :
    (tFull4.wg? ⟨⟨0, 0⟩, 0⟩ = some (tFive.newWg 0 0) ∧ tFull4.launch? ⟨0, 0⟩ = some tFive ∧ tFull4.part? 0 = some placedPartition ∧ tFive.preempt = none ∧ tFive.order = true ∧
      tFive.next < tFive.wgCount ∧ tFull4.nextPlaces placedPartition tFive = none ∧ (tFive.newWg 0 0).core ≠ none ∧ tFull4.resultsIn ⟨⟨0, 0⟩, 0⟩ = true ∧
      (∀ x ∈ tFull4.wgs, x.ref.launch = ⟨0, 0⟩ ∧ x.core ≠ none ∧ tFull4.wgFibres x.ref ≠ [] ∧ tFull4.wgWaits tFive x = true ∧ tFull4.barUnplaced tFive x = false ∧ 0 ≤ x.ref.wg)) ∧
    (let s := tUS tAway tUF
     s.returnCore placedPartition placedLaunch tAway = some 0 ∧ placedLaunch.rotated tAway = true ∧ s.wouldAct placedLaunch tAway 0 = true ∧
     s.placesFirst placedPartition placedLaunch = false ∧ (∀ f ∈ s.wgFibres tAway.ref, f.performed = false)) := by decide +kernel
theorem witness_CoresShareTheWork_warps :
    (∀ a ∈ [true, false], let s := tVS [tVW 0 a] [tVF 0 5 tWaits]
      s.warpWaits (tVW 0 a) = true ∧ s.warp? ⟨⟨0, 0⟩, 0⟩ 0 = some (tVW 0 a) ∧ tUW.core = some 0 ∧ (s.pendingWarps 0 0 0).length < 4) ∧
    (∀ a ∈ [true, false], let s := tVS [tVW 0 a] [tVF 0 5 .run]
      s.warpWaits (tVW 0 a) = false ∧ (s.activeWarps 0 0 0).length < 8 ∧ ∀ y ∈ s.pendingWarps 0 0 0, s.warpFirst (tVW 0 a) y = true) ∧
    (let s := tVS [tVW 0 false, tVW 1 false] [tVF 0 5 .run, tVF 1 4 .run]
     ∃ y ∈ s.pendingWarps 0 0 0, s.warpWaits y = false ∧ s.warpFirst (tVW 0 false) y = false) ∧
    (let s := tVS ((List.range 4).map (fun j => tVW j false) ++ [tVW 4 true]) ((List.range 5).map fun j => tVF j 5 tWaits)
     4 ≤ (s.pendingWarps 0 0 0).length) ∧
    (let s := tVS ((List.range 8).map (fun j => tVW j true) ++ [tVW 8 false]) (tVF 8 5 .run :: (List.range 8).map fun j => tVF j 5 tWaits)
     8 ≤ (s.activeWarps 0 0 0).length ∧ ((s.activeWarps 0 0 0).find? s.warpWaits).isSome = true ∧ s.warpWaits (tVW 8 false) = false) ∧
    (let s := tVS ((List.range 8).map (fun j => tVW j true) ++ [tVW 8 false]) ((List.range 9).map fun j => tVF j 5 .run)
     8 ≤ (s.activeWarps 0 0 0).length ∧ (∀ z ∈ s.activeWarps 0 0 0, s.warpWaits z = false) ∧ s.warpClk (tVW 0 true) ≤ s.warpClk (tVW 8 false)) ∧
    (tNine.warpWaits (tVW 8 false) = false ∧ (∀ z ∈ tNine.activeWarps 0 0 0, tNine.warpWaits z = false) ∧ 8 ≤ (tNine.activeWarps 0 0 0).length ∧ (∀ z ∈ tNine.activeWarps 0 0 0, tNine.warpClk z ≤ tNine.warpClk (tVW 0 true)) ∧
      (tNine.activeWarps 0 0 0).find? (fun z => tNine.warpClk z = tNine.warpClk (tVW 0 true)) = some (tVW 0 true) ∧
      tNine.warpClk (tVW 8 false) < tNine.warpClk (tVW 0 true)) := by decide +kernel

/-- The Press builds a residual form of a launch whose code lies on a Constant page: one clause with a `halt`. -/
def tBuilds : Launch := { tCls .constant with noPress := false }
def tBuildS : State :=
  { tClause 0x18000000#32 tUF with launches := [tBuilds] }
theorem witness_CoresShareTheWork_press :
    tBuildS.launch? ⟨0, 0⟩ = some tBuilds ∧ tBuilds.noPress = false ∧ tBuilds.residual = none ∧ pressHit placedPartition tBuilds = none ∧
    codeAddr tBuilds.entry 0 = tBuilds.entry64 ∧
    (let b := pressBuild (tBuildS.pressFetch tBuilds) tBuilds
     b.ok = true ∧ b.words ≠ [] ∧ (b.words.mapM (tBuildS.codePhys tBuilds)).isSome = true ∧ constantCode tBuilds (b.words.map (· % 2 ^ 57)) = true) := by
  decide +kernel

/-- A fibre parked with a translation fault, and an entry of its kind in the host fault queue. -/
def tMiss (p : Posted) : Fibre := tParked 1 0x140000000 p
def tFq (xs : List FaultSrc) : FqEntry := { tag := some 3, ctx := 0, page := 0x140000000 / 65536, cause := 0, srcs := xs, key := ⟨1, 2, 3⟩, count := 1, eng := true }
def tFqP (xs : List FaultSrc) : Partition := { placedPartition with faultQ := [tFq xs] }
def tFullRing : Partition := { placedPartition with rings := List.replicate 5 { base := 0, en := true, logn := 4, drop := 0, tail := 0, head := 16 } }
theorem witness_StopsArePosted :
    (tUS tUW (tMiss .no)).faultOf (.fibre tRef) = some (placedLaunch, 0x140000000, 0, ⟨2000, 0, 0⟩) ∧ placedPartition.replay = none ∧ placedPartition.faultQ = [] ∧
    (tFqP []).faultQ.find? (fun z => decide (z.ctx = 0 ∧ z.page = 0x140000000 % 2 ^ 57 / 65536 ∧ z.cause = 0)) = some (tFq []) ∧
    ((tUS tUW (tMiss .no)).fibre? tRef = some (tMiss .no) ∧ (tMiss .no).st = .parked (tRec 1 0x140000000) .no) ∧
    (let s := { tUS tUW (tParked 0x17 0 .no) with parts := [tRings] }
     s.env? tRef = some (tParkE 0x17 0 .no) ∧ s.part? 0 = some tRings ∧ (tRec 0x17 0).code ≠ 1 ∧ ((tRec 0x17 0).code < 0x18 ∨ tRings.attached = false) ∧
     (tRings.ring 1).room = true ∧ freeTag ((s.partFibres 0).filterMap stopTag ++ tRings.stopTags) = some 0 ∧ tRings.rings.length = 5 ∧ memWf s.mem = true ∧
     windowAddr tRings 0 = some 0) ∧ (tFullRing.ring 1).room = false ∧ (placedPartition.answers = [] ∧ tRings.answers = [] ∧ tFullRing.answers = []) ∧
    (let p := { tFqP [] with rings := List.replicate 5 { base := 0, en := true, logn := 4, drop := 0, tail := 0, head := 1 } }
     (tFq []).own = none ∧ (tFq []).tag = some 3 ∧ (p.ring 0).en = true ∧ 0 < ((p.ring 0).head - BitVec.ofNat 32 (tFq []).slot).toNat ∧
     ((p.ring 0).head - BitVec.ofNat 32 (tFq []).slot).toNat ≤ 2 ^ (p.ring 0).logn ∧
     windowAddr p ((p.ring 0).base.toNat + 32 * ((tFq []).slot % 2 ^ (p.ring 0).logn)) = some 0) ∧
    (takeFaultAns ⟨0, 0⟩ 0 (0x140000000 % 2 ^ 57 / 65536) 0 [.faultAns ⟨0, 0⟩ 0 (0x140000000 % 2 ^ 57 / 65536) 0 true 1] = some ((true, 1), []) ∧
      takeStopAns ⟨0, 0⟩ (tRec 0x17 0) [.stopAns ⟨0, 0⟩ 0 0 2000 0x17 false] = some (false, [])) := by decide +kernel

def tDrain : Launch := { placedLaunch with draining := true, doneAddr := 0x100000100 }
def tHeldCode : Fibre := tParked 5 0 .held
theorem witness_AnswersAndDrains :
    (let p := tFqP [.fibre tRef, .engine ⟨0, 0⟩ 1]
     let s := { tCopied with parts := [p], fibres := [tMiss .held] }
     s.part? 0 = some p ∧ (∀ z ∈ p.faultQ, z.tag ≠ some 4) ∧ p.faultQ.find? (fun z => z.tag = some 3) = some (tFq [.fibre tRef, .engine ⟨0, 0⟩ 1]) ∧
     s.fibre? tRef = some (tMiss .held) ∧ (tMiss .held).st = .parked (tRec 1 0x140000000) .held ∧ (s.launch? ⟨0, 0⟩).isSome = true ∧
     ∀ f ∈ s.partFibres 0, stopTag f ≠ some 4) ∧
    (∀ c ∈ [5, 0x18, 0x19], let s := tUS tUW (tParked c 0 (.tag 3))
      (s.partFibres 0).find? (fun f => stopTag f = some 3) = some (tParked c 0 (.tag 3)) ∧ s.env? tRef = some (tParkE c 0 (.tag 3)) ∧ tUF.clk + 1 < clockTop) ∧
    (let s := { tUS tUW tHeldCode with launches := [tDrain] }
     s.launch? ⟨0, 0⟩ = some tDrain ∧ s.part? 0 = some placedPartition ∧ s.allOnCores ⟨0, 0⟩ = s ∧ s.launchFibres ⟨0, 0⟩ = [tHeldCode] ∧ tDrain.wgCount ≤ tDrain.next ∧ s.drained tHeldCode = true ∧ placedPartition.faultQ = [] ∧
     (tUW.core ≠ none ∧ tUW.mcmds = [] ∧ s.barsStuck tUW = true ∧ s.canDo (execHarpStall tUW.ref) = false) ∧ s.canDo (execWaitDeadlock ⟨0, 0⟩) = false ∧
     tDrain.ecmds = [] ∧ tDrain.wdqs = [] ∧ tDrain.icinvs = [] ∧ tDrain.pubs = []) ∧ placedLaunch.draining = false := by decide +kernel

/-- A management command under way, with its arguments. -/
def tMgmt (i : Instr) (as : List Word) : Mgmt := { State.reset.mgmt with busy := some i, block := 0 :: as }
def tPre (x : Option Preempt) : Launch := { placedLaunch with preempt := x }
def tBudget (e : Bool) : Preempt := ⟨0x3000, 0x400000, 0x3040, e, 0, 0⟩
def tPreS (x : Option Preempt) (w : Workgroup) (i : Instr) (as : List Word) : State := { tUS w tUF with launches := [tPre x], mgmt := tMgmt i as }
/-- The launch with its one workgroup saved in the area at 0x4000: the image's header, and its record's length. -/
def tSavedS : State :=
  { tPreS (some ⟨0x4000, 0x400000, 0x4080, true, 1, 0⟩) { tUW with core := none, image := some 0x4040 } .restoreLaunch [0, 0x4000, 0] with
    mem := tTables ++ [(0x4002, 1), (0x4004, 1), (0x404C, 0x40)] }
theorem witness_PreemptionKeepsFibres :
    (∀ n ∈ [(0x10000000, true), (0x1000, false)], let s := tPreS none tUW .preEmpt [0, 0, 0, 0x3000, 0, BitVec.ofNat 32 n.1, 0, 100]
      s.mgmt.busy = some .preEmpt ∧ s.part? (s.arg 0) = some placedPartition ∧ s.launch? ⟨s.arg 1, s.arg 2⟩ = some (tPre none) ∧
      inGranuleRange placedPartition (s.arg2 3) (s.arg2 5) = true ∧ decide ((tPre none).imageMax ≤ s.arg2 5) = n.2 ∧
      (s.wgs.filter fun w => w.ref.launch = (tPre none).ref).length = 1) ∧
    ((tUW.ref.launch = ⟨0, 0⟩ ∧ tUW.core.isSome = true) ∧ (tPre (some (tBudget true))).preempt = some (tBudget true)) ∧
    (let s := tPreS (some (tBudget false)) tUW .preEmpt [0, 0, 0, 0x3000, 0, 0x10000000, 0, 100]
     s.launch? ⟨s.arg 1, s.arg 2⟩ = some (tPre (some (tBudget false))) ∧ s.allSaved ⟨0, 0⟩ = false ∧ (tBudget false).expired = false ∧
     State.allSaved { s with wgs := [{ tUW with core := none, image := some 0x3040 }] } ⟨0, 0⟩ = true) ∧
    (let s := tPreS (some (tBudget true)) tUW .preEmpt []
     s.wg? ⟨⟨0, 0⟩, 0⟩ = some tUW ∧ s.launch? ⟨0, 0⟩ = some (tPre (some (tBudget true))) ∧ memWf s.mem = true ∧ tUW.image = none ∧ s.wgFibres ⟨⟨0, 0⟩, 0⟩ = [tUF] ∧
     stoppedFor (tBudget true) tUF = true ∧ s.resultsIn ⟨⟨0, 0⟩, 0⟩ = true ∧ (∀ v ∈ s.wgs, ¬ v.ref.wg < 0) ∧ (tBudget true).base + 64 ≤ (tBudget true).next) := by
  decide +kernel
theorem witness_PreemptionKeepsFibres_restore :
    let s := tSavedS
    let l := tL0 s
    let h := memNat s.mem (s.arg2 1) 64
    (s.mgmt.busy = some .restoreLaunch ∧ s.part? (s.arg 0) = some placedPartition ∧ s.launch? ⟨h / 2 ^ 88 % 2 ^ 8, h / 2 ^ 96 % 2 ^ 32⟩ = some l ∧
      l.preempt.isSome = true ∧ inGranuleRange placedPartition (s.arg2 1) 64 = true ∧ h / 2 ^ 16 % 2 ^ 16 = 1 ∧ h / 2 ^ 84 % 2 ^ 4 = 0 ∧ h / 2 ^ 32 % 2 ^ 32 = 1) ∧
    (s.wgs.map (·.image) = [some 0x4040] ∧ inGranuleRange placedPartition 0x4040 (s.recordLen 0x4040) = true ∧ s.objectsKept (tW0 s) 0x4040 = true) ∧
    (s.repliesDue l = false ∧ (s.launchFibres ⟨0, 0⟩).map (·.st) = [.run] ∧ (s.warp? ⟨⟨0, 0⟩, 0⟩ 0).isSome = true) ∧
    State.repliesDue { s with fibres := [{ tUF with st := .atom (tAtom false) }] } l = true := by
  decide +kernel

/-- A management command with its arguments, asked of one partition; and with bytes in the transfer area. -/
def tAsk (p : Partition) (i : Instr) (as : List Word) : State := { State.reset with parts := [p], mgmt := tMgmt i as, mem := tTables }
def tAskX (p : Partition) (i : Instr) (as : List Word) (x : List Byte) : State := { tAsk p i as with mgmt := { tMgmt i as with xfer := memPut [] 0 x } }
/-- Nothing but a command, once the device has booted; a partition of quad 2 and granule 3; and a queue of partition 0. -/
def tBooted : Boot := { State.reset.boot with released := 6 }
def tCreate (n k : Word) (x : List Byte) : State := { tAskX placedPartition .createPartition [n, k] x with boot := tBooted }
def tPart5 : Partition := { newPartition 5 [2] with granules := [3] }
def tOwned (n : Option Nat) : State := { tAsk placedPartition .assignQueue [0, 0] with queues := [{ Queue.reset 0 with part := n }] }
theorem witness_PartitionCommands :
    (∀ x ∈ [(5, 1, [2], true), (63, 2, [63, 1], true), (5, 1, [0], false), (0, 1, [2], false), (5, 2, [2, 2], false)],
      let s := tCreate x.1 x.2.1 x.2.2.1
      let qs := (s.xferBytes 0 (s.arg 1)).map (·.toNat)
      s.mgmt.busy = some .createPartition ∧ memWf s.mem = true ∧ (s.arg 0 ≤ 63 ∧ 0 < s.arg 1 ∧ s.arg 1 ≤ 64 ∧ ∀ q ∈ qs, q ≤ 63) ∧ s.boot.released ≤ 6 ∧
      decide (s.boot.released = 6 ∧ s.part? (s.arg 0) = none ∧ qs.Nodup ∧ ∀ p ∈ s.parts, ∀ q ∈ p.quads, q ∉ qs) = x.2.2.2) ∧
    (∀ x ∈ [(64, 1, [2]), (5, 0, []), (5, 65, []), (5, 1, [64])], let s := tCreate x.1 x.2.1 x.2.2
      s.mgmt.busy = some .createPartition ∧ memWf s.mem = true ∧
      ¬ (s.arg 0 ≤ 63 ∧ 0 < s.arg 1 ∧ s.arg 1 ≤ 64 ∧ ∀ q ∈ (s.xferBytes 0 (s.arg 1)).map (·.toNat), q ≤ 63)) ∧
    (let s := tAsk placedPartition .destroyPartition [0]
     Asked s .destroyPartition placedPartition ∧ Asked { s with launches := [placedLaunch] } .destroyPartition placedPartition ∧ placedLaunch.part = placedPartition.id ∧
     Asked { s with queues := [tQueue] } .destroyPartition placedPartition ∧ (tQueue.part = some placedPartition.id ∧ tQueue.en = true) ∧
     (s.launches = [] ∧ memWf s.mem = true ∧ ∀ q ∈ s.queues, q.part = some placedPartition.id → q.en = false)) ∧
    (∀ g ∈ [768, 0, 767], let s := tAsk placedPartition .grantGranule [0, BitVec.ofNat 32 g]
      Asked s .grantGranule placedPartition ∧ s.arg 1 = g ∧ s.granuleTaken g = decide (g = 0) ∧ g ∉ s.retired) ∧
    (placedPartition.owed = [] ∧ ({ placedPartition with owed := [0] } : Partition).owed = 0 :: [] ∧
      Asked (tAsk { placedPartition with owed := [0] } .grantGranule [0, 7]) .grantGranule { placedPartition with owed := [0] }) ∧
    (∀ n ∈ [none, some 0, some 1], let s := tOwned n
      Asked s .assignQueue placedPartition ∧ s.queue? (s.arg 1) = some { Queue.reset 0 with part := n }) ∧
    (∀ x ∈ [(14, 0xFF, true), (13, 5, true), (13, 0xFF, false), (13, 0, false)], let s := tAsk placedPartition .bindPort [BitVec.ofNat 32 x.1, BitVec.ofNat 32 x.2.1]
      s.mgmt.busy = some .bindPort ∧ decide (13 < s.arg 0 ∨ (s.arg 1 ≠ 0xFF ∧ s.part? (s.arg 1) = none)) = x.2.2) ∧
    Asked (tAsk placedPartition .setPowerLimit [0, 9]) .setPowerLimit placedPartition ∧
    (placedPartition.order = [] ∧ placedPartition.replay = none ∧ (let p := { placedPartition with order := [(⟨0, 0⟩, 1)] }
      Asked (tAsk p .stepPolicy [0, 9, 3, 1]) .stepPolicy p ∧ p.order ≠ [])) ∧
    (Asked (tAsk placedPartition .stepPolicy [0, 9, 3, 1]) .stepPolicy placedPartition ∧ Asked (tAsk placedPartition .stepPolicy [0, 9, 3, 2]) .stepPolicy placedPartition) := by delta Asked; and_intros <;> decide +kernel

/-- A context with an extent, a held restriction, two entries in the transfer area: one at 0x400C, not valid, one of the tables. -/
def tExt : Context := { placedContext with extents := [(5, 1)], quota := 3 }
def tExtP : Partition := { placedPartition with ctxs := [tExt] }
def tEntry (at_ : Nat) (e : Nat) : List Byte := toBytes 8 at_ ++ toBytes 8 e
/-- An update of the entry that maps 512 pages from an address on. -/
def tPt (i : Instr) (va : Word) (x : List Byte) : State := tAskX tExtP i [0, 0, 0, va, 1, 512, 1, 0x8000000, 0] x
def tHeldP (h : Restrict) (stop : Bool) : Partition := { tExtP with ctxs := [{ tExt with held := [h] }], stopped := stop }
def tHold : Restrict := ⟨[(0x3400, 0#64)], []⟩
/-- A leaf at 0x3408 that maps 32 MiB at 0x6000000, and what a move to 0x8000000 makes of it. -/
def tMoved (e : Nat) : State := { tPt .pageTableMove 0x2000000 (tEntry 0x3408 e) with mem := memPutNat tTables 0x3408 8 0x6000003 }
theorem witness_ContextCommands :
    (∀ x ∈ [(1, 0x4000, 0, true), (0, 0x4000, 0, true), (1, 0, 0x40000, true), (1, 0x4000, 0x100000, false), (16, 0x4000, 0, false), (1, 0x4001, 0, false)],
      let s := tAsk tExtP .createContext [0, BitVec.ofNat 32 x.1, BitVec.ofNat 32 x.2.1, BitVec.ofNat 32 x.2.2.1, 7]
      Asked s .createContext tExtP ∧ decide (¬ (15 < s.arg 1 ∨ s.arg2 2 % 4096 ≠ 0 ∨ 2 ^ 52 ≤ s.arg2 2)) = x.2.2.2) ∧
    (tExtP.ctx? 1 = none ∧ tExtP.ctx? 0 ≠ none ∧ inGranules tExtP 0x4000 = true ∧ inGranules tExtP 0x4000000000000 = false) ∧
    (let s := tAsk tExtP .destroyContext [0, 0]
     AskedCtx s .destroyContext tExtP tExt ∧ s.ctxRuns 0 0 = false ∧ (∀ q ∈ s.queues, q.en = false) ∧ memWf s.mem = true ∧
     AskedCtx { s with launches := [placedLaunch] } .destroyContext tExtP tExt ∧ { s with launches := [placedLaunch] }.ctxRuns 0 0 = true) ∧
    (∀ x ∈ [([], true), ([0, 4, 0, 0], false)], let s := tAskX tExtP .loadDecodeTable [0, 0] x.1
      AskedCtx s .loadDecodeTable tExtP tExt ∧
      ((List.range 1024).zip (wordsOfBytes (s.xferBytes 0 4096))).all (fun y => dtabEntryOk y.1 y.2) = x.2) ∧
    (∀ x ∈ [(255, 1, true), (255, 2, false), (256, 1, false), (3, 0, false)], let s := tAsk tExtP .loadDescriptors [0, 0, BitVec.ofNat 32 x.1, BitVec.ofNat 32 x.2.1]
      AskedCtx s .loadDescriptors tExtP tExt ∧ decide (¬ (255 < s.arg 2 ∨ s.arg 3 = 0 ∨ 256 < s.arg 2 + s.arg 3)) = x.2.2) ∧
    (∀ x ∈ [(0, 115, 1, 0), (0, 115, 2, 1), (0, 4, 2, 1), (1, 0, 1, 2), (0, 116, 1, 2), (0, 0, 0, 2)], let s := tAsk tExtP .allocateExtents [0, 0, x.1, x.2.1, x.2.2.1]
      let bad := tExtP.quads.length ≤ s.arg 2 ∨ 115 < s.arg 3 ∨ s.arg 4 = 0
      let taken := 116 < s.arg 3 + s.arg 4 ∨ ∃ y ∈ tExtP.ctxs, ∃ k, k < s.arg 4 ∧ inExtents y ((128 * s.arg 2 + s.arg 3 + k) * 2 ^ 21) = true
      AskedCtx s .allocateExtents tExtP tExt ∧ (if bad then 2 else if taken then 1 else 0) = x.2.2.2) ∧
    (∀ x ∈ [(0, 5, 1, 0), (0, 5, 2, 1), (1, 0, 1, 2), (0, 115, 2, 2)], let s := tAsk tExtP .freeExtents [0, 0, x.1, x.2.1, x.2.2.1]
      let bad := tExtP.quads.length ≤ s.arg 2 ∨ 115 < s.arg 3 ∨ s.arg 4 = 0 ∨ 116 < s.arg 3 + s.arg 4
      let held := ∀ k, k < s.arg 4 → inExtents tExt ((128 * s.arg 2 + s.arg 3 + k) * 2 ^ 21) = true
      AskedCtx s .freeExtents tExtP tExt ∧ (if bad then 2 else if held then 0 else 1) = x.2.2.2) ∧
    AskedCtx (tAsk tExtP .setResidencyQuota [0, 0, 9]) .setResidencyQuota tExtP tExt ∧
    (let p := tHeldP tHold false
     (tExtP.extentsDue = [] ∧ tExt.freeing = [] ∧ p.id = 0) ∧ 5 ∈ Context.freeing { tExt with held := [⟨[], [(5, 1)]⟩] }) := by
  delta AskedCtx Asked; and_intros <;> decide +kernel

/-- The arguments of a page-table update are in order. -/
def tPtOk (s : State) : Bool := ptArgsOk s.arg && (s.ptPairs (s.arg 6)).all fun e => (s.ptEntry tExtP tExt s.arg (s.ptPairs (s.arg 6)) e).isSome
theorem witness_ContextCommands_tables :
    (let s := tPt .pageTableAdd 0x2000000 (tEntry 0x3408 0x6000003)
     AskedCtx s .pageTableAdd tExtP tExt ∧ tPtOk s = true ∧ s.ptPairs (s.arg 6) = [(0x3408, 0x6000003)] ∧ memNat s.mem 0x3408 8 % 2 = 0 ∧ memWf s.mem = true) ∧
    (let s := tPt .pageTableAdd 0 (tEntry 0x3400 0x6000003)
     AskedCtx s .pageTableAdd tExtP tExt ∧ tPtOk s = true ∧ memNat s.mem 0x3400 8 % 2 = 1) ∧
    (∀ i ∈ [Instr.pageTableAdd, .pageTableMove, .pageTableRestrict], let s := tPt i 0 (tEntry 0x3408 0x6000003)
      AskedCtx s i tExtP tExt ∧ tPtOk s = false) ∧
    (let s := tPt .pageTableRestrict 0x2000000 (tEntry 0x3408 0)
     AskedCtx s .pageTableRestrict tExtP tExt ∧ tPtOk s = true) ∧
    (let s := tMoved 0x8000003
     AskedCtx s .pageTableMove tExtP tExt ∧ tPtOk s = true ∧ s.ptPairs (s.arg 6) = [(0x3408, 0x8000003)] ∧ memWf s.mem = true ∧
     s.ptEntry tExtP tExt s.arg (s.ptPairs (s.arg 6)) (0x3408, 0x8000003) = some (1, 0x102000000) ∧
     s.moveOf tExtP tExt s.arg (1, 0x102000000) (0x3408, 0x8000003) = some ⟨0x6000000, 0x8000000, 2 ^ 25⟩ ∧
     s.framesFree tExtP [⟨0x6000000, 0x8000000, 2 ^ 25⟩] = true) ∧
    (let s := tMoved 0x6000003
     AskedCtx s .pageTableMove tExtP tExt ∧ tPtOk s = true ∧ s.ptEntry tExtP tExt s.arg (s.ptPairs (s.arg 6)) (0x3408, 0x6000003) = some (1, 0x102000000) ∧
     s.moveOf tExtP tExt s.arg (1, 0x102000000) (0x3408, 0x6000003) = none) ∧
    (∀ h ∈ [tHold, ⟨[], [(5, 1)]⟩], let p := tHeldP h false
     let s := { tAsk p .attest [] with launches := [] }
     s.part? 0 = some p ∧ p.ctx? 0 = some { tExt with held := [h] } ∧ s.ctxRuns 0 0 = false ∧ { s with launches := [placedLaunch] }.ctxRuns 0 0 = true ∧
     p.stopped = false ∧ p.replaying = false ∧ memWf s.mem = true) ∧
    (tHold.frees = [] ∧ tHold.entries ≠ [] ∧ (tHold.entries.map (·.1)).Nodup ∧ ∀ e ∈ tHold.entries, e.1 % 8 = 0) := by
  delta AskedCtx Asked; and_intros <;> decide +kernel

/-- A partition at step 3 of a run with snapshots, one of them due; its queue; and the records of two queues in the transfer area. -/
def tStepP (due : Bool) : Partition := { placedPartition with nextStep := 3, slots := [2, 3], timerDue := due }
def tMarks (due : Bool) (lo n : Word) (x : List Byte) : State := { tAskX (tStepP due) .stepMark [0, lo, 0, n] x with queues := [tQueue] }
def tSnap (step : Nat) (done : Bool) (todo : List Nat) : Snapshot :=
  { step := step, accs := 1, recs := 0, mem := [], ctxs := [placedContext], queues := [(0, 1, 0)], complete := done, todo := todo }
def tSnapP (xs : List Snapshot) : Partition := { placedPartition with snaps := xs }
def tDue (dual : Bool) (ds : List (List Byte × List Nat)) : Partition :=
  { tSnapP [tSnap 2 true []] with slots := [2, 3], mark := some (3, [(0, 0)]), dualRun := dual, digests := ds }
def tQuiet (p : Partition) (done : Word) : State := { tAsk p .attest [] with queues := [{ tQueue with doneSeq := done, nextSeq := 1 }] }
theorem witness_StepsAndSnapshots :
    (∀ x ∈ [(0, 2049, [], 3), (0, 1, [0, 0, 0, 0, 0, 1], 1), (0, 1, [0, 0, 0, 0, 1], 1), (2, 1, [], 2), (3, 1, [], 0), (3, 2, [], 0)], ∀ due ∈ [true, false],
      let s := tMarks due x.1 x.2.1 x.2.2.1
      (s.mgmt.busy = some .stepMark ∧ s.part? (s.arg 0) = some (tStepP due)) ∧
      (if xferLen < 8 * s.arg 3 then 3 else if s.markList 0 (s.arg 3) = none then 1 else if s.arg2 1 ≠ (tStepP due).nextStep then 2 else 0) = x.2.2.2) ∧
    (let p := { tStepP true with mark := some (2, [(0, 0)]) }
     let s := { tMarks true 3 1 [] with parts := [p] }
     s.part? (s.arg 0) = some p ∧ p.mark ≠ none ∧ (s.markList 0 (s.arg 3)).isSome = true ∧ s.arg2 1 = p.nextStep) ∧
    ((tMarks true 3 1 []).slotsFit (tStepP true) = true ∧ (tMarks true 3 1 []).slotsFit placedPartition = false ∧ (tStepP true).mark = none ∧ (tStepP true).timerDue = true ∧ (tStepP false).timerDue = false ∧ (tStepP false).stepCount = 0) ∧
    (∀ x ∈ [([0, 3], 1), ([0, 0], 2), ([5, 0], 0), ([0xFF, 2], 0)], let s := tAskX placedPartition .snapshotSlots [0, 1] x.1
      let gs := (List.range (s.arg 1)).map fun k => ofBytes (s.xferBytes (2 * k) 2)
      s.mgmt.busy = some .snapshotSlots ∧ s.part? (s.arg 0) = some placedPartition ∧ 2 * s.arg 1 ≤ xferLen ∧ gs.Nodup ∧
      (∀ x ∈ placedPartition.snaps, x.complete = true) ∧
      (if ∃ g ∈ gs, 767 < g then 1 else if ∃ g ∈ gs, (s.granuleTaken g = true ∧ g ∉ placedPartition.slots) ∨ g ∈ s.retired then 2 else 0) = x.2) ∧
    (tSnapP [tSnap 2 true [], tSnap 1 true [], tSnap 5 false []]).newest = some (tSnap 2 true []) ∧
    (∀ xs ∈ [[], [tSnap 2 true []]], let s := tAsk (tSnapP xs) .exportSnapshot [0, 2, 0]
      s.mgmt.busy = some .exportSnapshot ∧ s.part? (s.arg 0) = some (tSnapP xs) ∧ s.arg 1 ≤ 2 ∧ (tSnapP xs).newest = xs.head?) ∧
    (let s := tAsk placedPartition .restoreSnapshot [0, 2, 0, 0, 0]
     s.mgmt.busy = some .restoreSnapshot ∧ s.part? (s.arg 0) = some placedPartition ∧ s.arg 1 ≤ 2 ∧ placedPartition.ctxs ≠ []) ∧
    (let s := tAsk tPart5 .restoreSnapshot [5, 2, 0, 0, 0]
     s.mgmt.busy = some .restoreSnapshot ∧ s.part? (s.arg 0) = some tPart5 ∧ s.arg 1 ≤ 2 ∧ tPart5.ctxs = [] ∧ s.launches = [] ∧
     (List.range (s.arg 4)).map (fun i => Config.manifest s.tick (s.arg 1) (s.arg2 2) i) = []) ∧
    (placedPartition.timerMs = 0 ∧ { placedPartition with timerMs := 5 }.timerMs ≠ 0) ∧
    (∀ y ∈ [(0xFFFFFFFF, false), (0, true)], let p := tDue false []
      (tQuiet p (BitVec.ofNat 32 y.1)).part? 0 = some p ∧ p.mark = some (3, [(0, 0)]) ∧ p.stopped = false ∧ p.dead = false ∧ p.replay = none ∧ (∀ x ∈ p.snaps, x.complete = true) ∧ (tQuiet p (BitVec.ofNat 32 y.1)).slotsFit p = true ∧
      p.dualRun = false ∧ (tQuiet p (BitVec.ofNat 32 y.1)).quiescent p (3, [(0, 0)]) = y.2 ∧ memWf (tQuiet p (BitVec.ofNat 32 y.1)).mem = true ∧ ownsAddr p 0 = true ∧ ownsAddr p (2 ^ 30) = false) ∧
    (∀ g ∈ [[], [5, 6]], (tSnapP [tSnap 2 true [], tSnap 3 false g]).snaps.find? (fun x => !x.complete) = some (tSnap 3 false g)) := by
  and_intros <;> decide +kernel

/-- A partition without contexts at a due step of dual runs. -/
def tDuel (ds : List (List Byte × List Nat)) : Partition := { tDue true ds with ctxs := [] }
theorem witness_StepsAndSnapshots_dual :
    (∀ ds ∈ [[], [([], [])], List.replicate 4 ([], [])], let p := tDuel ds
      (tQuiet p 0).part? 0 = some p ∧ p.mark = some (3, [(0, 0)]) ∧ p.stopped = false ∧ p.dead = false ∧ p.replay = none ∧ p.dualRun = true ∧ p.snapLost = false ∧
      (tQuiet p 0).quiescent p (3, [(0, 0)]) = true ∧ ∀ x ∈ p.digests, x.1 ≠ stepDigest (tQuiet p 0) p) ∧
    ((tDuel []).stands = false ∧ (tDuel [([], [])]).stands = false) ∧
    (tDuel (([0], []) :: List.map (fun k => (List.replicate k 1, [])) [2, 3, 4])).stands = false := by
  and_intros <;> decide +kernel
theorem witness_StepsAndSnapshots_alike :
    let p := tDuel [(stepDigest (tQuiet (tDuel []) 0) (tDuel []), [])]
    ∃ x ∈ p.digests, x.1 = stepDigest (tQuiet p 0) p := by decide +kernel

/-- A die at run level 10, where no quad of a partition lies, and the four power commands. -/
def tDies (i : Instr) (d st : Word) : State := { tAsk placedPartition i [d, st] with dies := State.reset.dies.take 3 ++ [⟨10, true, false, false⟩] }
def tBusyDie (i : Instr) (d st : Word) : State := { tDies i d st with launches := [placedLaunch], wgs := [placedWg] }
theorem witness_PowerBootAndIdentity :
    (∀ x ∈ [(.setPowerStateRunLevel, 0, 7), (.setPowerStateRunLevel, 3, 8), (.setPowerStateIdle, 1, 8), (.setPowerStateRetention, 3, 9), (.setPowerStateOff, 0, 10),
        (.setPowerStateOff, 3, 10)], let s := tDies x.1 x.2.1 x.2.2
      s.mgmt.busy = some x.1 ∧ (s.dies[s.arg 0]?).isSome = true ∧ s.arg 1 = x.2.2.toNat ∧ s.dieBusy (s.arg 0) = false) ∧
    (∃ p ∈ (tDies .setPowerStateOff 0 10).parts, ∃ q ∈ p.quads, q / 16 = 0) ∧ (∀ p ∈ (tDies .setPowerStateOff 3 10).parts, ∀ q ∈ p.quads, q / 16 ≠ 3) ∧
    (tBusyDie .setPowerStateIdle 0 8).dieBusy 0 = true ∧
    (let s := tAsk placedPartition .attest [0]
     s.mgmt.busy = some .attest ∧ memWf s.mgmt.xfer = true ∧ s.part? (s.arg 0) = some placedPartition ∧ (tAsk placedPartition .attest [1]).part? 1 = none) ∧
    (let s := tAsk placedPartition .readCertificate [0]
     s.mgmt.busy = some .readCertificate ∧ memWf s.mgmt.xfer = true) ∧
    (State.reset.boot.released = 0 ∧ State.reset.boot.failOrder = 0 ∧ tBooted.released ≠ 0) ∧
    (State.reset.dies[3]?).isSome = true ∧ (placedPartition.powerLimit = 0 ∧ 0 < { placedPartition with powerLimit := 5 }.powerLimit) := by
  and_intros <;> decide +kernel

/-- The device with its links encrypted; queue 0 of partition 0; a partition with mailbox words that hold an event. -/
def tIde (p : Partition) (q : Queue) : State := { State.reset with parts := [p], queues := [q], boot := { tBooted with ide := true }, mem := tTables }
def tIdeL (p : Partition) (q : Queue) : State := { tIde p q with launches := [placedLaunch] }
def tCtl (en rsize ctx : Nat) : Nat := en + rsize * 2 ^ 4 + 3 * 2 ^ 8 + ctx * 2 ^ 16
def tMask : Queue := { tQueue with mask := 0x10 }
def tEvent : Event := { kind := 1, code := 0x17, cause := 0, warp := 0, lmask := 1, clk := 2000, oaddr := 0, widx := 0, info := 0 }
def tEvents : Partition := { tRings with events := [tEvent], attached := true }
theorem witness_QueueAndRingWrites :
    (∀ x ∈ [(17, 17), (16, 16), (1, 1), (2, 2), (0, 0)], let s := tIde placedPartition tQueue
      s.part? 0 = some placedPartition ∧ placedPartition.replay = none ∧ s.queue? 0 = some tQueue ∧ tQueue.part = some 0 ∧ s.boot.ide = true ∧
      ((x.1 : Word) - tQueue.nextSeq).toNat = x.2) ∧
    State.reset.boot.ide = false ∧ (tQueue.tail - tQueue.nextSeq).toNat = 1 ∧ 2 ^ tQueue.rsize = 16 ∧
    (∀ x ∈ [(tCtl 1 4 0, false), (tCtl 0 15 0, false), (tCtl 1 3 0, true), (tCtl 1 4 1, true), (tCtl 1 4 0 + 2, true), (tCtl 1 4 0 + 2 ^ 11, true), (tCtl 1 4 0 + 2 ^ 20, true)],
      let c := (BitVec.ofNat 64 x.1).toNat
      decide (c / 2 ^ 4 % 2 ^ 4 < 4 ∨ c / 2 ^ 20 ≠ 0 ∨ c / 2 ^ 11 % 2 ^ 5 ≠ 0 ∨ c / 2 % 2 ^ 3 ≠ 0 ∨ placedPartition.ctx? (c / 2 ^ 16 % 2 ^ 4) = none) = x.2) ∧
    (tQueue.mask.toNat < 2 ^ (4 * placedPartition.quads.length) ∧ 2 ^ (4 * placedPartition.quads.length) ≤ tMask.mask.toNat) ∧
    ((∃ l ∈ (tIdeL placedPartition tQueue).launches, l.ref.queue = tQueue.id ∧ l.part = placedPartition.id) ∧ (tIde placedPartition tQueue).launches = []) ∧
    (∀ x ∈ [(2 ^ 48 + 4 * 2 ^ 40, false), (2 ^ 48 + 16 * 2 ^ 40, false), (2 ^ 48 + 3 * 2 ^ 40, true), (2 ^ 48 + 17 * 2 ^ 40, true)], (BitVec.ofNat 64 x.1).getLsbD 48 = true ∧
      ringBad placedPartition 4 (placedPartition.ring 4).base (BitVec.ofNat 64 x.1).toNat = x.2) ∧
    (placedPartition.rings.length = 5 ∧ (placedPartition.ring 4).en = false ∧ (0 : BitVec 64).getLsbD 48 = false) ∧ 0 ≠ mgmtPage ∧ 3 ≤ tBooted.released ∧
    ((tIde tEvents tQueue).part? 0 = some tEvents ∧ tEvents.mbox.length = 64 ∧ tEvents.events ≠ []) := by and_intros <;> decide +kernel

/-- The management page with a CREATE_PARTITION and a command without an opcode in its block, idle and busy. -/
def tPage (w0 : Word) (b : Option Instr) : State :=
  { tIde placedPartition tQueue with mgmt := { State.reset.mgmt with cmd := w0 :: List.replicate 15 0, busy := b, block := List.replicate 16 0 } }
def tDbgBusy : Partition := { placedPartition with dbgBusy := some 5 }
theorem witness_RegisterWrites :
    (State.reset.boot.released < 3 ∧ 3 ≤ (tPage 0 none).boot.released ∧ memWf (tPage 0 none).mgmt.xfer = true) ∧
    (∀ x ∈ [(0x01000000#32, none, 0), (0x01000000#32, some .attest, 1), (0x01000001#32, none, 2), (0, none, 2), (0xFF000000#32, none, 2)], let s := tPage x.1 x.2.1
      let w := ((setAt s.mgmt.cmd 15 9).getD 0 0).toNat
      let op := mgmtCommand (w / 2 ^ 24 % 2 ^ 8) ((setAt s.mgmt.cmd 15 9).getD 3 0).toNat ((setAt s.mgmt.cmd 15 9).getD 2 0).toNat
      s.mgmt.busy = x.2.1 ∧ (if s.mgmt.busy.isSome then 1 else if w % 2 ^ 16 = 0 ∧ op.isSome then 0 else 2) = x.2.2) ∧
    (let s := tIde placedPartition tQueue
     0 ≠ mgmtPage ∧ s.part? 0 = some placedPartition ∧ s.boot.ide = true ∧ placedPartition.mbox.length = 64 ∧ placedPartition.counters.length = 32 ∧
     placedPartition.dbgBusy = none ∧ tDbgBusy.dbgBusy ≠ none ∧ s.queue? 0 = some tQueue ∧ tQueue.part = some 0) ∧
    (∀ x ∈ [0x01000000, 0x0B000000, 0x0BFF0000], x % 2 ^ 16 = 0 ∧ 1 ≤ x / 2 ^ 24 ∧ x / 2 ^ 24 ≤ 0x0B) ∧
    answerOk 0x02000001#32 = false ∧ answerOk 0x01000002#32 = true := by and_intros <;> decide +kernel

/-- Host writes; a port bound to partition 0 and a frame for its queue 0, whose receiver is the device that the spec's identity names. -/
def tHostW (n : Nat) : HostWrite := { addr := 0x5000, bytes := [1, 2, 3], stamp := n, boundary := none }
def tWritten : Partition := { placedPartition with writes := [tHostW 1] }
def tReplay : Replay := { high := [(0, 1)], recs := [], order := [], held := [.read 0 0 4] }
def tReplays : Partition := { placedPartition with replay := some tReplay }
def tPorted (fs : Nat) : State := { tIde placedPartition tQueue with ports := [{ link := 3, part := some 0, fseq := fs, report := true, out := [] }] }
def tFrame : List Byte := toBytes 32 9 ++ devId ++ List.replicate 128 7
theorem tFrameBits (x : Nat) (h : x < 2 ^ 256) : bits (9 + 2 ^ 256 * x) 511 256 = x ∧ bits (9 + 2 ^ 256 * x) 255 64 = 0 ∧
    bits (9 + 2 ^ 256 * x) 55 48 = 0 ∧ bits (9 + 2 ^ 256 * x) 63 56 = 0 ∧ bits (9 + 2 ^ 256 * x) 47 0 = 9 := by
  have a : (9 + 2 ^ 256 * x) / 2 ^ 256 = x := by omega
  refine ⟨?_, ?_, ?_, ?_, ?_⟩ <;> (try unfold bits) <;> omega
theorem witness_WindowAndPorts_frame :
    (tPorted 9).frameBad { link := 3, part := some 0, fseq := 9, report := true, out := [] } (ofBytes (tFrame.take 64)) tFrame = false := by
  have n : devId.length = 32 := shake256_length _
  have h : tFrame.take 64 = toBytes 32 9 ++ devId := List.take_left' (by rw [List.length_append, toBytes_length, n])
  have e₀ : ofBytes (tFrame.take 64) = 9 % 256 ^ 32 + 256 ^ 32 * ofBytes devId := by rw [h, ofBytes_append, ofBytes_toBytes, toBytes_length]
  have e : ofBytes (tFrame.take 64) = 9 + 2 ^ 256 * ofBytes devId := e₀.trans (by omega)
  have c := tFrameBits (ofBytes devId) (by have := ofBytes_lt devId; rw [n] at this; exact this)
  have d : toBytes 32 (ofBytes devId) = devId := by have := toBytes_ofBytes devId; rwa [n] at this
  have q : (tPorted 9).ownQueue 0 0 = some tQueue := by decide +kernel
  have l : tFrame.length = 192 := by rw [tFrame, List.length_append, List.length_append, toBytes_length, n, List.length_replicate]
  rw [e, State.frameBad, c.1, c.2.1, c.2.2.1, c.2.2.2.1, c.2.2.2.2, d, q, l]
  simp
theorem witness_WindowAndPorts :
    ((tIde tReplays tQueue).part? 0 = some tReplays ∧ tReplays.replay = some tReplay ∧ (tIde tReplays tQueue).boot.ide = true) ∧
    (∀ x ∈ [(0, 4), (2 ^ 30 - 4, 4)], placedPartition.granules[x.1 / 2 ^ 30]? = some 0 ∧ x.1 < pageAt ∧ x.1 + x.2 ≤ pageAt ∧ x.1 % 2 ^ 30 + x.2 ≤ 2 ^ 30) ∧
    (let s := tIde tWritten { tQueue with nextSeq := 1 }
     s.part? 0 = some tWritten ∧ tWritten.writes.head? = some (tHostW 1) ∧ memWf s.mem = true ∧ s.writeReady tWritten (tHostW 1) = true ∧
     { s with launches := [placedLaunch] }.writeReady tWritten (tHostW 1) = false ∧ tWritten.stopped = false ∧ tWritten.journalFull (JRec.write (tHostW 1)).size = false) ∧
    (windowAddr placedPartition 5 = some 5 ∧ windowAddr placedPartition (2 ^ 30) = none ∧ 2 ^ 30 < pageAt ∧ 0 ≠ mgmtPage) ∧
    (pageAt ≤ 2 ^ 40 - 8 + 0 ∧ 2 ^ 40 - 8 + 7 < 2 ^ 40) ∧
    (∀ o ∈ [0x51C0, 0x51FF, 0x52A0, 0x5303, 0x5305, 0x5FFF, 0x7000], (0x51C0 ≤ o ∧ o < 0x5200) ∨ (0x52A0 ≤ o ∧ o < 0x5304) ∨ (0x5305 ≤ o ∧ o < 0x6000) ∨ 0x7000 ≤ o) ∧
    ((tIde placedPartition tQueue).queue? 0 = some tQueue ∧ tQueue.part = some placedPartition.id ∧ (tIde placedPartition tQueue).queue? 1 = none) ∧
    (let s := tPorted 9
     s.ports.find? (fun x => x.link = 3) = some { link := 3, part := some 0, fseq := 9, report := true, out := [] } ∧ s.part? 0 = some placedPartition ∧
     placedPartition.replay = none ∧ s.frameBad { link := 3, part := some 0, fseq := 9, report := true, out := [] } (ofBytes []) [] = true ∧
     ({ s with parts := [tReplays] }).part? 0 = some tReplays ∧ tReplays.replay = some tReplay) := by
  and_intros <;> decide +kernel

/-- A debugger's command: its opcode and arguments (the workgroup, fibre and points they name are the first), attached or not. -/
def tDbgP (op : Nat) (att : Bool) (as : List Word) : Partition := { placedPartition with dbgBusy := some op, attached := att, dbgCmd := BitVec.ofNat 32 (op * 2 ^ 24) :: as }
def tDbg (p : Partition) (w : Workgroup) (f : Fibre) : State := { tUS w f with parts := [p] }
def tHalted : Workgroup := { tUW with halt := .halted }
def tHalting : Workgroup := { tUW with halt := .halting none }
def tStop : Fibre := { tUF with halted := true }
theorem witness_DebuggerHalts :
    DbgAsked (tDbg (tDbgP 1 false []) tUW tUF) 1 (tDbgP 1 false []) ∧
    (DbgAsked (tDbg (tDbgP 2 false []) tUW tUF) 2 (tDbgP 2 false []) ∧ DbgAsked (tDbg (tDbgP 2 true []) tHalted tStop) 2 (tDbgP 2 true []) ∧
      tHalted ∈ (tDbg (tDbgP 2 true []) tHalted tStop).partWgs 0) ∧
    (∀ x ∈ [(3, tUW, tUF), (3, tHalted, tStop), (4, tUW, tUF), (4, tHalted, tStop), (4, tHalted, tParked 5 0 .held), (4, tHalted, tParked 0x1A 0 .event)],
      ∀ att ∈ [true, false], let p := tDbgP x.1 att []
      let s := tDbg p x.2.1 x.2.2
      DbgAsked s x.1 p ∧ DbgNames s p placedLaunch x.2.1 ∧ s.env? tRef = some ⟨placedLaunch, x.2.1, tUP, x.2.2⟩) ∧
    (∀ x ∈ [(tUF, false), (tStop, true), (tParked 5 0 .no, true), (tParked 0x1A 0 .no, true)], let s := tUS tHalting x.1
      s.wg? ⟨⟨0, 0⟩, 0⟩ = some tHalting ∧ s.launch? ⟨0, 0⟩ = some placedLaunch ∧ s.wgFibres ⟨⟨0, 0⟩, 0⟩ = [x.1] ∧ s.stoppedAt none x.1 = x.2) ∧
    (tUF.unreported = false ∧ (tParked 0x1A 0 .no).unreported = true ∧ tUW.halt = .none) := by
  delta DbgNames DbgAsked; and_intros <;> decide +kernel

/-- A fibre whose step is armed, and one whose instruction is done, at a breakpoint or not; a breakpoint there; a record of the fibre. -/
def tBrkAt (b : Bool) : Partition := { placedPartition with brks := if b then [⟨3, 0x100000004, 1⟩] else [] }
def tStepped (x : Stepping) (st : FStat) : Fibre := { tUF with stepping := x, st := st, widx := 0 }
def tStepping (op : Nat) : Partition := { tDbgP op true [] with dbgBegun := true }
def tBad : Partition := { tDbgP 0x0B true [] with dbgXfer := [(49, 0xC0000000)] }
theorem witness_DebuggerSteps :
    (∀ x ∈ [(5, tUW, tUF), (5, tHalted, tStop), (0x0A, tUW, tUF), (0x0A, tHalted, tStop)], let p := tDbgP x.1 true []
      let s := tDbg p x.2.1 x.2.2
      DbgAsked s x.1 p ∧ p.attached = true ∧ DbgNamesFibre s p ⟨placedLaunch, x.2.1, tUP, x.2.2⟩ ∧ p.dbgArg 5 = 0 ∧ p.dbgArg 6 = 0) ∧
    (∀ x ∈ [tStepped .off .run, tStepped .moving (.parked (tRec 1 0) .no)], let p := tStepping 5
      let s := tDbg p tUW x
      s.part? p.id = some p ∧ p.dbgBusy = some 5 ∧ p.dbgBegun = true ∧ s.launch? ⟨p.dbgArg 0 % 256, p.dbgArg 1⟩ = some placedLaunch ∧
      s.fibre? ⟨⟨placedLaunch.ref, p.dbgArg 2⟩, p.dbgArg 3 % placedLaunch.warps, p.dbgArg 4⟩ = some x) ∧
    (∀ x ∈ [(tStepped .moving .run, true), (tStepped .moving tWaits, false)], let p := tStepping 5
      let s := tDbg p tUW x.1
      s.part? p.id = some p ∧ x.1.stepping ≠ .off ∧ s.fibre? tRef = some x.1 ∧ s.fibreCanAct x.1 = x.2) ∧
    (∀ x ∈ [(5, tHalted, { tStop with form := some 0 }), (6, tUW, { tUF with form := some 0 })], let s := tDbg (tDbgP x.1 true []) x.2.1 x.2.2
      s.fibre? tRef = some x.2.2 ∧ s.launch? ⟨0, 0⟩ = some placedLaunch ∧ placedLaunch.part = (tDbgP x.1 true []).id ∧ x.2.2.form ≠ none) ∧
    (∀ b ∈ [true, false], let f := tStepped .moving .run
      let s := tDbg (tBrkAt b) tUW f
      s.env? tRef = some ⟨placedLaunch, tUW, tUP, f⟩ ∧ s.brkAt placedLaunch f = if b then some 3 else none) ∧
    (∀ x ∈ [(4, 0x1FFFFFF, true), (2, 0, false), (0, 0x2000000, false)], let p := tDbgP 6 true [0, 0, 3, BitVec.ofNat 32 x.1, BitVec.ofNat 32 x.2.1, 1]
      let a := p.dbgArg 3 + p.dbgArg 4 * 2 ^ 32
      DbgAsked (tDbg p tUW tUF) 6 p ∧ decide (a % 4 = 0 ∧ a < 2 ^ 57) = x.2.2 ∧ p.attached = true) ∧
    DbgAsked (tDbg (tDbgP 7 true [0, 0, 3]) tUW tUF) 7 (tDbgP 7 true [0, 0, 3]) ∧
    (∀ x ∈ [(0x30, 0x100000, true), (0x10, 1, true), (0x13, 0, false), (3, 4, false), (0x30, 0x100001, false)], let p := tDbgP 8 true [0, 0, BitVec.ofNat 32 x.1, 0x40, BitVec.ofNat 32 x.2.1, 1, 0xFFFFFFFF]
      DbgAsked (tDbg p tUW tUF) 8 p ∧ decide (p.dbgArg 2 / 2 ^ 4 % 2 ^ 2 ≠ 0 ∧ p.dbgArg 4 ≠ 0 ∧ p.dbgArg 4 ≤ 2 ^ 20) = x.2.2 ∧ p.attached = true) ∧
    DbgAsked (tDbg (tDbgP 9 true [0, 0, 3]) tUW tUF) 9 (tDbgP 9 true [0, 0, 3]) ∧
    (let p := tDbgP 0x0B true []
     let s := tDbg p tHalted tStop
     DbgAsked s 0x0B p ∧ DbgNamesFibre s p ⟨placedLaunch, tHalted, tUP, tStop⟩ ∧ recordBad p.xferRecord = false) ∧
    (let s := tDbg tBad tHalted tStop
     DbgAsked s 0x0B tBad ∧ DbgNamesFibre s tBad ⟨placedLaunch, tHalted, tUP, tStop⟩ ∧ recordBad tBad.xferRecord = true) ∧
    (let s := tUS tUW tUF
     nextSlot ((s.onCore 0 0).flatMap fun x => (s.warps.filter fun v => v.wref = x.2.ref ∧ (s.warpFibres v.wref v.j) ≠ []).map (·.slot)) 47 = some 0) ∧
    (nextSlot [47, 3] 3 = some 47 ∧ nextSlot [3] 3 = some 3) := by
  delta DbgNamesFibre DbgNames DbgAsked; and_intros <;> decide +kernel

/-- Counts of errors of a core's structure and of the root-of-trust core. -/
def tErrs (c u : Nat) : State := { tUS tUW tUF with errs := [⟨⟨0, 0, 0⟩, 1, c, u⟩, ⟨⟨6, 0, 0⟩, 1, c, u⟩] }
theorem witness_ErrorsAreJudged :
    (((tErrs 2 0).errOf ⟨0, 0, 0⟩).corr ≠ 3 ∧ ((tErrs 3 0).errOf ⟨0, 0, 0⟩).corr = 3 ∧ (⟨0, 0, 0⟩ : UnitId).utype ≠ 6) ∧
    (((tErrs 0 0).errOf ⟨0, 0, 0⟩).unc = 0 ∧ ((tErrs 0 1).errOf ⟨0, 0, 0⟩).unc ≠ 0 ∧ (tErrs 0 0).affected ⟨0, 0, 0⟩ = [0]) ∧
    (((tErrs 0 0).errOf ⟨6, 0, 0⟩).unc = 0 ∧ ((tErrs 0 1).errOf ⟨6, 0, 0⟩).unc ≠ 0) ∧
    ((tErrs 0 0).dies[0]?).isSome = true ∧ (∃ p ∈ (tErrs 0 0).parts, ∃ q ∈ p.quads, q / 16 = 0) := by and_intros <;> decide +kernel
theorem witness_ErrorsAreJudged_permits : Config.permitTotal 0 + 0 + 0 = Config.permitTotal 0 ∧ Config.permitTotal 0 + 1 + 0 ≠ Config.permitTotal 0 := by omega

/-- Decisions held, fences and rollbacks ordered; a stopped partition with a snapshot; one that replays. -/
def tDecide : Decision := { record := (tErrs 0 1).record ⟨0, 0, 0⟩ 3 3 [0], fences := [⟨0, 0, 0⟩], rollbacks := [0], deads := [5] }
def tHeld (h t : Word) : State := { tErrs 0 1 with mgmt := { State.reset.mgmt with held := [tDecide], head := h, tail := t }, parts := [placedPartition, tPart5] }
def tFences (u : UnitId) : State := { tAsk placedPartition .attest [] with mgmt := { State.reset.mgmt with toFence := [u] } }
def tRollP : Partition := { tSnapP [{ tSnap 2 true [] with mem := [(5, 9)] }] with stopped := true, order := [(⟨0, 0⟩, 1)] }
def tRolls (p : Partition) : State := { tQuiet p 0 with mgmt := { State.reset.mgmt with toRoll := [0] } }
theorem witness_DecisionsTakeEffect :
    ((tHeld 1023 0).mgmt.held.head? = some tDecide ∧ 1024 ≤ ((tHeld 1023 0xFFFFFFFF).mgmt.head - (tHeld 1023 0xFFFFFFFF).mgmt.tail).toNat ∧
      ((tHeld 1023 0).mgmt.head - (tHeld 1023 0).mgmt.tail).toNat < 1024) ∧
    (∀ u ∈ [⟨0, 0, 0⟩, ⟨2, 383, 0⟩, ⟨5, 3, 0⟩], u ∈ (tFences u).mgmt.toFence ∧ (tFences u).fenceWaits u = false) ∧
    (let s := { tUS tUW tUF with parts := [tExtP], mgmt := { State.reset.mgmt with toFence := [⟨1, 0, 0⟩] } }
     (⟨1, 0, 0⟩ : UnitId) ∈ s.mgmt.toFence ∧ s.fenceWaits ⟨1, 0, 0⟩ = true) ∧
    (let s := tRolls tRollP
     s.part? 0 = some tRollP ∧ 0 ∈ s.mgmt.toRoll ∧ tRollP.stopped = true ∧ placedPartition.stopped = false ∧ tRollP.dead = false ∧ s.mgmt.toFence = [] ∧
     s.dieWaits tRollP = false ∧ tRollP.snapLost = false ∧ tRollP.owed = [] ∧ tRollP.replaced = [] ∧ s.ruling 0 = false ∧ tRollP.newest = some { tSnap 2 true [] with mem := [(5, 9)] } ∧ memWf s.mem = true ∧ memWf [(5, 9)] = true ∧
     ownsAddr tRollP 5 = true ∧ s.queue? 0 = some { tQueue with doneSeq := 0, nextSeq := 1 } ∧
     (tSnap 2 true []).queues.find? (fun y => y.1 = 0) = some (0, 1, 0) ∧ tQueue.part = some tRollP.id) ∧
    (let s := { tRolls tRollP with mgmt := { State.reset.mgmt with toRoll := [0], held := [tDecide] } }
     s.part? 0 = some tRollP ∧ s.ruling 0 = true) ∧
    (let s := tIde tReplays { tQueue with nextSeq := 1 }
     s.part? 0 = some tReplays ∧ tReplays.replay = some tReplay ∧ (∀ h ∈ tReplay.high, ∃ q ∈ s.queues, q.id = h.1 ∧ (q.nextSeq - h.2).toNat < 2 ^ 31) ∧
     tReplay.gone = [] ∧ s.tablesWait tReplays = false ∧ ∀ x ∈ tReplay.recs, x.isTableOf (tReplays.accs + 1) = false) ∧
    (let s := tIde tReplays tQueue
     ∃ h ∈ tReplay.high, ∃ q ∈ s.queues, q.id = h.1 ∧ 2 ^ 31 ≤ (q.nextSeq - h.2).toNat) := by
  and_intros <;> decide +kernel

/-- The states of the frames: in tState, tTwo and tUS the words run, and the fibre that cur names stands there. -/
theorem witness_FrameOfRegisterWords :
    (tState tF).env? (tState tF).cur = some tE ∧
    ∀ w ∈ [Instr.add 20 1 2 0, .sel 20 1 2 1023, .li 20 0 5, .pget 20 0, .addw 62 1 2 0, .addwi 0 1 1023, .adds 20 3 4 0, .fadd 20 5 6 0, .cvte5f 20 5 0, .div 20 1 2 0,
      .flg2 20 5 0, .icmpEq 15 1 2 0, .icmpiLtu 2 1 1023, .fcmpUn 3 5 14 0, .pand 2 3 0 0, .pandn 15 1 2 0], (tGo (tState tF) w).isSome = true := by
  and_intros <;> decide +kernel
theorem witness_FrameOfMemoryWords :
    (tUS tUW tUF).env? (tUS tUW tUF).cur = some tUE ∧ (tUS tUW tUF).memOk = true ∧
    (∀ w ∈ [Instr.ldb 20 8 1023, .ldq 40 8 0, .ldwx 20 4 1 0, .pf 8 0, .stb 1 8 0, .stq 40 8 0, .stb 1 8 512, .stw 1 8 1, .stbx 1 4 1 0, .stdx 40 4 1 0],
      (tGo (tUS tUW tUF) w).isSome = true) ∧
    (∀ x ∈ [(0x40, 1, true), (0x40, 16, true), (0x41, 4, false)],
      (match (tUS tUW tUF).access tUE (BitVec.ofNat 64 x.1) x.2.1 x.2.1 .store with
        | .ok a => a.locs.length == x.2.1
        | .error _ => false) = x.2.2) := by and_intros <;> decide +kernel
theorem witness_FrameOfCommandWords :
    (∀ w ∈ [Instr.nop 0, .bar 0, .mzero 3 0, .mcommit 0, .amoadd 20 8 2 0, .cpy 24 2 0 0 4 28 0 0, .sbinit 31 29 0, .dset 1 0, .wdq 7 28 0, .hopen 2 8 0, .hsync 0 0, .icinv 8 1 0,
      .trap 3, .brk 0], (tGo (tUS tUW tUF) w).isSome = true) ∧
    (∀ w ∈ [Instr.uadd 8 1 2 0, .umov 63 1 0, .uget 8 1 0 0, .uaddi 1 1 1023, .uli 8 0 9, .uldw 8 4 0], (tGo (tTwo w) w).isSome = true) := by and_intros <;> decide +kernel

/-- A workgroup that stands on a core, as the only one. -/
theorem tOnCore (w : Workgroup) (f : Fibre) (r : FRef) (c : w.core ≠ none) (i : w.image = none) : OnCore (tUS w f) r := by
  intro x h
  have e : x = w := by have m := List.mem_of_find?_eq_some h; simpa [tUS] using m
  exact e ▸ ⟨c, i⟩
theorem witness_OnCore : (∀ f, OnCore (tUS tUW f) tRef) ∧ ¬ OnCore (tUS tAway tUF) tRef :=
  ⟨fun f => tOnCore tUW f tRef (by decide) rfl, fun h => (h tAway (by decide +kernel)).1 rfl⟩

/-- Every word guarded off, at the clock's end too. -/
def tOffEnd : Fibre := { tUF with hdr := tOff.hdr, clk := 2 ^ 56 - 1 }
theorem witness_GuardedOff :
    (∀ f ∈ [{ tUF with hdr := tOff.hdr }, tOffEnd], tRuns (tUS tUW f) { tUE with f := f } = true) ∧ clockTop ≤ tOffEnd.clk + 1 ∧
    ∀ w ∈ [Instr.sub 1 2 3 3, .mul 1 2 3 3, .call 2 3 1, .ret 3 1, .fork 2 3 1, .prepr 2 8 3, .mscale 1 2 3, .addi 1 2 3, .cpy 24 2 0 3 4 28 0 0, .li 1 3 9],
      w.isWord = true ∧ w.wellFormed = true ∧ convFire w = none ∧ tOffEnd.pred (guardWith nativeTable ((encode w).headD 0) tOffEnd.cg) = false := by
  and_intros <;> decide +kernel

/-- A shuffle and a reduction whose window lies too high, and words that lack a register or await one. -/
def tHigh (i : Instr) : State := { tTwo i with fibres := (tTwo i).fibres.map fun f => { f with wbase := 8 } }
def tHighE : Env := { tE2 with f := { tF2 with wbase := 8 } }
theorem witness_Operands :
    (∀ w ∈ [Instr.shfl 20 63 2 0, .shfl 63 1 2 0, .redadd 6 63 0, .scanadd 20 63 0], tMeets (tHigh w) .warp tHighE w 1 = true ∧
      lanesOn 0 (meeting (tHigh w) .warp tHighE w) ≠ [] ∧ ∀ x ∈ meeting (tHigh w) .warp tHighE w, x.f.awaits (x.f.wbase + 63) = false ∧
        x.f.awaits (x.f.wbase + 1) = false ∧ x.p.uouts = []) ∧
    tHighE.f.regs.length ≤ 8 + 63 ∧
    (tRuns (tUS tUW (tOut { tLate with dst := [some 2] })) { tUE with f := tOut { tLate with dst := [some 2] } } = true ∧
      (tOut { tLate with dst := [some 2] }).awaits (tUF.wbase + 2) = true ∧ tUF.wne = none) ∧
    (tRuns (tUS tUW (tBF .prepared 8)) { tUE with f := tBF .prepared 8 } = true ∧ ((tBF .prepared 8).bregs.getD 2 ⟨.unprepared, 0⟩).st ≠ .unprepared ∧
      (tBF .prepared 8).regs.length ≤ 8 + 63) := by
  and_intros <;> decide +kernel

/-- Operands of the long-latency functions and of frnd in their general cases. -/
theorem witness_FloatValues :
    (fp32.value 0x40400000 = .fin false 0xC00000 (-22) ∧ fp32.value 0x80000001 = .fin true 1 (-149)) ∧
    ((0 < 0xC00000 ∧ 0xC00000 < 2 ^ 24) ∧ (-171 : Int) ≤ -149 ∧ (-171 : Int) ≤ -22 - -149 ∧ 2 * (-171 : Int) ≤ -22 ∧ 2 * (-171 : Int) ≤ 22) ∧
    ((∀ m ∈ [RMode.rne, .rtz, .rdn, .rup, .sr], (Rnd.mk m 0).mode = m) ∧ RMode.rup ∈ [RMode.rtz, .rdn, .rup]) := by
  and_intros <;> decide +kernel

/-- A word that is alone in its class: a write of the event tail, and the host's writes of words of the page. -/
theorem witness_PageWords : (17 < 64 ∧ 0x5000 + 4 * 17 = 0x5044) ∧ placedPartition.dbgBusy = none ∧
    (∀ k ∈ [0, 2 ^ 13 - 1], k < 2 ^ 13 ∧ pageAt ≤ pageAt + 8 * k ∧ pageAt + 8 * k + 8 ≤ 2 ^ 40) ∧
    (∀ k ∈ [0, 2 ^ 14 - 1], k < 2 ^ 14 ∧ pageAt + 4 * k + 4 ≤ 2 ^ 40) ∧ (toBytes 8 5).length = 8 ∧ (tIde placedPartition tQueue).boot.ide = true := by
  and_intros <;> decide +kernel

/-- A workgroup of a gang that has exited while another workgroup's fibre still stands below its exit's clock. -/
def tGangLeft (c : Option Nat) : State :=
  { tUS tUW tUF with
    launches := [{ tGangL with exits := [(0, ⟨4000, 0, 0⟩)] }]
    wgs := [{ tUW with core := c }, { tUW with ref := ⟨⟨0, 0⟩, 1⟩, core := some 1 }]
    fibres := [tGangF 1 2000 (.sbwait 0x800 1 2000 (some 1))] }
theorem witness_ExcludedBelow :
    ∀ c ∈ [none, some 0], let s := tGangLeft c
      let l := { tGangL with exits := [(0, ⟨4000, 0, 0⟩)] }
      s.wg? ⟨⟨0, 0⟩, 0⟩ = some { tUW with core := c } ∧ s.launch? ⟨0, 0⟩ = some l ∧ l.exitOf 0 = some ⟨4000, 0, 0⟩ ∧ s.wgFibres ⟨⟨0, 0⟩, 0⟩ = [] ∧
      4000 < s.quadHorizon l 0 ∧ s.padNeeded l 0 = false ∧ s.excludedBelow l 0 4000 = true := by decide +kernel

/-- Tags whose entries' launches have gone. -/
theorem witness_FreedTags :
    (let p := { placedPartition with faultTags := [4], stopTags := [4, 5] }
     let s := { tUS tUW tUF with parts := [p] }
     s.part? 0 = some p ∧ (∀ z ∈ p.faultQ, z.tag ≠ some 4) ∧ 4 ∈ p.faultTags ∧ 7 ∉ p.faultTags ∧ (∀ f ∈ s.partFibres 0, stopTag f ≠ some 5) ∧ 5 ∈ p.stopTags ∧
     7 ∉ p.stopTags) := by decide +kernel

/-- A move whose new frame another entry maps; slots that have no room, or still take a snapshot; a stopped partition's snapshot. -/
theorem witness_FramesAndSlots :
    (let m : FrameMove := ⟨0x6000000, 0x8000000, 2 ^ 25⟩
     let t := { tMoved 0x8000003 with mem := memPutNat (tMoved 0x8000003).mem 0x3410 8 0x8000003 }
     t.moveOf tExtP tExt t.arg (1, 0x102000000) (0x3408, 0x8000003) = some m ∧ t.framesFree tExtP [m] = false) ∧
    (let s := tAskX placedPartition .snapshotSlots [0, 1] [5, 0]
     ∃ x ∈ (tSnapP [tSnap 2 false []]).snaps, x.complete = false ∧ { s with parts := [tSnapP [tSnap 2 false []]] }.part? (s.arg 0) = some (tSnapP [tSnap 2 false []])) ∧
    (let p := { tDue false [] with slots := [2] }
     (tQuiet p 0).part? 0 = some p ∧ p.mark = some (3, [(0, 0)]) ∧ (tQuiet p 0).slotsFit p = false ∧ p.replay = none) ∧
    (∀ p ∈ [{ tSnapP [tSnap 3 false []] with stopped := true }, { tSnapP [tSnap 3 false []] with dead := true }],
      p.snaps.find? (fun x => !x.complete) = some (tSnap 3 false []) ∧ (p.stopped = true ∨ p.dead = true)) ∧
    ((tSnapP [tSnap 3 false [5]]).stopped = false ∧ (tSnapP [tSnap 3 false [5]]).dead = false) ∧
    (let p := { tDue true [] with snapLost := true }
     p.dualRun = true ∧ p.snapLost = true ∧ (tQuiet p 0).slotsFit p = true) := by
  and_intros <;> decide +kernel

/-- A memory channel and a processor to fence, of a stopped partition that holds granules and slots there; a rollback without its snapshot;
replays whose last tables wait or stand. -/
def tStopped : Partition := { tRollP with granules := [0, 1, 2], slots := [3, 4] }
def tTabRec (w : Bool) : JRec := .table (placedPartition.accs + 1) 0 [(0x3408, 0x6000003#64)] none w
def tReplayT (w : Bool) : Partition := { placedPartition with replay := some { tReplay with recs := [tTabRec w] } }
theorem witness_FencesAndTables :
    (∀ u ∈ [⟨2, 0, 0⟩, ⟨2, 1, 0⟩, ⟨5, 3, 0⟩], let s := { tFences u with parts := [tStopped] }
      u ∈ s.mgmt.toFence ∧ s.fenceWaits u = false ∧ s.part? 0 = some tStopped) ∧ tStopped.stopped = true ∧
    ({ tRollP with snapLost := true }.snapLost = true ∧ (tRolls { tRollP with snapLost := true }).part? 0 = some { tRollP with snapLost := true }) ∧
    (let s := tIdeL (tReplayT true) { tQueue with nextSeq := 1 }
     s.part? 0 = some (tReplayT true) ∧ s.tablesWait (tReplayT true) = true) ∧
    (let s := tIde (tReplayT false) { tQueue with nextSeq := 1 }
     s.part? 0 = some (tReplayT false) ∧ s.tablesWait (tReplayT false) = false ∧ (∀ h ∈ tReplay.high, ∃ q ∈ s.queues, q.id = h.1 ∧ (q.nextSeq - h.2).toNat < 2 ^ 31) ∧
     ((s.replayTables (tReplayT false)).part? 0).isSome = true) := by
  and_intros <;> decide +kernel

/-- The words that the frames name, where they run. -/
theorem witness_FrameOfOtherWords :
    (∀ w ∈ [Instr.rdsr 20 1, .movs 20 1 0, .dbgm 20 1 0, .wrsr 1 12, .setrm 1, .pset 3 1, .pput 2 0, .prep 2 16, .prepr 2 8 0, .ret 0 1, .halt 0, .ph 3 0xFFFFFFFF 0xFFFFFFFF 0 0],
      (tGo (tState tF) w).isSome = true) ∧
    (∀ w ∈ [Instr.jmp 2 0, .call 2 0 1, .fork 2 0 20], (tGo (tUS tUW (tBF .prepared 0)) w).isSome = true) ∧
    (∀ w ∈ [Instr.mrd 20 2 1 0, .mwr 2 1 20 0, .sbtest 4 28 29 0, .amomax 20 8 2 0, .amoaddw 20 8 2 0, .amocas 20 8 2 0], (tGo (tUS tUW tUF) w).isSome = true) ∧
    (∀ w ∈ [Instr.wsync 0, .ballot 6 2 0, .redmax 6 1 0, .uaddw 6 4 4 0, .uldd 6 4 0, .shfl 20 1 2 0, .lid 20 0, .scanadd 20 1 0, .voteany 4 2 0, .electw 4 0, .elect 4 0],
      (tGo (tTwo w) w).isSome = true) := by
  and_intros <;> decide +kernel

/-- What an instruction of the fibre tUF leaves of it; the first fault code it parks with. -/
def tU0 (i : Instr) : Option Fibre := (tGo (tUS tUW tUF) i).bind fun t => t.fibre? tRef
def tCodeOf (f : Option Fibre) : Option Nat := f.bind fun f => match f.st with
  | .parked r _ => some r.code
  | _ => none
/-- R212 to R217: `prep` takes its own clause's header plus 4 * DISP, `prepr` a pair; a jump goes to it; `call` sets b7 and moves the window. -/
theorem test_step_transfer : ((tU0 (.prep 3 0x7FFFF)).map fun f => f.bregs.getD 3 ⟨.unprepared, 0⟩) = some ⟨.prepared, 0xFFFFFFFC#57⟩ ∧
    ((tU0 (.prepr 3 10 0)).map fun f => f.bregs.getD 3 ⟨.unprepared, 0⟩) = some ⟨.prepared, 0x100000000#57⟩ ∧ tCodeOf (tU0 (.prepr 3 2 0)) ≠ none ∧
    ((tGo (tUS tUW (tBF .prepared 0)) (.jmp 2 0)).bind fun t => (t.fibre? tRef).map (·.npc)) = some 0x100000100#57 ∧
    ((tGo (tUS tUW (tBF .prepared 0)) (.call 2 0 1)).bind fun t => (t.fibre? tRef).map fun f => (f.npc, f.wbase, f.bregs.getD 7 ⟨.unprepared, 0⟩, f.regs.getD 8 0)) =
      some (0x100000100#57, 8, ⟨.prepared, 0x100000014#57⟩, 0x14) ∧
    ((tGo (tUS tUW (tBF .prepared 16)) (.ret 0 1)).bind fun t => (t.fibre? tRef).map fun f => (f.npc, f.wbase)) = some (0x100000200#57, 8) ∧
    ((tGo (tUS tUW (tBF .unprepared 0)) (.jmp 2 0)).bind fun t => tCodeOf (t.fibre? tRef)) ≠ none := by and_intros <;> decide +kernel
/-- R220 to R227: a halt ends the fibre; barrier words and their faults; `clk` weighs 1 + n. -/
theorem test_step_waits : (tU0 (.halt 0)).isSome = false ∧ ((tU0 (.bar 0)).map (·.st)) = some (.bar 0 1 2000) ∧ ((tU0 (.arv 0)).map (·.arrOut)) = some [true, false, false, false] ∧
    tCodeOf (tU0 (.bwait 0)) ≠ none ∧ tCodeOf (tU0 (.bar 1)) ≠ none ∧ ((tU0 (.clk 12)).map (·.clk)) = some 2013 ∧ ((tU0 (.nop 0)).map (·.clk)) = some 2001 ∧
    ((tU0 (.cede 0)).map (·.st)) = some (.turn 2048 (.leave 2048)) ∧ ((tU0 (.waitne 8 7 0)).isSome = true) ∧ tCodeOf (tU0 (.trap 5)) = some 0x18 ∧
    tCodeOf (tU0 (.brk 0)) = some 0x19 ∧ ((tU0 (.fork 2 0 12)).bind fun f => tCodeOf (some f)) ≠ none := by and_intros <;> decide +kernel
/-- R161 to R164: what a load asks for, what a store leaves pending, where an indexed form goes; misaligned and unmapped accesses fault. -/
theorem test_step_memory : (tU0 (.ldsh 20 8 2)).map (fun f => f.outs.map fun o => (o.dst, o.addr, o.size, o.sext)) = some [([some 20], 0x42, 2, true)] ∧
    (tU0 (.ldq 40 8 0)).map (fun f => f.outs.map fun o => (o.dst, o.size)) = some [([some 40, some 41, some 42, some 43], 16)] ∧
    (tU0 (.stw 3 8 4)).map (fun f => f.pend.map fun b => (b.addr, b.val)) = some [(0x47, 0x80), (0x46, 0), (0x45, 0), (0x44, 0)] ∧
    (tU0 (.sth 13 8 1022)).map (fun f => f.pend.map fun b => (b.addr, b.val)) = some [(0x3F, 0xF0), (0x3E, 0xF0)] ∧
    (tU0 (.stbx 13 4 1 0)).map (fun f => f.pend.map fun b => (b.loc, b.val)) = some [(.spad 0 5, 0xF0)] ∧ tCodeOf (tU0 (.ldw 20 8 2)) ≠ none ∧ tCodeOf (tU0 (.pf 8 1)) = none ∧
    tCodeOf ((tGo (tSA .ordered 0x140000000) (.ldb 20 8 0)).bind fun t => t.fibre? tRef) ≠ none := by and_intros <;> decide +kernel
/-- R167 to R170: the atomic takes its turn before it performs; `turn` publishes. -/
theorem test_step_atomic : (∀ x ∈ [(Instr.amoadd 20 8 1 0, AOp.add), (.amomin 20 8 1 0, .min), (.amoxchg 20 8 1 0, .xchg), (.amofadd 20 8 1 0, .fadd)],
      ((tU0 x.1).map fun f => match f.st with
        | .turn t (.atom a) => (t, a.op, a.addr, a.b0)
        | _ => (0, x.2, 0, 0)) = some (2000, x.2, 0x40, 5)) ∧
    ((tU0 (.turn 0)).map (·.st)) = some (.turn 2000 (.leave 2001)) ∧ tCodeOf ((tGo (tSA .constant 0x100000000) (.amoadd 20 8 1 0)).bind fun t => t.fibre? tRef) ≠ none := by and_intros <;> decide +kernel
/-- R171 to R193: commands join their queues, barriers open with their counts, a missing barrier faults. -/
theorem test_step_commands : (tCopied.launches.map fun l => l.ecmds.map fun c => (c.bar, c.done)) = [[(0x800, false)]] ∧
    (tZeroed.wgs.map fun w => w.mcmds.map fun c => (c.tile, c.done)) = [[(1, false)]] ∧ ((tU0 (.mcommit 0)).map (·.commits)) = some 1 ∧
    ((tGo (tUS tUW tUF) (.sbinit 10 29 0)).map fun t => (tW0 t).sbars.map fun b => (b.addr, b.arrive, b.pend)) = some [(0x800, 2, 2), (0, 1, 1)] ∧
    tCodeOf (tU0 (.sbinit 28 29 0)) ≠ none ∧ tCodeOf (tU0 (.sbarv 10 29 0)) ≠ none ∧ ((tB0 tArrived).phase, (tB0 tFlipped).phase, (tB0 tArrived).pend) = (0, 1, 1) ∧
    (tItem.launches.map fun l => l.wdqs.length) = [1] ∧ (tCode.launches.map fun l => l.icinvs.map fun c => (c.lo, c.hi)) = [[(2 ^ 32, 2 ^ 32 + 128)]] := by and_intros <;> decide +kernel
/-- R202 to R207: a Harp word waits for its act; the act opens, pushes, hands out and closes. -/
def tHarp (x : Stream) (i : Instr) : Option (Stream × Option Fibre) := (tGo (tHS x i) (.harpActApply tRef)).map fun t => ((tW0 t).harp.headD Stream.closed, t.fibre? tRef)
theorem test_step_harp : ((tU0 (.hopen 0 8 0)).map (·.st)) = some (.harp (.hopen 0 8 0)) ∧
    (tHarp Stream.closed (.hopen 0 8 0)).map (fun x => (x.1.st, x.1.nb, x.1.f)) = some (.opened, 0x40, 0) ∧
    (tHarp (tOpen [] []) (.hpush 44 0 1 0)).map (fun x => x.1.cons.map fun c => (c.payload, c.group)) = some [(5, 1)] ∧
    (tHarp (tOpen [] []) (.hclose 0 0)).map (fun x => x.1.st) = some .closed ∧ (tHarp (tOpen [⟨5, 1, .waiting⟩] []) (.hclose 0 0)).map (fun x => x.1.st) = some .draining ∧
    (tHarp (tOpen [⟨5, 1, .waiting⟩] []) (.hnext 20 0 0)).map (fun x => x.1.cons.map (·.st)) = some [.handed] ∧
    (tHarp (tOpen [⟨5, 1, .handed⟩] []) (.hdone 0 1 0)).map (fun x => x.1.f) = some 1 := by and_intros <;> decide +kernel

end
end

section
/-! PROOFS. The words `sel` and `li` (R87, R89): what each does when it is guarded on and off, and how the two words of `li` decode. -/

namespace Sys2Proof

/-! ## Decoding a native word (R33 to R39, R50) -/

/-- A word with a native opcode decodes to the legal instruction that its fields build, when encoding gives the words back. -/
theorem decode_of_buildInstr {w : Word} {rest : List Word} {op : Nat} {i : Instr} (hop : w.toNat / 2 ^ 22 = op)
    (hnat : isNativeOp op = true) (hlen : (formOf op).len ≤ rest.length + 1)
    (hbuild : buildInstr op w.toNat (wordAt (w :: rest) 1) (wordAt (w :: rest) 2) (wordAt (w :: rest) 3) = some i)
    (hwf : i.wellFormed = true) (henc : encode i = w :: rest.take ((formOf op).len - 1)) :
    decode (w :: rest) = .ok i ((w :: rest).drop (formOf op).len) := by
  have hw : op * 2 ^ 22 + w.toNat % 2 ^ 22 = w.toNat := by omega
  have hlen' : ¬ (w :: rest).length < (formOf op).len := by simpa using hlen
  simp only [decode, decodeWith, nativeTable, hop, hnat, if_true, hw, if_neg hlen', hbuild, hwf, henc, BitVec.ofNat_toNat,
    BitVec.setWidth_eq, beq_self_eq_true, Bool.and_self]

/-- A word of format R with 0 in its fields A and B, as a number (R33). -/
theorem encR_zero_toNat {op d g : Nat} (hop : op < 2 ^ 10) (hd : d < 64) (hg : g < 16) :
    (encR op d 0 0 g).toNat = op * 2 ^ 22 + d * 2 ^ 16 + g := by
  simp only [encR, BitVec.toNat_ofNat]
  omega

/-- The two words of `li` decode to it (R35, R89). -/
theorem decode_li {d g : Nat} (lit : Word) (hd : d < 64) (hg : g < 16) : decode [encR 0x060 d 0 0 g, lit] = .ok (.li d g lit) [] := by
  have hn := encR_zero_toNat (op := 0x060) (by decide) hd hg
  have hfd : bits (encR 0x060 d 0 0 g).toNat 21 16 = d := by rw [hn]; simp only [bits]; omega
  have hfg : bits (encR 0x060 d 0 0 g).toNat 3 0 = g := by rw [hn]; simp only [bits]; omega
  refine decode_of_buildInstr (op := 0x060) (by omega) (by decide) (Nat.le_refl 2) ?_ ?_ rfl
  · calc buildInstr 0x060 (encR 0x060 d 0 0 g).toNat lit.toNat 0 0
        = some (.li (bits (encR 0x060 d 0 0 g).toNat 21 16) (bits (encR 0x060 d 0 0 g).toNat 3 0) (BitVec.ofNat 32 lit.toNat)) := rfl
      _ = some (.li d g lit) := by rw [hfd, hfg, BitVec.ofNat_toNat, BitVec.setWidth_eq]
  · simp [Instr.wellFormed, okV, okP, hd, hg]

namespace Machine

variable {s : State} {e : Env} {d a b p g : Nat} {lit : Word}

/-! ## `sel` (R87) -/

/-- Under the clause guard, `sel` passes with the operand that its predicate chooses in d. -/
theorem exec_sel_on (h : Runs s e) (hroom : Room e 1) (hcg : e.f.pred e.f.cg = true) (hheld : Held e.f [d, a, b])
    (hhere : Here e.f [a, b]) : Writes s e (.sel d a b p) d (if e.f.pred p then e.f.val a else e.f.val b) := by
  have hrun : execSel d a b p s = .next (s.pass s e (vset e.f d (if e.f.pred p then e.f.val a else e.f.val b)) 1 1) :=
    runPlain_on h hcg (by simp [vchk_held hheld, vget_here hhere, bind, Except.bind])
  rwa [pass_room hroom] at hrun

/-- Where the clause guard is 0, `sel` only passes. -/
theorem exec_sel_off (h : Runs s e) (hroom : Room e 1) (hcg : e.f.pred e.f.cg = false) : Leaves s e (.sel d a b p) e.f := by
  have hrun : execSel d a b p s = .next (s.pass s e e.f 1 1) := runPlain_off h hcg
  rwa [pass_room hroom] at hrun

/-- Settles O9: the clause guard decides whether `sel` writes, its own predicate which operand. -/
theorem selectResult : Obligations.SelectResult := by
  intro s e d a b p h hroom
  refine ⟨fun hcg hheld hhere => ?_, exec_sel_off h hroom⟩
  have hsel := exec_sel_on (p := p) h hroom hcg hheld hhere
  exact ⟨fun hp => by simpa [hp] using hsel, fun hp => by simpa [hp] using hsel⟩

/-! ## `li` (R89) -/

/-- A guarded-on `li` passes both its words, with weight 2, and with its literal in d. -/
theorem exec_li_on (h : Runs s e) (hroom : Room e 2) (hg : e.f.pred g = true) (hheld : Held e.f [d]) :
    exec (.li d g lit) s = .next (passed s e (vset e.f d lit) 2 2) := by
  have hrun : execLi d g lit s = .next (s.pass s e (vset e.f d lit) 2 2) := runPlain_on h hg (by simp [vchk_held hheld, bind, Except.bind])
  rwa [pass_room hroom] at hrun

/-- A guarded-off `li` only passes its two words. -/
theorem exec_li_off (h : Runs s e) (hroom : Room e 2) (hg : e.f.pred g = false) :
    exec (.li d g lit) s = .next (passed s e e.f 2 2) := by
  have hrun : execLi d g lit s = .next (s.pass s e e.f 2 2) := runPlain_off h hg
  rwa [pass_room hroom] at hrun

/-- Settles O10: `li` run under its guard, and its two words encoded and decoded. -/
theorem literalResult : Obligations.LiteralResult := by
  refine ⟨fun s e d g lit h hroom => ⟨fun hg hheld => ⟨exec_li_on h hroom hg hheld, rfl⟩, exec_li_off h hroom⟩, fun d g lit hd hg => ?_⟩
  have henc : encR 0x060 d 0 0 g = BitVec.ofNat 32 (0x060 * 2 ^ 22 + d * 2 ^ 16 + g) := by simp [encR]
  rw [← henc]
  exact ⟨rfl, decode_li lit hd hg⟩

end Machine
end Sys2Proof
end

section
/-! PROOFS. The word `trap` (R296): what it does guarded on and off, where Continue leaves its fibre, and how its word decodes. -/

namespace Sys2Proof

/-! ## Decoding `trap` (R33, R48) -/

/-- A native word of one-word form is reserved when the instruction that its fields build encodes otherwise (R48). -/
theorem decode_of_encode_ne {w : Word} {op : Nat} {i : Instr} (hop : w.toNat / 2 ^ 22 = op) (hnat : isNativeOp op = true)
    (hlen : (formOf op).len = 1) (hbuild : buildInstr op w.toNat 0 0 0 = some i) (henc : encode i ≠ [w]) :
    decode [w] = .bad .reserved := by
  have hw : op * 2 ^ 22 + w.toNat % 2 ^ 22 = w.toNat := by omega
  have hbuild' : buildInstr op w.toNat (wordAt [w] 1) (wordAt [w] 2) (wordAt [w] 3) = some i := hbuild
  have hne : (encode i == [w]) = false := by simpa using henc
  simp [decode, decodeWith, nativeTable, hop, hnat, hw, hlen, hbuild', hne, -Nat.reducePow]

/-- The word with the opcode of `trap`, x in its fields D and A together, and immediate i, as a number (R33). -/
theorem trapWord_toNat {x i : Nat} (hx : x < 2 ^ 12) (hi : i < 1024) :
    (BitVec.ofNat 32 (0x20F * 2 ^ 22 + x * 2 ^ 10 + i)).toNat = 0x20F * 2 ^ 22 + x * 2 ^ 10 + i := by
  rw [BitVec.toNat_ofNat]
  omega

/-- That word builds `trap i`, whatever its fields D and A hold. -/
theorem buildInstr_trapWord (x : Nat) {i : Nat} (hi : i < 1024) :
    buildInstr 0x20F (0x20F * 2 ^ 22 + x * 2 ^ 10 + i) 0 0 0 = some (.trap i) := by
  have hfi : bits (0x20F * 2 ^ 22 + x * 2 ^ 10 + i) 9 0 = i := by simp only [bits]; omega
  calc buildInstr 0x20F (0x20F * 2 ^ 22 + x * 2 ^ 10 + i) 0 0 0
      = some (.trap (bits (0x20F * 2 ^ 22 + x * 2 ^ 10 + i) 9 0)) := rfl
    _ = some (.trap i) := by rw [hfi]

/-- With D and A zero the word decodes to `trap i`. -/
theorem decode_trapWord {i : Nat} (hi : i < 1024) : decode [BitVec.ofNat 32 (0x20F * 2 ^ 22 + 0 * 2 ^ 10 + i)] = .ok (.trap i) [] := by
  have hn := trapWord_toNat (x := 0) (by decide) hi
  refine decode_of_buildInstr (op := 0x20F) (by omega) (by decide) (Nat.le_refl 1) ?_ ?_ rfl
  · rw [hn]
    exact buildInstr_trapWord 0 hi
  · simp [Instr.wellFormed, okImm10, hi]

/-- With D or A not zero the word is reserved: `trap i` encodes to another one. -/
theorem decode_trapWord_reserved {x i : Nat} (hx : x < 2 ^ 12) (hx0 : x ≠ 0) (hi : i < 1024) :
    decode [BitVec.ofNat 32 (0x20F * 2 ^ 22 + x * 2 ^ 10 + i)] = .bad .reserved := by
  have hn := trapWord_toNat hx hi
  refine decode_of_encode_ne (op := 0x20F) (i := .trap i) (by omega) (by decide) rfl ?_ fun henc => ?_
  · rw [hn]
    exact buildInstr_trapWord x hi
  · have hword : BitVec.ofNat 32 (0x20F * 2 ^ 22 + 0 * 2 ^ 10 + i) = BitVec.ofNat 32 (0x20F * 2 ^ 22 + x * 2 ^ 10 + i) := by
      simpa [encode, encI] using henc
    have h0 := trapWord_toNat (x := 0) (by decide) hi
    rw [hword, hn] at h0
    omega

namespace Machine

variable {s : State} {e : Env} {q : FaultRec} {n tag i : Nat}

/-! ## The word -/

/-- Under the clause guard, `trap` parks its fibre, and does nothing else. -/
theorem exec_trap_on (h : Runs s e) (hcg : e.f.pred e.f.cg = true) : Faults s e (.trap i) 0x18 0 (BitVec.ofNat 64 i) := by
  have hrun : execTrap i s = .next (s.stopped e (.fault 0x18 0 (BitVec.ofNat 64 i))) := runPlain_stop h hcg rfl
  exact hrun

/-- Where the clause guard is 0, `trap` only passes. -/
theorem exec_trap_off (h : Runs s e) (hroom : Room e 1) (hcg : e.f.pred e.f.cg = false) : Leaves s e (.trap i) e.f := by
  have hrun : execTrap i s = .next (s.pass s e e.f 1 1) := runPlain_off h hcg
  rwa [pass_room hroom] at hrun

/-! ## Continue (R293) -/

/-- Fibres are found alike in states that list the same. -/
theorem fibre?_congr {t : State} (h : t.fibres = s.fibres) (r : FRef) : t.fibre? r = s.fibre? r := by
  simp only [State.fibre?, h]

/-- What memory holds does not matter to which fibre is found. -/
theorem fibre?_withMem (m : Memory) (r : FRef) : ({ s with mem := m } : State).fibre? r = s.fibre? r := rfl

/-- A fibre that turns is found at the clock and word that it held, its stores published (R133). -/
theorem fibre?_turnAt {l : Launch} {f x : Fibre} {t : Nat} {k : AfterTurn} (h : s.fibre? f.ref = some x) :
    (s.turnAt l f t k).fibre? f.ref = some { f.published t with st := .turn t k } :=
  fibre?_setF (s := s.publishPend l f t) (f := { f.published t with st := .turn t k }) h

/-- A fibre whose clock moves is found at the new clock and at its word, with a boundary turn or without one (R134). -/
theorem fibre?_moveClock {l : Launch} {f x : Fibre} {c : Nat} (h : s.fibre? f.ref = some x) :
    ∃ g, (s.moveClock l f c).fibre? f.ref = some g ∧ g.clk = c ∧ g.widx = f.widx := by
  unfold State.moveClock
  split
  · exact ⟨_, fibre?_turnAt (f := { f with clk := c }) h, rfl, rfl⟩
  · exact ⟨_, fibre?_setF (f := { f with clk := c, st := f.stand }) h, rfl, rfl⟩

/-- A fibre whose stop is complete is found past its word, its clock one higher (R293). -/
theorem fibre?_completeStop (h : s.fibre? e.f.ref = some e.f) (hroom : Room e 1) :
    ∃ g, (s.completeStop e).fibre? e.f.ref = some g ∧ g.clk = e.f.clk + 1 ∧ g.widx = e.f.widx + 1 := by
  have hpass : s.completeStop e = passed s { e with f := { e.f with st := .run } } { e.f with st := .run } 1 1 := pass_room hroom
  rw [hpass]
  exact fibre?_moveClock (f := Fibre.past { e.f with st := .run } 1) h

/-- Writing a saved fibre's record anew leaves the fibre as it was, but for its registers' liveness. -/
theorem fibre?_patchFibre {r : FRef} {f : Fibre} (h : s.fibre? r = some f) :
    ∃ live, (s.patchFibre r).fibre? r = some { f with live := live } := by
  unfold State.patchFibre
  split
  · exact ⟨f.live, h⟩
  · rename_i e he
    obtain rfl : e.f.ref = r := env_ref he
    obtain rfl : f = e.f := Option.some.inj (h.symm.trans (env_parts he).1)
    have hset := fibre?_setF (f := { e.f with live := none }) h
    dsimp only
    split
    · exact ⟨none, (fibre?_withMem _ _).trans hset⟩
    · split
      · exact ⟨none, (fibre?_congr (State.updW_fibres _ _ _) _).trans hset⟩
      · exact ⟨e.f.live, h⟩

/-- Continue of a posted stop: the fibre goes on from its record, and the answer is accepted (R293, R350). -/
theorem answerStop_continue (hfind : (s.partFibres n).find? (fun f => stopTag f = some tag) = some e.f)
    (henv : s.env? e.f.ref = some e) {p : Posted} (hst : e.f.st = .parked q p) :
    s.answerStop n tag true =
      ((s.goOn e q).patchFibre e.f.ref).goodAnswer n [.stopAns e.l.ref q.warp q.lane q.clk q.code true] := by
  simp [State.answerStop, hfind, henv, hst]

/-- Continue of the stop of a `trap` or `brk` leaves its fibre past the word, at its clock plus 1 (R293, R296, R297). -/
theorem continueStop_completes (hfind : (s.partFibres n).find? (fun f => stopTag f = some tag) = some e.f)
    (henv : s.env? e.f.ref = some e) {p : Posted} (hst : e.f.st = .parked q p) (hcode : q.code = 0x18 ∨ q.code = 0x19)
    (hroom : Room e 1) :
    ∃ u g, Does s (.continueStop n tag) u ∧ u.fibre? e.f.ref = some g ∧ g.clk = e.f.clk + 1 ∧ g.widx = e.f.widx + 1 := by
  have hgo : s.goOn e q = s.completeStop e := if_pos hcode
  obtain ⟨f, hf, hclk, hwidx⟩ := fibre?_completeStop (env_parts henv).1 hroom
  obtain ⟨live, hpatch⟩ := fibre?_patchFibre hf
  refine ⟨s.answerStop n tag true, { f with live := live }, runAct_some (s := s) rfl, ?_, hclk, hwidx⟩
  rw [answerStop_continue hfind henv hst, hgo]
  exact (fibre?_congr (State.updP_fibres _ _ _) _).trans hpatch

/-- Settles O31: `trap` run under the clause guard and without it, continued, encoded and decoded. -/
theorem trapStops : Obligations.TrapStops := by
  refine ⟨fun s e i h _ => ⟨exec_trap_on h, fun hcg hroom => exec_trap_off h hroom hcg⟩,
    fun s n tag e q hfind henv hst hcode hroom => continueStop_completes hfind henv hst (.inl hcode) hroom, rfl,
    fun x hx i hi => ⟨?_, fun hx0 => ⟨_, decode_trapWord_reserved hx hx0 hi⟩⟩⟩
  rintro rfl
  exact decode_trapWord hi

end Machine
end Sys2Proof
end
